-- ==== Sys2Proof/Word.lean ====
section
/-! DEFINITION. Word.lean: the widths of values of the MV-B480 and the per-lane vector type. -/
namespace Sys2Proof

/-- One byte. -/
abbrev Byte := BitVec 8
/-- A 32-bit lane word. -/
abbrev Word := BitVec 32
/-- A 64-bit scalar value. -/
abbrev Dword := BitVec 64
/-- A 6-bit format tag code (R70). -/
abbrev Tag := BitVec 6
/-- One bit per lane of a group (bit L for lane L). -/
abbrev Mask := BitVec 32
/-- One 32-bit word for each lane of a group (R25). -/
abbrev Lanes := Vector Word 32

end Sys2Proof
end

