-- ==== Sys2Proof/Syntax.lean ====
section
/-! DEFINITION. Syntax.lean: the instructions and steps of the MV-B480, one constructor for each row of the opcode
table, and the operand shapes they carry. -/
namespace Sys2Proof

/-- R129: the payload of an operand pfx word. -/
structure OperandPfx where
  /-- opcode-specific value -/
  x : BitVec 6
  /-- field b names a scalar register -/
  bs : Bool
  /-- third vector source; 127 for none -/
  c : BitVec 7
  /-- index field b by xi -/
  xb : Bool
  /-- index field a by xi -/
  xa : Bool
  /-- index field d by xi -/
  xd : Bool
  /-- the pfx supplies the guard -/
  gen : Bool
  /-- with gen, inverts the guard -/
  gneg : Bool
  /-- with gen, the guard predicate -/
  gq : BitVec 3
  deriving DecidableEq, Repr

/-- R129: the payload with every field at its null value. -/
def OperandPfx.null : OperandPfx := ⟨0, false, 127, false, false, false, false, false, 0⟩

/-- R131: the pfx words before an instruction: none, one, or one of each kind in either order. -/
inductive Pfx where
  | none
  | op (o : OperandPfx)
  | imm (v : BitVec 22)
  | opImm (o : OperandPfx) (v : BitVec 22)
  | immOp (v : BitVec 22) (o : OperandPfx)
  deriving DecidableEq, Repr

/-- The operand payload, null where there is no operand pfx (R129). -/
def Pfx.operand : Pfx → OperandPfx
  | .none => .null
  | .op o => o
  | .imm _ => .null
  | .opImm o _ => o
  | .immOp _ o => o

/-- The immediate payload, where there is one (R130). -/
def Pfx.immediate : Pfx → Option (BitVec 22)
  | .none => Option.none
  | .op _ => Option.none
  | .imm v => some v
  | .opImm _ v => some v
  | .immOp v _ => some v

/-- How many pfx words stand before the instruction (R131). -/
def Pfx.words : Pfx → Nat
  | .none => 0
  | .op _ => 1
  | .imm _ => 1
  | .opImm _ _ => 2
  | .immOp _ _ => 2

/-- R121: a lane instruction whose field b is a source, a literal or a tag. -/
structure LaneW where
  pfx : Pfx
  chain : Bool
  guard : BitVec 2
  d : BitVec 7
  a : BitVec 7
  b : BitVec 7
  deriving DecidableEq, Repr

/-- R121: a lane instruction whose field b is fixed by the opcode row. -/
structure LaneU where
  pfx : Pfx
  chain : Bool
  guard : BitVec 2
  d : BitVec 7
  a : BitVec 7
  deriving DecidableEq, Repr

/-- R220: a scalar operation of two sources. -/
structure ScalarW where
  pfx : Pfx
  chain : Bool
  d : BitVec 7
  a : BitVec 7
  b : BitVec 7
  deriving DecidableEq, Repr

/-- R220: a scalar operation of one source. -/
structure ScalarU where
  pfx : Pfx
  chain : Bool
  d : BitVec 7
  a : BitVec 7
  deriving DecidableEq, Repr

/-- R141: a per-lane load or store. -/
structure MemW where
  pfx : Pfx
  guard : BitVec 2
  d : BitVec 7
  a : BitVec 7
  ord : BitVec 4
  wid : BitVec 3
  deriving DecidableEq, Repr

/-- R141: a scalar load or store. -/
structure MemS where
  pfx : Pfx
  d : BitVec 7
  a : BitVec 7
  ord : BitVec 4
  wid : BitVec 3
  deriving DecidableEq, Repr

/-- R142: an atomic; the data source is c of the operand pfx. -/
structure AtmW where
  pfx : Pfx
  guard : BitVec 2
  d : BitVec 7
  a : BitVec 7
  ord : BitVec 3
  wide : Bool
  deriving DecidableEq, Repr

/-- R127: a 16-bit instruction. -/
structure HalfW where
  a : BitVec 6
  d : BitVec 5
  deriving DecidableEq, Repr

/-- R427: a Fallos transaction. -/
structure Packet where
  opcode : BitVec 8
  mclass : BitVec 2
  tclass : BitVec 2
  rank : BitVec 3
  mark : Bool
  src : BitVec 14
  dst : BitVec 14
  ftid : BitVec 16
  seq : BitVec 32
  tag : BitVec 32
  win : BitVec 12
  off : BitVec 38
  len : BitVec 16
  cause : BitVec 8
  payload : List (BitVec 8)
  deriving DecidableEq, Repr

/-- R467: an event at a tap. -/
structure TapEv where
  source : BitVec 11
  kind : BitVec 10
  part : BitVec 4
  payload : BitVec 48
  time : BitVec 64
  deriving DecidableEq, Repr

/-- R449: what a switch reduction slot serves. -/
structure SlotKey where
  home : BitVec 14
  ftid : BitVec 16
  id : BitVec 24
  deriving DecidableEq, Repr

/-- R382, R487: the ring registers whose head software moves. -/
inductive RingReg where
  | rqcfg (part : Nat)
  | eqcfg (part : Nat)
  | deqcfg
  deriving DecidableEq, Repr

/-- R412: the modes of pre-emption. -/
inductive PreMode where
  | drain | save | discard
  deriving DecidableEq, Repr

/-- R484: the register spaces. -/
inductive RegSpace where
  | device
  | partition (p : Nat)
  | function (v : Nat)
  deriving DecidableEq, Repr

/-- R500: a firmware image as the device stores it: its body, version, security version number, signature and key. -/
structure FwImage where
  body : List (BitVec 8)
  version : Nat
  svn : Nat
  signature : List (BitVec 8)
  key : List (BitVec 8)
  deriving DecidableEq, Repr

/-- R137, R127, R472 and the table of operations and events: one constructor for each row of the opcode table.
The first 183 are program instructions, with their prefixes and fields; the FILTER rows after them are Lantern's; the
others are steps of the device, with what the outside world or a free choice of the device supplies. -/
inductive Instr where
  /-- ADD (R172). -/
  | add (w : LaneW)
  /-- SUB (R172). -/
  | sub (w : LaneW)
  /-- MUL (R172). -/
  | mul (w : LaneW)
  /-- MULH (R172). -/
  | mulh (w : LaneW)
  /-- MAD (R172). -/
  | mad (w : LaneW)
  /-- MIN (R172). -/
  | min (w : LaneW)
  /-- MAX (R172). -/
  | max (w : LaneW)
  /-- AND (R174). -/
  | and (w : LaneW)
  /-- OR (R174). -/
  | or (w : LaneW)
  /-- XOR (R174). -/
  | xor (w : LaneW)
  /-- ANDN (R174). -/
  | andn (w : LaneW)
  /-- SHL (R175). -/
  | shl (w : LaneW)
  /-- SHR (R175). -/
  | shr (w : LaneW)
  /-- SRA (R175). -/
  | sra (w : LaneW)
  /-- ROT (R175). -/
  | rot (w : LaneW)
  /-- IUN_ABS (R176). -/
  | iunAbs (w : LaneU)
  /-- IUN_NEG (R176). -/
  | iunNeg (w : LaneU)
  /-- IUN_NOT (R176). -/
  | iunNot (w : LaneU)
  /-- IUN_CLZ (R176). -/
  | iunClz (w : LaneU)
  /-- IUN_POPC (R176). -/
  | iunPopc (w : LaneU)
  /-- IUN_BREV (R176). -/
  | iunBrev (w : LaneU)
  /-- IUN_MOV (R176). -/
  | iunMov (w : LaneU)
  /-- BFX (R177). -/
  | bfx (w : LaneW)
  /-- BFI (R177). -/
  | bfi (w : LaneW)
  /-- SEL (R178). -/
  | sel (w : LaneW)
  /-- CMP (R179). -/
  | cmp (w : LaneW)
  /-- ADDSAT (R172). -/
  | addsat (w : LaneW)
  /-- SUBSAT (R172). -/
  | subsat (w : LaneW)
  /-- SAD (R173). -/
  | sad (w : LaneW)
  /-- MOVI (R180). -/
  | movi (w : LaneW)
  /-- LSA (R172). -/
  | lsa (w : LaneW)
  /-- FADD (R181). -/
  | fadd (w : LaneW)
  /-- FSUB (R181). -/
  | fsub (w : LaneW)
  /-- FMUL (R181). -/
  | fmul (w : LaneW)
  /-- FFMA (R181). -/
  | ffma (w : LaneW)
  /-- FMIN (R185). -/
  | fmin (w : LaneW)
  /-- FMAX (R185). -/
  | fmax (w : LaneW)
  /-- FMINP (R185). -/
  | fminp (w : LaneW)
  /-- FMAXP (R185). -/
  | fmaxp (w : LaneW)
  /-- FCMP (R186). -/
  | fcmp (w : LaneW)
  /-- FCLASS (R187). -/
  | fclass (w : LaneU)
  /-- FDIV (R181). -/
  | fdiv (w : LaneW)
  /-- FSQRT (R182). -/
  | fsqrt (w : LaneU)
  /-- FRCP (R182). -/
  | frcp (w : LaneU)
  /-- FRSQ (R182). -/
  | frsq (w : LaneU)
  /-- FRINT (R183). -/
  | frint (w : LaneU)
  /-- FSCALE (R184). -/
  | fscale (w : LaneW)
  /-- CVT (R189). -/
  | cvt (w : LaneW)
  /-- CVTI (R189, R190). -/
  | cvti (w : LaneW)
  /-- CVTF (R189). -/
  | cvtf (w : LaneW)
  /-- PK (R191). -/
  | pk (w : LaneW)
  /-- UPK (R192). -/
  | upk (w : LaneW)
  /-- RETAG (R193). -/
  | retag (w : LaneW)
  /-- FABS (R188). -/
  | fabs (w : LaneU)
  /-- FNEG (R188). -/
  | fneg (w : LaneU)
  /-- FCPSGN (R188). -/
  | fcpsgn (w : LaneW)
  /-- SFN_EXP2 (R197). -/
  | sfnExp2 (w : LaneU)
  /-- SFN_LOG2 (R197). -/
  | sfnLog2 (w : LaneU)
  /-- SFN_SINP (R197). -/
  | sfnSinp (w : LaneU)
  /-- SFN_COSP (R197). -/
  | sfnCosp (w : LaneU)
  /-- SFN_TANH (R197). -/
  | sfnTanh (w : LaneU)
  /-- SFN_SIGM (R197). -/
  | sfnSigm (w : LaneU)
  /-- RRED (R199). -/
  | rred (w : LaneU)
  /-- SWPP (R211). -/
  | swpp (w : LaneW)
  /-- SHFL (R212). -/
  | shfl (w : LaneW)
  /-- RFAL (R213). -/
  | rfal (w : LaneU)
  /-- BCAST (R213). -/
  | bcast (w : LaneW)
  /-- VOTE_ANY (R214). -/
  | voteAny (w : LaneU)
  /-- VOTE_ALL (R214). -/
  | voteAll (w : LaneU)
  /-- VOTE_BALLOT (R214). -/
  | voteBallot (w : LaneU)
  /-- MATCH (R215). -/
  | matchLanes (w : LaneU)
  /-- REDL_SUM (R217). -/
  | redlSum (w : LaneU)
  /-- REDL_MAX (R217). -/
  | redlMax (w : LaneU)
  /-- REDL_MIN (R217). -/
  | redlMin (w : LaneU)
  /-- RMAX (R205). -/
  | rmax (w : LaneW)
  /-- RSEXP (R206). -/
  | rsexp (w : LaneW)
  /-- RSTAT (R207). -/
  | rstat (w : LaneW)
  /-- SMX (R208). -/
  | smx (w : LaneW)
  /-- RNORM (R209). -/
  | rnorm (w : LaneW)
  /-- SADD (R220). -/
  | sadd (w : ScalarW)
  /-- SSUB (R220). -/
  | ssub (w : ScalarW)
  /-- SMUL (R220). -/
  | smul (w : ScalarW)
  /-- SMAD (R220). -/
  | smad (w : ScalarW)
  /-- SAND (R220). -/
  | sand (w : ScalarW)
  /-- SOR (R220). -/
  | sor (w : ScalarW)
  /-- SXOR (R220). -/
  | sxor (w : ScalarW)
  /-- SSHL (R220). -/
  | sshl (w : ScalarW)
  /-- SSHR (R220). -/
  | sshr (w : ScalarW)
  /-- SSRA (R220). -/
  | ssra (w : ScalarW)
  /-- SMIN (R220). -/
  | smin (w : ScalarW)
  /-- SMAX (R220). -/
  | smax (w : ScalarW)
  /-- SCMP (R222). -/
  | scmp (w : ScalarW)
  /-- SMOV (R220). -/
  | smov (w : ScalarU)
  /-- SLSA (R220). -/
  | slsa (w : ScalarW)
  /-- SLI (R220). -/
  | sli (w : ScalarW)
  /-- BRU (R226). -/
  | bru (pfx : Pfx) (guard : BitVec 2) (off : BitVec 21)
  /-- BRD (R229). -/
  | brd (pfx : Pfx) (guard : BitVec 2) (off : BitVec 21)
  /-- JMP (R227). -/
  | jmp (a : BitVec 7)
  /-- JMPX (R229). -/
  | jmpx (pfx : Pfx) (guard : BitVec 2) (a : BitVec 7)
  /-- CALL (R227). -/
  | call (pfx : Pfx) (guard : BitVec 2) (off : BitVec 21)
  /-- RET (R228). -/
  | ret
  /-- EXIT (R235). -/
  | exit (pfx : Pfx) (guard : BitVec 2)
  /-- YLD (R236). -/
  | yld
  /-- KILL (R235). -/
  | kill (pfx : Pfx) (guard : BitVec 2)
  /-- LD (R258). -/
  | ld (w : MemW)
  /-- ST (R258). -/
  | st (w : MemW)
  /-- LDS (R260). -/
  | lds (w : MemW)
  /-- STS (R260). -/
  | sts (w : MemW)
  /-- LDU (R261). -/
  | ldu (w : MemS)
  /-- STU (R261). -/
  | stu (w : MemS)
  /-- PGREQ (R264). -/
  | pgreq (pfx : Pfx) (guard : BitVec 2) (a : BitVec 7)
  /-- RGN_BEGIN (R267). -/
  | rgnBegin (pfx : Pfx)
  /-- RGN_COMMIT (R267). -/
  | rgnCommit (pfx : Pfx)
  /-- ATM_ADD (R265). -/
  | atmAdd (w : AtmW)
  /-- ATM_MIN (R265). -/
  | atmMin (w : AtmW)
  /-- ATM_MAX (R265). -/
  | atmMax (w : AtmW)
  /-- ATM_AND (R265). -/
  | atmAnd (w : AtmW)
  /-- ATM_OR (R265). -/
  | atmOr (w : AtmW)
  /-- ATM_XOR (R265). -/
  | atmXor (w : AtmW)
  /-- ATM_XCHG (R265). -/
  | atmXchg (w : AtmW)
  /-- ATM_CAS (R265). -/
  | atmCas (w : AtmW)
  /-- CTRB (R272). -/
  | ctrb (pfx : Pfx) (guard : BitVec 2) (d a b : BitVec 7)
  /-- RED_INIT (R271). -/
  | redInit (pfx : Pfx) (a : BitVec 7)
  /-- RED_NULL (R271). -/
  | redNull (pfx : Pfx) (guard : BitVec 2) (d a : BitVec 7)
  /-- RED_QUERY (R271). -/
  | redQuery (pfx : Pfx) (d a : BitVec 7)
  /-- MST (R275). -/
  | mst (pfx : Pfx) (d a b : BitVec 7)
  /-- FENCE (R277). -/
  | fence (pfx : Pfx) (scope : BitVec 3) (a : BitVec 7)
  /-- FENCE_S (R278). -/
  | fenceS (pfx : Pfx)
  /-- FENCEX (R277). -/
  | fencex (pfx : Pfx) (path2 path1 scope : BitVec 3) (a : BitVec 7)
  /-- BAR (R279). -/
  | bar (pfx : Pfx) (spec : Bool) (scope : BitVec 3) (a : BitVec 7)
  /-- MMT (R296). -/
  | mmt (pfx : Pfx) (d a : BitVec 7)
  /-- TCON (R296). -/
  | tcon (pfx : Pfx) (d a : BitVec 7)
  /-- ACC_ZERO (R302). -/
  | accZero (pfx : Pfx) (d : BitVec 7)
  /-- ACC_BIND (R303). -/
  | accBind (d : BitVec 7)
  /-- ACC_LOAD (R304). -/
  | accLoad (pfx : Pfx) (d a : BitVec 7)
  /-- ACC_STORE (R304). -/
  | accStore (pfx : Pfx) (d a : BitVec 7)
  /-- ACC_FOLD (R302). -/
  | accFold (pfx : Pfx) (d : BitVec 7)
  /-- ACC_CTRB (R305). -/
  | accCtrb (pfx : Pfx) (d a : BitVec 7)
  /-- CPY_LOAD (R306, R307). -/
  | cpyLoad (pfx : Pfx) (d a : BitVec 7)
  /-- CPY_STORE (R306, R307). -/
  | cpyStore (pfx : Pfx) (d a : BitVec 7)
  /-- CPY_GATHER (R306, R307). -/
  | cpyGather (pfx : Pfx) (d a : BitVec 7)
  /-- CPY_SCATTER (R306, R307). -/
  | cpyScatter (pfx : Pfx) (d a : BitVec 7)
  /-- CPY_FILL (R306, R307). -/
  | cpyFill (pfx : Pfx) (d a : BitVec 7)
  /-- CPY_L2PF (R306, R307). -/
  | cpyL2pf (pfx : Pfx) (d a : BitVec 7)
  /-- CPY_XFER (R306, R307). -/
  | cpyXfer (pfx : Pfx) (d a : BitVec 7)
  /-- WTG_ANY (R309). -/
  | wtgAny (a : BitVec 7)
  /-- WTG_ALL (R309). -/
  | wtgAll (a : BitVec 7)
  /-- WTG_FIRST (R309). -/
  | wtgFirst (d a : BitVec 7)
  /-- WTG_TEST (R309). -/
  | wtgTest (d a : BitVec 7)
  /-- ENG_GSET (R311). -/
  | engGset (a : BitVec 7)
  /-- ENG_PLAN (R314). -/
  | engPlan (pfx : Pfx) (a : BitVec 7)
  /-- ENG_LAUNCH (R315). -/
  | engLaunch (pfx : Pfx) (d a : BitVec 7)
  /-- ENG_WAITL (R316). -/
  | engWaitl (d a : BitVec 7)
  /-- ENG_LNT (R317). -/
  | engLnt (pfx : Pfx) (a : BitVec 7)
  /-- SYS_TRAP (R245). -/
  | sysTrap (a : BitVec 7)
  /-- SYS_RTE (R248). -/
  | sysRte
  /-- SYS_MOVSR (R242). -/
  | sysMovsr (d a : BitVec 7)
  /-- SYS_MOVCR (R243). -/
  | sysMovcr (a : BitVec 7)
  /-- SYS_REGACQ (R240). -/
  | sysRegacq (a : BitVec 7)
  /-- SYS_REGREL (R239). -/
  | sysRegrel (a : BitVec 7)
  /-- SYS_XISET (R241). -/
  | sysXiset (a : BitVec 7)
  /-- SYS_STAT (R244). -/
  | sysStat (d : BitVec 7)
  /-- SYS_NOP (R242). -/
  | sysNop
  /-- SYS_BRK (R247). -/
  | sysBrk (a : BitVec 7)
  /-- SYS_MODE (R250). -/
  | sysMode (d a : BitVec 7)
  /-- SYS_CLK (R242). -/
  | sysClk (d : BitVec 7)
  /-- ILL (R120). -/
  | ill (raw : BitVec 24)
  /-- MOV_C16 (R127). -/
  | movC16 (w : HalfW)
  /-- ADD_C16 (R127). -/
  | addC16 (w : HalfW)
  /-- SUB_C16 (R127). -/
  | subC16 (w : HalfW)
  /-- MUL_C16 (R127). -/
  | mulC16 (w : HalfW)
  /-- AND_C16 (R127). -/
  | andC16 (w : HalfW)
  /-- OR_C16 (R127). -/
  | orC16 (w : HalfW)
  /-- XOR_C16 (R127). -/
  | xorC16 (w : HalfW)
  /-- SHL_C16 (R127). -/
  | shlC16 (w : HalfW)
  /-- SHR_C16 (R127). -/
  | shrC16 (w : HalfW)
  /-- FADD_C16 (R127). -/
  | faddC16 (w : HalfW)
  /-- FSUB_C16 (R127). -/
  | fsubC16 (w : HalfW)
  /-- FMUL_C16 (R127). -/
  | fmulC16 (w : HalfW)
  /-- FMIN_C16 (R127). -/
  | fminC16 (w : HalfW)
  /-- FMAX_C16 (R127). -/
  | fmaxC16 (w : HalfW)
  /-- FNEG_C16 (R127). -/
  | fnegC16 (w : HalfW)
  /-- SRA_C16 (R127). -/
  | sraC16 (w : HalfW)
  /-- FILTER_END (R472). -/
  | filterEnd
  /-- FILTER_ADD (R472). -/
  | filterAdd (b a d : BitVec 4)
  /-- FILTER_SUB (R472). -/
  | filterSub (b a d : BitVec 4)
  /-- FILTER_MUL (R472). -/
  | filterMul (b a d : BitVec 4)
  /-- FILTER_AND (R472). -/
  | filterAnd (b a d : BitVec 4)
  /-- FILTER_OR (R472). -/
  | filterOr (b a d : BitVec 4)
  /-- FILTER_XOR (R472). -/
  | filterXor (b a d : BitVec 4)
  /-- FILTER_SHL (R472). -/
  | filterShl (b a d : BitVec 4)
  /-- FILTER_SHR (R472). -/
  | filterShr (b a d : BitVec 4)
  /-- FILTER_MIN (R472). -/
  | filterMin (b a d : BitVec 4)
  /-- FILTER_MAX (R472). -/
  | filterMax (b a d : BitVec 4)
  /-- FILTER_CLZ (R472). -/
  | filterClz (a d : BitVec 4)
  /-- FILTER_ADDI (R472). -/
  | filterAddi (imm : BitVec 14) (a d : BitVec 4)
  /-- FILTER_ANDI (R472). -/
  | filterAndi (imm : BitVec 14) (a d : BitVec 4)
  /-- FILTER_SHLI (R472). -/
  | filterShli (n : BitVec 6) (a d : BitVec 4)
  /-- FILTER_SHRI (R472). -/
  | filterShri (n : BitVec 6) (a d : BitVec 4)
  /-- FILTER_MOVI (R472). -/
  | filterMovi (imm : BitVec 14) (d : BitVec 4)
  /-- FILTER_LDK (R472). -/
  | filterLdk (k d : BitVec 4)
  /-- FILTER_LDST (R472). -/
  | filterLdst (k d : BitVec 4)
  /-- FILTER_STST (R472). -/
  | filterStst (k a : BitVec 4)
  /-- FILTER_LBKT (R472). -/
  | filterLbkt (a d : BitVec 4)
  /-- FILTER_HADD (R472). -/
  | filterHadd (h b a : BitVec 4)
  /-- FILTER_KADD (R472). -/
  | filterKadd (k : BitVec 2) (b a : BitVec 4)
  /-- FILTER_KEST (R472). -/
  | filterKest (k : BitVec 2) (a d : BitVec 4)
  /-- FILTER_BEQ (R472). -/
  | filterBeq (n : BitVec 7) (b a : BitVec 4)
  /-- FILTER_BNE (R472). -/
  | filterBne (n : BitVec 7) (b a : BitVec 4)
  /-- FILTER_BLTU (R472). -/
  | filterBltu (n : BitVec 7) (b a : BitVec 4)
  /-- FILTER_TRIG (R478). -/
  | filterTrig (t : BitVec 2) (a : BitVec 4)
  /-- ISSUE_OPPORTUNITY (R403). -/
  | issueOpportunity (core slot : Nat)
  /-- SPLIT_ROTATION (R408). -/
  | splitRotation (core gslot : Nat)
  /-- YLD_RESUME (R236). -/
  | yldResume (core gslot entry : Nat)
  /-- REGACQ_GRANT (R240). -/
  | regacqGrant (core : Nat)
  /-- CORE_BUFFER_FORWARD (R357; the oldest held fragment). -/
  | coreBufferForward (core : Nat)
  /-- FRAGMENT_REOFFER (R366). -/
  | fragmentReoffer (core : Nat)
  /-- SPILL_EXHAUSTED (R366). -/
  | spillExhausted (core : Nat)
  /-- FENCE_RETIRE (R278). -/
  | fenceRetire (core gslot entry : Nat)
  /-- ISSUE_ACCESS_COMPLETE (R528). -/
  | issueAccessComplete (core gslot entry : Nat)
  /-- ENGINE_QUEUE_RETRY (R291). -/
  | engineQueueRetry (core gslot entry : Nat)
  /-- COMMAND_START (R292). -/
  | commandStart (cid : Nat)
  /-- COMMAND_COMPLETE (R293). -/
  | commandComplete (cid : Nat)
  /-- GUARD_FLAG_READ (R310). -/
  | guardFlagRead (cid : Nat)
  /-- CPY_FIFO_ELEMENT (R323). -/
  | cpyFifoElement (cid : Nat)
  /-- WTG_WAKE (R309). -/
  | wtgWake (core gslot entry : Nat)
  /-- WAITL_RETURN (R316). -/
  | waitlReturn (core gslot entry : Nat)
  /-- GSET_EXCHANGE (R311). -/
  | gsetExchange (core gslot entry : Nat)
  /-- FIFO_ACCESS_RESUME (R323). -/
  | fifoAccessResume (core gslot entry : Nat)
  /-- BANK_DRAIN_COMPLETE (R322). -/
  | bankDrainComplete (core bank : Nat)
  /-- RWC_LINE_DRAIN (R339). -/
  | rwcLineDrain (core : Nat)
  /-- INVALIDATION_COMPLETE (R385). -/
  | invalidationComplete (part : Nat)
  /-- LAUNCH_QUEUE_TAKE (R397). -/
  | launchQueueTake (vf : Nat)
  /-- LAUNCH_RECORD_RETRY (R394). -/
  | launchRecordRetry (vf : Nat)
  /-- PENDING_RELEASE (R396). -/
  | pendingRelease (part : Nat)
  /-- TEAM_PLACE (R402; cores is the device's choice, one core for each team placed together). -/
  | teamPlace (gid : Nat) (cores : List Nat)
  /-- TEAM_END (R402). -/
  | teamEnd (gid team : Nat)
  /-- CONTEXT_WRITTEN (R413). -/
  | contextWritten (gid team : Nat)
  /-- TEAM_RESTORE (R414). -/
  | teamRestore (gid team core : Nat)
  /-- TIME_SLICE_END (R416). -/
  | timeSliceEnd (gid team : Nat)
  /-- PREEMPTION_REQUEST (R410; the victims, by grid and team, the requesting grid, and the mode of each victim). -/
  | preemptionRequest (victims : List (Nat × Nat)) (gid : Nat) (modes : List PreMode)
  /-- ACCESS_COMPLETION (R263; the oldest outstanding store tick of the group). -/
  | accessCompletion (core gslot : Nat)
  /-- REQUEST_TIMEOUT (R434). -/
  | requestTimeout (tag : BitVec 32)
  /-- SLOT_TIMEOUT (R453). -/
  | slotTimeout (slot : Nat)
  /-- PLAN_CONTEXT_TAKE (R458). -/
  | planContextTake (cid : Nat)
  /-- SHED_STEP (R420; at a measured power in mW). -/
  | shedStep (milliwatts : Nat)
  /-- SHED_UNDO (R420; at a measured power in mW). -/
  | shedUndo (milliwatts : Nat)
  /-- SLICE_RED_INIT (R271; the oldest request in flight). -/
  | sliceRedInit
  /-- ARRIVE_AT (R354; the oldest fragment in flight). -/
  | arriveAt
  /-- TINV_FIRST_STAGE (R385). -/
  | tinvFirstStage (part : Nat)
  /-- TINV_SECOND_STAGE (R385). -/
  | tinvSecondStage (part : Nat)
  /-- TINV_ALL (R385). -/
  | tinvAll (part : Nat)
  /-- TINV_WINDOWS (R385). -/
  | tinvWindows (part : Nat)
  /-- QUEUE_HEAD_WRITE (R382, R487). -/
  | queueHeadWrite (reg : RingReg) (value : BitVec 64)
  /-- LQWR_WRITE (R397). -/
  | lqwrWrite (vf : Nat) (value : BitVec 64)
  /-- RATE_RECOVERY (R419). -/
  | rateRecovery (part : Nat) (group : Nat)
  /-- RD (R387). -/
  | rd (p : Packet)
  /-- WR (R387). -/
  | wr (p : Packet)
  /-- WRM (R387). -/
  | wrm (p : Packet)
  /-- ATM (R427). -/
  | atmPacket (p : Packet)
  /-- FRAG (R452). -/
  | frag (p : Packet)
  /-- MST_PACKET (R456). -/
  | mstPacket (p : Packet)
  /-- TOKEN (R463). -/
  | token (p : Packet)
  /-- ACK (R340). -/
  | ack (p : Packet)
  /-- NACK (R262). -/
  | nack (p : Packet)
  /-- RDR (R428). -/
  | rdr (p : Packet)
  /-- ATR (R428). -/
  | atr (p : Packet)
  /-- MACK (R456). -/
  | mack (p : Packet)
  /-- SEQA (R433). -/
  | seqa (p : Packet)
  /-- SKIP (R434). -/
  | skip (p : Packet)
  /-- PACKET_ROUTE (R431; port is the switch's choice). -/
  | packetRoute (p : Packet) (port : Option Nat)
  /-- SEQA_SEND (R433). -/
  | seqaSend (dev tclass : Nat)
  /-- PACKET_RESEND (R433). -/
  | packetResend (dev tclass : Nat)
  /-- SKIP_RESEND (R434). -/
  | skipResend (tag : BitVec 32)
  /-- CHANNEL_RESET (R527). -/
  | channelReset (value : BitVec 64)
  /-- FLIT_ERROR (R436). -/
  | flitError (port : Nat)
  /-- LOSS_OF_LOCK (R436). -/
  | lossOfLock (port : Nat)
  /-- LINK_TRAIN_RESULT (R436). -/
  | linkTrainResult (port : Nat) (trained : Bool)
  /-- PORT_REJOIN (R436). -/
  | portRejoin (port : Nat)
  /-- MANAGEMENT_RETRAIN (R436). -/
  | managementRetrain (port : Nat)
  /-- LGCTL_GO (R444). -/
  | lgctlGo (n : Nat) (value : BitVec 64)
  /-- LG_QUIESCE_END (R444). -/
  | lgQuiesceEnd (n : Nat)
  /-- LG_DRAIN_END (R445). -/
  | lgDrainEnd (n : Nat) (met : Bool)
  /-- LG_RETRAIN_END (R444). -/
  | lgRetrainEnd (n : Nat) (trained : Bool) (lanes : BitVec 8) (cap : Nat)
  /-- LG_MAP (R448). -/
  | lgMap (n : Nat)
  /-- BOOT_TABLE_ACCESS (R526). -/
  | bootTableAccess (n : Nat) (write : Option (BitVec 8))
  /-- KEY_PASS_EXPIRY (R451). -/
  | keyPassExpiry (key : SlotKey)
  /-- MULTICAST_LOAD (R455). -/
  | multicastLoad (value : BitVec 64)
  /-- MEMBER_TIMEOUT (R456). -/
  | memberTimeout (group member : Nat)
  /-- NOP (R460). -/
  | planNop (ctx op : Nat)
  /-- COPY (R460). -/
  | planCopy (ctx op : Nat)
  /-- REDUCE (R460). -/
  | planReduce (ctx op : Nat)
  /-- WAITD (R460). -/
  | planWaitd (ctx op : Nat)
  /-- SIGNAL (R460). -/
  | planSignal (ctx op : Nat)
  /-- UEWRITE (R460). -/
  | planUewrite (ctx op : Nat)
  /-- UETOKEN (R460). -/
  | planUetoken (ctx op : Nat)
  /-- PLAN_OP_COMPLETE (R461; status 0, or the failure of R464 the operation met). -/
  | planOpComplete (ctx op : Nat) (status : Nat)
  /-- TOKEN_TIMEOUT (R462). -/
  | tokenTimeout (ctx : Nat)
  /-- TOKEN_RESEND (R463). -/
  | tokenResend (tag : BitVec 32)
  /-- UETOKEN_RECEIPT (R463). -/
  | uetokenReceipt (ip : BitVec 128) (job : BitVec 32) (word : BitVec 64)
  /-- TAP_EVENT (R466). -/
  | tapEvent (e : TapEv)
  /-- TAP_SAMPLE (R467). -/
  | tapSample (e : TapEv)
  /-- FILTER_INVOCATION (R475; the source whose oldest event is admitted). -/
  | filterInvocation (source : Nat)
  /-- BUCKET_REFILL (R477). -/
  | bucketRefill
  /-- TRIGGER_REARM (R478). -/
  | triggerRearm (idx : Nat)
  /-- PUBLICATION (R482). -/
  | publication (owner : Nat)
  /-- LOAD (R470; the command block at the owner's lncmd). -/
  | lnLoad (owner : Nat)
  /-- ATTACH (R474; the command block at the owner's lncmd). -/
  | lnAttach (owner : Nat)
  /-- DETACH (R480; the command block at the owner's lncmd). -/
  | lnDetach (owner : Nat)
  /-- CLEAR (R480; the command block at the owner's lncmd). -/
  | lnClear (owner : Nat)
  /-- SEEDS (R473; the command block at the owner's lncmd). -/
  | lnSeeds (owner : Nat)
  /-- TRIGGER (R478; the command block at the owner's lncmd). -/
  | lnTrigger (owner : Nat)
  /-- ARM (R478; the command block at the owner's lncmd). -/
  | lnArm (owner : Nat)
  /-- UNFREEZE (R479; the command block at the owner's lncmd). -/
  | lnUnfreeze (owner : Nat)
  /-- PUBLISH (R481; the command block at the owner's lncmd). -/
  | lnPublish (owner : Nat)
  /-- ECC_ERROR (R489, R491). -/
  | eccError (block : Nat) (corrected : Bool) (pa : Option Nat)
  /-- SELF_TEST_END (R490). -/
  | selfTestEnd (block : Nat) (result : BitVec 8)
  /-- MARGIN_REPLAN (R497). -/
  | marginReplan (block : Nat)
  /-- POWER_BLOCK_UPDATE (R498). -/
  | powerBlockUpdate (b : Nat) (mhz milliwatts : Nat) (celsius : Nat)
  /-- JUNCTION_OVERTEMP (R498). -/
  | junctionOvertemp
  /-- DEVICE_RESET (R506). -/
  | deviceReset
  /-- DEBUG_GO (R499). -/
  | debugGo (part : Nat)
  /-- DEBUG_KILL (R486). -/
  | debugKill (part : Nat)
  /-- ATTESTATION_REQUEST (R503). -/
  | attestationRequest (value : BitVec 64)
  /-- ATTESTATION_WRITTEN (R503). -/
  | attestationWritten
  /-- PLDM_FIRMWARE_UPDATE (R505). -/
  | pldmFirmwareUpdate (k : Nat) (image : FwImage)
  /-- PLDM_SENSOR_READ (R505). -/
  | pldmSensorRead (sensor : Nat)
  /-- REGISTER_WRITE (R484). -/
  | registerWrite (space : RegSpace) (offset : Nat) (value : BitVec 64)
  /-- REPLAY_COMPLETE (R436). -/
  | replayComplete (port : Nat)
  /-- UE_RMA_WRITE_RECEIPT (R443). -/
  | ueRmaWriteReceipt (part : Nat) (va : BitVec 64) (bytes : List (BitVec 8))
  deriving DecidableEq, Repr

end Sys2Proof
end

