-- ==== Sys2Proof/Machine/Fields.lean ====
section
/-! DEFINITION. Machine/Fields.lean: format-tag classes, the fields of an instruction word, what each opcode row
does with its fields (R137 to R145), and the legality that R146 makes of it. -/
namespace Sys2Proof.Machine

/-! ## Tag classes (R70, R167) -/

/-- A binary8 tag. -/
def isB8 (t : Tag) : Bool := t.getLsbD 5 && t.extractLsb' 0 3 != 0#3
/-- An assigned tag code. -/
def tagOk (t : Tag) : Bool := t.toNat ≤ 0x0B || isB8 t
/-- Class INT. -/
def isInt (t : Tag) : Bool := t.toNat ≤ 1 || (6 ≤ t.toNat && t.toNat ≤ 0x0B)
/-- Class INT32. -/
def isInt32 (t : Tag) : Bool := t.toNat ≤ 1
/-- Class FLTW. -/
def isFltW (t : Tag) : Bool := 2 ≤ t.toNat && t.toNat ≤ 5
/-- Class FLT. -/
def isFlt (t : Tag) : Bool := isFltW t || isB8 t
/-- The unsigned binary8 tags. -/
def isB8u (t : Tag) : Bool := isB8 t && t.getLsbD 4
/-- The tags whose elements are signed integers. -/
def isSigned (t : Tag) : Bool := t == 1#6 || t == 7#6 || t == 9#6
/-- FP64, one value per register pair. -/
def isF64 (t : Tag) : Bool := t == 3#6
/-- Count(t): elements per lane word. -/
def count (t : Tag) : Nat :=
  if t.toNat ≤ 3 then 1 else if t.toNat ≤ 7 then 2 else if t == 0x0B#6 then 8 else 4
/-- Element width in bits. -/
def ewidth (t : Tag) : Nat := if isF64 t then 64 else 32 / count t
/-- A packed tag: two or more elements. -/
def isPacked (t : Tag) : Bool := tagOk t && 2 ≤ count t
/-- A tag code in a 7-bit literal field, of a class. -/
def litTag (p : Tag → Bool) (b : BitVec 7) : Bool := b.toNat < 64 && tagOk (b.setWidth 6) && p (b.setWidth 6)

/-! ## The 32-bit word (R121) -/

/-- The fields of a 32-bit word. -/
structure WordF where
  chain : Bool
  b : BitVec 7
  a : BitVec 7
  d : BitVec 7
  guard : BitVec 2
  major : BitVec 7
  deriving DecidableEq, Repr

/-- R166: the word with the given fields. -/
def packWord (f : WordF) : Word :=
  BitVec.ofBool f.chain ++ f.b ++ f.a ++ f.d ++ f.guard ++ f.major ++ 1#1

/-- R121: the fields of a word. -/
def unpackWord (w : Word) : WordF :=
  ⟨w.getLsbD 31, w.extractLsb' 24 7, w.extractLsb' 17 7, w.extractLsb' 10 7, w.extractLsb' 8 2, w.extractLsb' 1 7⟩

/-- R224: the 21-bit halfword offset in bits 30:10, as the fields b, a and d that hold it. -/
def offFields (off : BitVec 21) (guard : BitVec 2) (major : BitVec 7) : WordF :=
  ⟨false, off.extractLsb' 14 7, off.extractLsb' 7 7, off.extractLsb' 0 7, guard, major⟩

/-- R224: the offset that three fields hold. -/
def offOf (f : WordF) : BitVec 21 := f.b ++ f.a ++ f.d

/-! ## Field kinds (the list before R137) -/

/-- How an opcode row uses its guard field (R122). -/
inductive GuardUse where
  | none | lanes | cond
  deriving DecidableEq, Repr

/-- What a field names (R137). -/
inductive Kind where
  /-- V as a source; VE; VQ -/
  | src | srcE | srcQ
  /-- Vs -/
  | srcS
  /-- V, VE and VQ as a destination -/
  | dst | dstE | dstQ
  /-- S as a source, S as a destination, and the base of four s registers -/
  | sSrc | sDst | quad
  /-- a literal, sub-operation, condition or zero, with what R137 says of its value -/
  | fixed (ok : Bool)
  deriving DecidableEq, Repr

/-- How a row uses c of the operand pfx. -/
inductive CUse where
  | none | req | tag
  deriving DecidableEq, Repr

/-- How a row uses x of the operand pfx (R129). -/
inductive XUse where
  | none | rm | lt8 | tag | packed | level | gslot
  deriving DecidableEq, Repr

/-- How a row uses the immediate pfx (R130). -/
inductive ImmUse where
  | none | movi | sli | rejoin | offset
  deriving DecidableEq, Repr

/-- One row of R137. -/
structure Use where
  guard : GuardUse
  d : Kind
  a : Kind
  b : Kind
  c : CUse
  x : XUse
  imm : ImmUse
  deriving DecidableEq, Repr

/-- The kind names a vector register, so the field can be indexed by xi. -/
def Kind.vector : Kind → Bool
  | .src => true
  | .srcE => true
  | .srcQ => true
  | .srcS => true
  | .dst => true
  | .dstE => true
  | .dstQ => true
  | .sSrc => false
  | .sDst => false
  | .quad => false
  | .fixed _ => false

/-- The kind is a vector source that this code reads as the immediate (R123). -/
def Kind.reads126 (k : Kind) (bs : Bool) (code : BitVec 7) : Bool :=
  code == 126#7 &&
  match k with
  | .src => true
  | .srcE => true
  | .srcQ => true
  | .srcS => !bs
  | .dst => false
  | .dstE => false
  | .dstQ => false
  | .sSrc => false
  | .sDst => false
  | .quad => false
  | .fixed _ => false

/-- R123, R125, R126: the codes a field of the kind may hold without the illegal-instruction trap. A VQ field traps
on codes 120 to 127 as an illegal operand instead (R254). -/
def Kind.legal (k : Kind) (bs : Bool) (code : BitVec 7) : Bool :=
  match k with
  | .src => true
  | .srcE => true
  | .srcQ => true
  | .srcS => !bs || code.toNat ≤ 95
  | .dst => code.toNat ≤ 119 || code == 127#7
  | .dstE => code.toNat ≤ 119 || code == 127#7
  | .dstQ => true
  | .sSrc => code.toNat ≤ 95
  | .sDst => code.toNat ≤ 79
  | .quad => code.toNat ≤ 60 && code.toNat % 4 == 0
  | .fixed ok => ok

/-- R129: the values x may hold. A guard slot that x[3] does not enable may have any number. [log DEDUCED 122] -/
def XUse.legal (u : XUse) (x : BitVec 6) : Bool :=
  match u with
  | .none => x == 0#6
  | .rm => x.toNat < 4
  | .lt8 => x.toNat < 8
  | .tag => tagOk x
  | .packed => isPacked x
  | .level => x.toNat ≤ 34
  | .gslot => x.toNat < 16

/-- R129, R141: the values c may hold. -/
def CUse.legal (u : CUse) (c : BitVec 7) : Bool :=
  match u with
  | .none => c == 127#7
  | .req => true
  | .tag => c == 127#7 || litTag tagOk c

/-- R129, R132, R137: the operand pfx payload is one the row accepts; only a row that takes a guard has indexed
fields. [log DEDUCED 26] -/
def Use.operandLegal (u : Use) (o : OperandPfx) (guard : BitVec 2) : Bool :=
  (if o.gen then u.guard != .none && guard == 0#2 else !o.gneg && o.gq == 0#3) &&
  (!o.bs || u.b == .srcS) &&
  (u.guard != .none || (!o.xd && !o.xa && !o.xb)) &&
  (!o.xd || u.d.vector) && (!o.xa || u.a.vector) && (!o.xb || u.b.vector) &&
  u.c.legal o.c && u.x.legal o.x

/-- Some field of the instruction reads code 126 (R130). -/
def Use.reads126 (u : Use) (o : OperandPfx) (f : WordF) : Bool :=
  u.d.reads126 false f.d || u.a.reads126 false f.a || u.b.reads126 o.bs f.b ||
  (u.c == .req && o.c == 126#7)

/-- R130: the immediate pfx is one the row accepts. -/
def Use.immLegal (u : Use) (p : Pfx) (f : WordF) : Bool :=
  match p.immediate with
  | none => u.imm != .rejoin
  | some v =>
    match u.imm with
    | .none => u.reads126 p.operand f
    | .movi => v.extractLsb' 18 4 == 0#4
    | .sli => true
    | .rejoin => !v.getLsbD 21
    | .offset => !v.getLsbD 21

/-- R146: nothing in the word and its pfx words raises the illegal-instruction trap. [log DEDUCED 32] -/
def Use.legal (u : Use) (p : Pfx) (f : WordF) : Bool :=
  u.d.legal false f.d && u.a.legal false f.a && u.b.legal p.operand.bs f.b &&
  (u.guard != .none || f.guard == 0#2) &&
  u.operandLegal p.operand f.guard && u.immLegal p f

/-- How an instruction stands in memory. -/
inductive View where
  /-- pfx words and one 32-bit word, with its row of R137 -/
  | core (p : Pfx) (f : WordF) (u : Use)
  /-- R127: a halfword -/
  | half (op : BitVec 4) (w : HalfW)
  /-- R472: a Lantern filter word -/
  | filter (w : Word)
  /-- a step of the device, with no encoding -/
  | event
  deriving DecidableEq, Repr

/-- R471: a filter word from its fields. -/
def filterWord (imm : BitVec 14) (b a d : BitVec 4) (op : BitVec 6) : Word := imm ++ b ++ a ++ d ++ op

/-- R141: the kind of field d of a vector load. -/
def loadKind (wid : BitVec 3) : Kind :=
  if wid.toNat ≤ 2 then .dst else if wid == 3#3 then .dstE else if wid == 4#3 then .dstQ else .fixed false

/-- R141: the kind of field d of a vector store. -/
def storeKind (wid : BitVec 3) : Kind :=
  if wid.toNat ≤ 2 then .src else if wid == 3#3 then .srcE else if wid == 4#3 then .srcQ else .fixed false

/-- R121, R127, R137 to R145, R471: the encoding of each instruction. -/
def view : Instr → View
  | .add w => .core w.pfx ⟨w.chain, w.b, w.a, w.d, w.guard, 0x01⟩
      ⟨.lanes, .dst, .src, .srcS, .none, .none, .none⟩
  | .sub w => .core w.pfx ⟨w.chain, w.b, w.a, w.d, w.guard, 0x02⟩
      ⟨.lanes, .dst, .src, .srcS, .none, .none, .none⟩
  | .mul w => .core w.pfx ⟨w.chain, w.b, w.a, w.d, w.guard, 0x03⟩
      ⟨.lanes, .dst, .src, .srcS, .none, .none, .none⟩
  | .mulh w => .core w.pfx ⟨w.chain, w.b, w.a, w.d, w.guard, 0x04⟩
      ⟨.lanes, .dst, .src, .srcS, .none, .none, .none⟩
  | .mad w => .core w.pfx ⟨w.chain, w.b, w.a, w.d, w.guard, 0x05⟩
      ⟨.lanes, .dst, .src, .srcS, .req, .none, .none⟩
  | .min w => .core w.pfx ⟨w.chain, w.b, w.a, w.d, w.guard, 0x06⟩
      ⟨.lanes, .dst, .src, .srcS, .none, .none, .none⟩
  | .max w => .core w.pfx ⟨w.chain, w.b, w.a, w.d, w.guard, 0x07⟩
      ⟨.lanes, .dst, .src, .srcS, .none, .none, .none⟩
  | .and w => .core w.pfx ⟨w.chain, w.b, w.a, w.d, w.guard, 0x08⟩
      ⟨.lanes, .dst, .src, .srcS, .none, .none, .none⟩
  | .or w => .core w.pfx ⟨w.chain, w.b, w.a, w.d, w.guard, 0x09⟩
      ⟨.lanes, .dst, .src, .srcS, .none, .none, .none⟩
  | .xor w => .core w.pfx ⟨w.chain, w.b, w.a, w.d, w.guard, 0x0a⟩
      ⟨.lanes, .dst, .src, .srcS, .none, .none, .none⟩
  | .andn w => .core w.pfx ⟨w.chain, w.b, w.a, w.d, w.guard, 0x0b⟩
      ⟨.lanes, .dst, .src, .srcS, .none, .none, .none⟩
  | .shl w => .core w.pfx ⟨w.chain, w.b, w.a, w.d, w.guard, 0x0c⟩
      ⟨.lanes, .dst, .src, .srcS, .none, .none, .none⟩
  | .shr w => .core w.pfx ⟨w.chain, w.b, w.a, w.d, w.guard, 0x0d⟩
      ⟨.lanes, .dst, .src, .srcS, .none, .none, .none⟩
  | .sra w => .core w.pfx ⟨w.chain, w.b, w.a, w.d, w.guard, 0x0e⟩
      ⟨.lanes, .dst, .src, .srcS, .none, .none, .none⟩
  | .rot w => .core w.pfx ⟨w.chain, w.b, w.a, w.d, w.guard, 0x0f⟩
      ⟨.lanes, .dst, .src, .srcS, .none, .none, .none⟩
  | .iunAbs w => .core w.pfx ⟨w.chain, 0, w.a, w.d, w.guard, 0x10⟩
      ⟨.lanes, .dst, .src, .fixed true, .none, .none, .none⟩
  | .iunNeg w => .core w.pfx ⟨w.chain, 1, w.a, w.d, w.guard, 0x10⟩
      ⟨.lanes, .dst, .src, .fixed true, .none, .none, .none⟩
  | .iunNot w => .core w.pfx ⟨w.chain, 2, w.a, w.d, w.guard, 0x10⟩
      ⟨.lanes, .dst, .src, .fixed true, .none, .none, .none⟩
  | .iunClz w => .core w.pfx ⟨w.chain, 3, w.a, w.d, w.guard, 0x10⟩
      ⟨.lanes, .dst, .src, .fixed true, .none, .none, .none⟩
  | .iunPopc w => .core w.pfx ⟨w.chain, 4, w.a, w.d, w.guard, 0x10⟩
      ⟨.lanes, .dst, .src, .fixed true, .none, .none, .none⟩
  | .iunBrev w => .core w.pfx ⟨w.chain, 5, w.a, w.d, w.guard, 0x10⟩
      ⟨.lanes, .dst, .src, .fixed true, .none, .none, .none⟩
  | .iunMov w => .core w.pfx ⟨w.chain, 6, w.a, w.d, w.guard, 0x10⟩
      ⟨.lanes, .dst, .src, .fixed true, .none, .none, .none⟩
  | .bfx w => .core w.pfx ⟨w.chain, w.b, w.a, w.d, w.guard, 0x11⟩
      ⟨.lanes, .dst, .src, .srcS, .none, .none, .none⟩
  | .bfi w => .core w.pfx ⟨w.chain, w.b, w.a, w.d, w.guard, 0x12⟩
      ⟨.lanes, .dst, .src, .srcS, .req, .none, .none⟩
  | .sel w => .core w.pfx ⟨w.chain, w.b, w.a, w.d, w.guard, 0x13⟩
      ⟨.lanes, .dst, .src, .srcS, .none, .lt8, .none⟩
  | .cmp w => .core w.pfx ⟨w.chain, w.b, w.a, w.d, w.guard, 0x14⟩
      ⟨.lanes, .fixed (w.d.toNat < 48), .src, .srcS, .none, .none, .none⟩
  | .addsat w => .core w.pfx ⟨w.chain, w.b, w.a, w.d, w.guard, 0x15⟩
      ⟨.lanes, .dst, .src, .srcS, .none, .none, .none⟩
  | .subsat w => .core w.pfx ⟨w.chain, w.b, w.a, w.d, w.guard, 0x16⟩
      ⟨.lanes, .dst, .src, .srcS, .none, .none, .none⟩
  | .sad w => .core w.pfx ⟨w.chain, w.b, w.a, w.d, w.guard, 0x17⟩
      ⟨.lanes, .dst, .src, .srcS, .req, .none, .none⟩
  | .movi w => .core w.pfx ⟨w.chain, w.b, w.a, w.d, w.guard, 0x18⟩
      ⟨.lanes, .dst, .fixed true, .fixed true, .none, .tag, .movi⟩
  | .lsa w => .core w.pfx ⟨w.chain, w.b, w.a, w.d, w.guard, 0x19⟩
      ⟨.lanes, .dst, .src, .srcS, .none, .lt8, .none⟩
  | .fadd w => .core w.pfx ⟨w.chain, w.b, w.a, w.d, w.guard, 0x20⟩
      ⟨.lanes, .dst, .src, .srcS, .none, .rm, .none⟩
  | .fsub w => .core w.pfx ⟨w.chain, w.b, w.a, w.d, w.guard, 0x21⟩
      ⟨.lanes, .dst, .src, .srcS, .none, .rm, .none⟩
  | .fmul w => .core w.pfx ⟨w.chain, w.b, w.a, w.d, w.guard, 0x22⟩
      ⟨.lanes, .dst, .src, .srcS, .none, .rm, .none⟩
  | .ffma w => .core w.pfx ⟨w.chain, w.b, w.a, w.d, w.guard, 0x23⟩
      ⟨.lanes, .dst, .src, .srcS, .req, .rm, .none⟩
  | .fmin w => .core w.pfx ⟨w.chain, w.b, w.a, w.d, w.guard, 0x24⟩
      ⟨.lanes, .dst, .src, .srcS, .none, .none, .none⟩
  | .fmax w => .core w.pfx ⟨w.chain, w.b, w.a, w.d, w.guard, 0x25⟩
      ⟨.lanes, .dst, .src, .srcS, .none, .none, .none⟩
  | .fminp w => .core w.pfx ⟨w.chain, w.b, w.a, w.d, w.guard, 0x26⟩
      ⟨.lanes, .dst, .src, .srcS, .none, .none, .none⟩
  | .fmaxp w => .core w.pfx ⟨w.chain, w.b, w.a, w.d, w.guard, 0x27⟩
      ⟨.lanes, .dst, .src, .srcS, .none, .none, .none⟩
  | .fcmp w => .core w.pfx ⟨w.chain, w.b, w.a, w.d, w.guard, 0x28⟩
      ⟨.lanes, .fixed (w.d.toNat < 64), .src, .srcS, .none, .none, .none⟩
  | .fclass w => .core w.pfx ⟨w.chain, 0, w.a, w.d, w.guard, 0x29⟩
      ⟨.lanes, .dst, .src, .fixed true, .none, .none, .none⟩
  | .fdiv w => .core w.pfx ⟨w.chain, w.b, w.a, w.d, w.guard, 0x2a⟩
      ⟨.lanes, .dst, .src, .srcS, .none, .rm, .none⟩
  | .fsqrt w => .core w.pfx ⟨w.chain, 0, w.a, w.d, w.guard, 0x2b⟩
      ⟨.lanes, .dst, .src, .fixed true, .none, .rm, .none⟩
  | .frcp w => .core w.pfx ⟨w.chain, 0, w.a, w.d, w.guard, 0x2c⟩
      ⟨.lanes, .dst, .src, .fixed true, .none, .rm, .none⟩
  | .frsq w => .core w.pfx ⟨w.chain, 0, w.a, w.d, w.guard, 0x2d⟩
      ⟨.lanes, .dst, .src, .fixed true, .none, .rm, .none⟩
  | .frint w => .core w.pfx ⟨w.chain, 0, w.a, w.d, w.guard, 0x2e⟩
      ⟨.lanes, .dst, .src, .fixed true, .none, .rm, .none⟩
  | .fscale w => .core w.pfx ⟨w.chain, w.b, w.a, w.d, w.guard, 0x2f⟩
      ⟨.lanes, .dst, .src, .srcS, .none, .rm, .none⟩
  | .cvt w => .core w.pfx ⟨w.chain, w.b, w.a, w.d, w.guard, 0x30⟩
      ⟨.lanes, .dst, .src, .fixed (litTag isFlt w.b), .none, .rm, .none⟩
  | .cvti w => .core w.pfx ⟨w.chain, w.b, w.a, w.d, w.guard, 0x31⟩
      ⟨.lanes, .dst, .src, .fixed (litTag isInt w.b), .none, .rm, .none⟩
  | .cvtf w => .core w.pfx ⟨w.chain, w.b, w.a, w.d, w.guard, 0x32⟩
      ⟨.lanes, .dst, .src, .fixed (litTag isFlt w.b), .none, .rm, .none⟩
  | .pk w => .core w.pfx ⟨w.chain, w.b, w.a, w.d, w.guard, 0x33⟩
      ⟨.lanes, .dst, .src, .srcS, .none, .packed, .none⟩
  | .upk w => .core w.pfx ⟨w.chain, w.b, w.a, w.d, w.guard, 0x34⟩
      ⟨.lanes, .dst, .src, .fixed (w.b.toNat < 8), .none, .none, .none⟩
  | .retag w => .core w.pfx ⟨w.chain, w.b, w.a, w.d, w.guard, 0x35⟩
      ⟨.lanes, .dst, .src, .fixed (litTag tagOk w.b), .none, .none, .none⟩
  | .fabs w => .core w.pfx ⟨w.chain, 0, w.a, w.d, w.guard, 0x36⟩
      ⟨.lanes, .dst, .src, .fixed true, .none, .none, .none⟩
  | .fneg w => .core w.pfx ⟨w.chain, 0, w.a, w.d, w.guard, 0x37⟩
      ⟨.lanes, .dst, .src, .fixed true, .none, .none, .none⟩
  | .fcpsgn w => .core w.pfx ⟨w.chain, w.b, w.a, w.d, w.guard, 0x38⟩
      ⟨.lanes, .dst, .src, .srcS, .none, .none, .none⟩
  | .sfnExp2 w => .core w.pfx ⟨w.chain, 0, w.a, w.d, w.guard, 0x40⟩
      ⟨.lanes, .dst, .src, .fixed true, .none, .none, .none⟩
  | .sfnLog2 w => .core w.pfx ⟨w.chain, 1, w.a, w.d, w.guard, 0x40⟩
      ⟨.lanes, .dst, .src, .fixed true, .none, .none, .none⟩
  | .sfnSinp w => .core w.pfx ⟨w.chain, 2, w.a, w.d, w.guard, 0x40⟩
      ⟨.lanes, .dst, .src, .fixed true, .none, .none, .none⟩
  | .sfnCosp w => .core w.pfx ⟨w.chain, 3, w.a, w.d, w.guard, 0x40⟩
      ⟨.lanes, .dst, .src, .fixed true, .none, .none, .none⟩
  | .sfnTanh w => .core w.pfx ⟨w.chain, 4, w.a, w.d, w.guard, 0x40⟩
      ⟨.lanes, .dst, .src, .fixed true, .none, .none, .none⟩
  | .sfnSigm w => .core w.pfx ⟨w.chain, 5, w.a, w.d, w.guard, 0x40⟩
      ⟨.lanes, .dst, .src, .fixed true, .none, .none, .none⟩
  | .rred w => .core w.pfx ⟨w.chain, 0, w.a, w.d, w.guard, 0x41⟩
      ⟨.lanes, .dst, .src, .fixed true, .none, .none, .none⟩
  | .swpp w => .core w.pfx ⟨w.chain, w.b, w.a, w.d, w.guard, 0x42⟩
      ⟨.lanes, .dst, .src, .fixed (w.b.toNat < 5), .none, .none, .none⟩
  | .shfl w => .core w.pfx ⟨w.chain, w.b, w.a, w.d, w.guard, 0x43⟩
      ⟨.lanes, .dst, .src, .srcS, .none, .none, .none⟩
  | .rfal w => .core w.pfx ⟨w.chain, 0, w.a, w.d, w.guard, 0x44⟩
      ⟨.lanes, .dst, .src, .fixed true, .none, .none, .none⟩
  | .bcast w => .core w.pfx ⟨w.chain, w.b, w.a, w.d, w.guard, 0x45⟩
      ⟨.lanes, .dst, .src, .fixed (w.b.toNat < 32), .none, .none, .none⟩
  | .voteAny w => .core w.pfx ⟨w.chain, 0, w.a, w.d, w.guard, 0x46⟩
      ⟨.lanes, .fixed (w.d.toNat < 8), .fixed (w.a.toNat < 8), .fixed true, .none, .none, .none⟩
  | .voteAll w => .core w.pfx ⟨w.chain, 1, w.a, w.d, w.guard, 0x46⟩
      ⟨.lanes, .fixed (w.d.toNat < 8), .fixed (w.a.toNat < 8), .fixed true, .none, .none, .none⟩
  | .voteBallot w => .core w.pfx ⟨w.chain, 2, w.a, w.d, w.guard, 0x46⟩
      ⟨.lanes, .dst, .fixed (w.a.toNat < 8), .fixed true, .none, .none, .none⟩
  | .matchLanes w => .core w.pfx ⟨w.chain, 0, w.a, w.d, w.guard, 0x47⟩
      ⟨.lanes, .dst, .src, .fixed true, .none, .none, .none⟩
  | .redlSum w => .core w.pfx ⟨w.chain, 0, w.a, w.d, w.guard, 0x48⟩
      ⟨.lanes, .dst, .src, .fixed true, .none, .none, .none⟩
  | .redlMax w => .core w.pfx ⟨w.chain, 1, w.a, w.d, w.guard, 0x48⟩
      ⟨.lanes, .dst, .src, .fixed true, .none, .none, .none⟩
  | .redlMin w => .core w.pfx ⟨w.chain, 2, w.a, w.d, w.guard, 0x48⟩
      ⟨.lanes, .dst, .src, .fixed true, .none, .none, .none⟩
  | .rmax w => .core w.pfx ⟨w.chain, w.b, w.a, w.d, w.guard, 0x49⟩
      ⟨.lanes, .dst, .src, .fixed (1 ≤ w.b.toNat && w.b.toNat ≤ 16), .none, .none, .none⟩
  | .rsexp w => .core w.pfx ⟨w.chain, w.b, w.a, w.d, w.guard, 0x4a⟩
      ⟨.lanes, .dst, .src, .fixed (1 ≤ w.b.toNat && w.b.toNat ≤ 16), .none, .none, .none⟩
  | .rstat w => .core w.pfx ⟨w.chain, w.b, w.a, w.d, w.guard, 0x4b⟩
      ⟨.lanes, .dst, .src, .fixed (1 ≤ w.b.toNat && w.b.toNat ≤ 16), .none, .none, .none⟩
  | .smx w => .core w.pfx ⟨w.chain, w.b, w.a, w.d, w.guard, 0x4c⟩
      ⟨.lanes, .dst, .src, .fixed (1 ≤ w.b.toNat && w.b.toNat ≤ 16), .none, .none, .none⟩
  | .rnorm w => .core w.pfx ⟨w.chain, w.b, w.a, w.d, w.guard, 0x4d⟩
      ⟨.lanes, .dst, .src, .fixed (1 ≤ w.b.toNat && w.b.toNat ≤ 16), .none, .none, .none⟩
  | .sadd w => .core w.pfx ⟨w.chain, w.b, w.a, w.d, 0, 0x50⟩
      ⟨.none, .sDst, .sSrc, .sSrc, .none, .none, .none⟩
  | .ssub w => .core w.pfx ⟨w.chain, w.b, w.a, w.d, 0, 0x51⟩
      ⟨.none, .sDst, .sSrc, .sSrc, .none, .none, .none⟩
  | .smul w => .core w.pfx ⟨w.chain, w.b, w.a, w.d, 0, 0x52⟩
      ⟨.none, .sDst, .sSrc, .sSrc, .none, .none, .none⟩
  | .smad w => .core w.pfx ⟨w.chain, w.b, w.a, w.d, 0, 0x53⟩
      ⟨.none, .sDst, .sSrc, .sSrc, .none, .none, .none⟩
  | .sand w => .core w.pfx ⟨w.chain, w.b, w.a, w.d, 0, 0x54⟩
      ⟨.none, .sDst, .sSrc, .sSrc, .none, .none, .none⟩
  | .sor w => .core w.pfx ⟨w.chain, w.b, w.a, w.d, 0, 0x55⟩
      ⟨.none, .sDst, .sSrc, .sSrc, .none, .none, .none⟩
  | .sxor w => .core w.pfx ⟨w.chain, w.b, w.a, w.d, 0, 0x56⟩
      ⟨.none, .sDst, .sSrc, .sSrc, .none, .none, .none⟩
  | .sshl w => .core w.pfx ⟨w.chain, w.b, w.a, w.d, 0, 0x57⟩
      ⟨.none, .sDst, .sSrc, .sSrc, .none, .none, .none⟩
  | .sshr w => .core w.pfx ⟨w.chain, w.b, w.a, w.d, 0, 0x58⟩
      ⟨.none, .sDst, .sSrc, .sSrc, .none, .none, .none⟩
  | .ssra w => .core w.pfx ⟨w.chain, w.b, w.a, w.d, 0, 0x59⟩
      ⟨.none, .sDst, .sSrc, .sSrc, .none, .none, .none⟩
  | .smin w => .core w.pfx ⟨w.chain, w.b, w.a, w.d, 0, 0x5a⟩
      ⟨.none, .sDst, .sSrc, .sSrc, .none, .none, .none⟩
  | .smax w => .core w.pfx ⟨w.chain, w.b, w.a, w.d, 0, 0x5b⟩
      ⟨.none, .sDst, .sSrc, .sSrc, .none, .none, .none⟩
  | .scmp w => .core w.pfx ⟨w.chain, w.b, w.a, w.d, 0, 0x5c⟩
      ⟨.none, .fixed (w.d.toNat < 80), .sSrc, .sSrc, .none, .none, .none⟩
  | .smov w => .core w.pfx ⟨w.chain, 0, w.a, w.d, 0, 0x5d⟩
      ⟨.none, .sDst, .sSrc, .fixed true, .none, .none, .none⟩
  | .slsa w => .core w.pfx ⟨w.chain, w.b, w.a, w.d, 0, 0x5e⟩
      ⟨.none, .sDst, .sSrc, .sSrc, .none, .lt8, .none⟩
  | .sli w => .core w.pfx ⟨w.chain, w.b, w.a, w.d, 0, 0x5f⟩
      ⟨.none, .sDst, .fixed true, .fixed true, .none, .none, .sli⟩
  | .bru p g off => .core p (offFields off g 0x60)
      ⟨.cond, .fixed true, .fixed true, .fixed true, .none, .none, .none⟩
  | .brd p g off => .core p (offFields off g 0x61)
      ⟨.lanes, .fixed true, .fixed true, .fixed true, .none, .none, .rejoin⟩
  | .jmp a => .core .none ⟨false, 0, a, 0, 0, 0x62⟩
      ⟨.none, .fixed true, .sSrc, .fixed true, .none, .none, .none⟩
  | .jmpx p g a => .core p ⟨false, 0, a, 0, g, 0x63⟩
      ⟨.lanes, .fixed true, .srcE, .fixed true, .none, .none, .rejoin⟩
  | .call p g off => .core p (offFields off g 0x64)
      ⟨.cond, .fixed true, .fixed true, .fixed true, .none, .none, .none⟩
  | .ret => .core .none ⟨false, 0, 0, 0, 0, 0x65⟩
      ⟨.none, .fixed true, .fixed true, .fixed true, .none, .none, .none⟩
  | .exit p g => .core p ⟨false, 0, 0, 0, g, 0x66⟩
      ⟨.lanes, .fixed true, .fixed true, .fixed true, .none, .none, .none⟩
  | .yld => .core .none ⟨false, 0, 0, 0, 0, 0x67⟩
      ⟨.none, .fixed true, .fixed true, .fixed true, .none, .none, .none⟩
  | .kill p g => .core p ⟨false, 0, 0, 0, g, 0x77⟩
      ⟨.lanes, .fixed true, .fixed true, .fixed true, .none, .none, .none⟩
  | .ld w => .core w.pfx ⟨false, (w.ord ++ w.wid), w.a, w.d, w.guard, 0x68⟩
      ⟨.lanes, loadKind w.wid, .srcE, .fixed (w.ord.toNat ≤ 5), .tag, .lt8, .offset⟩
  | .st w => .core w.pfx ⟨false, (w.ord ++ w.wid), w.a, w.d, w.guard, 0x69⟩
      ⟨.lanes, storeKind w.wid, .srcE, .fixed (w.ord.toNat ≤ 5), .none, .lt8, .offset⟩
  | .lds w => .core w.pfx ⟨false, (w.ord ++ w.wid), w.a, w.d, w.guard, 0x6a⟩
      ⟨.lanes, loadKind w.wid, .src, .fixed (w.ord.toNat ≤ 3), .tag, .none, .offset⟩
  | .sts w => .core w.pfx ⟨false, (w.ord ++ w.wid), w.a, w.d, w.guard, 0x6b⟩
      ⟨.lanes, storeKind w.wid, .src, .fixed (w.ord.toNat ≤ 3), .none, .none, .offset⟩
  | .ldu w => .core w.pfx ⟨false, (w.ord ++ w.wid), w.a, w.d, 0, 0x6c⟩
      ⟨.none, .sDst, .sSrc, .fixed (w.ord.toNat ≤ 5 && w.wid.toNat ≤ 3), .none, .lt8, .offset⟩
  | .stu w => .core w.pfx ⟨false, (w.ord ++ w.wid), w.a, w.d, 0, 0x6d⟩
      ⟨.none, .sSrc, .sSrc, .fixed (w.ord.toNat ≤ 5 && w.wid.toNat ≤ 3), .none, .lt8, .offset⟩
  | .pgreq p g a => .core p ⟨false, 0, a, 0, g, 0x6e⟩
      ⟨.lanes, .fixed true, .srcE, .fixed true, .none, .none, .none⟩
  | .rgnBegin p => .core p ⟨false, 0, 0, 0, 0, 0x6f⟩
      ⟨.none, .fixed true, .fixed true, .fixed true, .none, .none, .none⟩
  | .rgnCommit p => .core p ⟨false, 1, 0, 0, 0, 0x6f⟩
      ⟨.none, .fixed true, .fixed true, .fixed true, .none, .none, .none⟩
  | .atmAdd w => .core w.pfx ⟨false, (w.ord ++ BitVec.ofBool w.wide ++ 0#3), w.a, w.d, w.guard, 0x70⟩
      ⟨.lanes, (if w.wide then .dstE else .dst), .srcE, .fixed (w.ord.toNat ≤ 5), .req, .lt8, .none⟩
  | .atmMin w => .core w.pfx ⟨false, (w.ord ++ BitVec.ofBool w.wide ++ 1#3), w.a, w.d, w.guard, 0x70⟩
      ⟨.lanes, (if w.wide then .dstE else .dst), .srcE, .fixed (w.ord.toNat ≤ 5), .req, .lt8, .none⟩
  | .atmMax w => .core w.pfx ⟨false, (w.ord ++ BitVec.ofBool w.wide ++ 2#3), w.a, w.d, w.guard, 0x70⟩
      ⟨.lanes, (if w.wide then .dstE else .dst), .srcE, .fixed (w.ord.toNat ≤ 5), .req, .lt8, .none⟩
  | .atmAnd w => .core w.pfx ⟨false, (w.ord ++ BitVec.ofBool w.wide ++ 3#3), w.a, w.d, w.guard, 0x70⟩
      ⟨.lanes, (if w.wide then .dstE else .dst), .srcE, .fixed (w.ord.toNat ≤ 5), .req, .lt8, .none⟩
  | .atmOr w => .core w.pfx ⟨false, (w.ord ++ BitVec.ofBool w.wide ++ 4#3), w.a, w.d, w.guard, 0x70⟩
      ⟨.lanes, (if w.wide then .dstE else .dst), .srcE, .fixed (w.ord.toNat ≤ 5), .req, .lt8, .none⟩
  | .atmXor w => .core w.pfx ⟨false, (w.ord ++ BitVec.ofBool w.wide ++ 5#3), w.a, w.d, w.guard, 0x70⟩
      ⟨.lanes, (if w.wide then .dstE else .dst), .srcE, .fixed (w.ord.toNat ≤ 5), .req, .lt8, .none⟩
  | .atmXchg w => .core w.pfx ⟨false, (w.ord ++ BitVec.ofBool w.wide ++ 6#3), w.a, w.d, w.guard, 0x70⟩
      ⟨.lanes, (if w.wide then .dstE else .dst), .srcE, .fixed (w.ord.toNat ≤ 5), .req, .lt8, .none⟩
  | .atmCas w => .core w.pfx ⟨false, (w.ord ++ BitVec.ofBool w.wide ++ 7#3), w.a, w.d, w.guard, 0x70⟩
      ⟨.lanes, (if w.wide then .dstE else .dst), .srcE, .fixed (w.ord.toNat ≤ 5), .req, .lt8, .none⟩
  | .ctrb p g d a b => .core p ⟨false, b, a, d, g, 0x71⟩
      ⟨.lanes, .src, .src, .sSrc, .none, .level, .none⟩
  | .redInit p a => .core p ⟨false, 0, a, 0, 0, 0x72⟩
      ⟨.none, .fixed true, .sSrc, .fixed true, .none, .none, .none⟩
  | .redNull p g d a => .core p ⟨false, 1, a, d, g, 0x72⟩
      ⟨.lanes, .src, .sSrc, .fixed true, .none, .level, .none⟩
  | .redQuery p d a => .core p ⟨false, 2, a, d, 0, 0x72⟩
      ⟨.none, .sDst, .sSrc, .fixed true, .none, .none, .none⟩
  | .mst p d a b => .core p ⟨false, b, a, d, 0, 0x73⟩
      ⟨.none, .srcE, .sSrc, .sSrc, .none, .none, .none⟩
  | .fence p s a => .core p ⟨false, (0#4 ++ s), a, 0, 0, 0x74⟩
      ⟨.none, .fixed true, (if s == 4#3 then .sDst else .fixed (a == 0)), .fixed (s.toNat ≤ 4), .none, .none, .none⟩
  | .fenceS p => .core p ⟨false, 8, 0, 0, 0, 0x74⟩
      ⟨.none, .fixed true, .fixed true, .fixed true, .none, .none, .none⟩
  | .fencex p q1 p1 s a => .core p ⟨false, (0#1 ++ q1 ++ p1), a, (0#4 ++ s), 0, 0x75⟩
      ⟨.none, .fixed (s.toNat ≤ 4), (if s == 4#3 then .sDst else .fixed (a == 0)), .fixed (p1.toNat ≤ 5 && q1.toNat ≤ 5 && p1 != q1), .none, .none, .none⟩
  | .bar p spec s a => .core p ⟨false, (0#3 ++ BitVec.ofBool spec ++ s), a, 0, 0, 0x76⟩
      ⟨.none, .fixed true, (if spec then .sSrc else .fixed (a == 0)), .fixed (s.toNat ≤ 3), .none, .none, .none⟩
  | .mmt p d a => .core p ⟨false, 0, a, d, 0, 0x78⟩
      ⟨.none, .fixed (d.toNat < 16), .quad, .fixed true, .none, .gslot, .none⟩
  | .tcon p d a => .core p ⟨false, 0, a, d, 0, 0x79⟩
      ⟨.none, .fixed (d.toNat < 16), .quad, .fixed true, .none, .gslot, .none⟩
  | .accZero p d => .core p ⟨false, 0, 0, d, 0, 0x7a⟩
      ⟨.none, .fixed (d.toNat < 16), .fixed true, .fixed true, .none, .gslot, .none⟩
  | .accBind d => .core .none ⟨false, 1, 0, d, 0, 0x7a⟩
      ⟨.none, .fixed (d.toNat < 16), .fixed true, .fixed true, .none, .none, .none⟩
  | .accLoad p d a => .core p ⟨false, 2, a, d, 0, 0x7a⟩
      ⟨.none, .fixed (d.toNat < 16), .sSrc, .fixed true, .none, .gslot, .none⟩
  | .accStore p d a => .core p ⟨false, 3, a, d, 0, 0x7a⟩
      ⟨.none, .fixed (d.toNat < 16), .sSrc, .fixed true, .none, .gslot, .none⟩
  | .accFold p d => .core p ⟨false, 4, 0, d, 0, 0x7a⟩
      ⟨.none, .fixed (d.toNat < 16), .fixed true, .fixed true, .none, .gslot, .none⟩
  | .accCtrb p d a => .core p ⟨false, 5, a, d, 0, 0x7a⟩
      ⟨.none, .fixed (d.toNat < 16), .sSrc, .fixed true, .none, .gslot, .none⟩
  | .cpyLoad p d a => .core p ⟨false, 0, a, d, 0, 0x7b⟩
      ⟨.none, .fixed (d.toNat < 64), .quad, .fixed true, .none, .gslot, .none⟩
  | .cpyStore p d a => .core p ⟨false, 1, a, d, 0, 0x7b⟩
      ⟨.none, .fixed (d.toNat < 64), .quad, .fixed true, .none, .gslot, .none⟩
  | .cpyGather p d a => .core p ⟨false, 2, a, d, 0, 0x7b⟩
      ⟨.none, .fixed (d.toNat < 64), .quad, .fixed true, .none, .gslot, .none⟩
  | .cpyScatter p d a => .core p ⟨false, 3, a, d, 0, 0x7b⟩
      ⟨.none, .fixed (d.toNat < 64), .quad, .fixed true, .none, .gslot, .none⟩
  | .cpyFill p d a => .core p ⟨false, 4, a, d, 0, 0x7b⟩
      ⟨.none, .fixed (d.toNat < 64), .quad, .fixed true, .none, .gslot, .none⟩
  | .cpyL2pf p d a => .core p ⟨false, 5, a, d, 0, 0x7b⟩
      ⟨.none, .fixed (d.toNat < 64), .quad, .fixed true, .none, .gslot, .none⟩
  | .cpyXfer p d a => .core p ⟨false, 6, a, d, 0, 0x7b⟩
      ⟨.none, .fixed (d.toNat < 64), .quad, .fixed true, .none, .gslot, .none⟩
  | .wtgAny a => .core .none ⟨false, 0, a, 0, 0, 0x7c⟩
      ⟨.none, .fixed true, .sSrc, .fixed true, .none, .none, .none⟩
  | .wtgAll a => .core .none ⟨false, 1, a, 0, 0, 0x7c⟩
      ⟨.none, .fixed true, .sSrc, .fixed true, .none, .none, .none⟩
  | .wtgFirst d a => .core .none ⟨false, 2, a, d, 0, 0x7c⟩
      ⟨.none, .sDst, .sSrc, .fixed true, .none, .none, .none⟩
  | .wtgTest d a => .core .none ⟨false, 3, a, d, 0, 0x7c⟩
      ⟨.none, .sDst, .sSrc, .fixed true, .none, .none, .none⟩
  | .engGset a => .core .none ⟨false, 0, a, 0, 0, 0x7d⟩
      ⟨.none, .fixed true, .sSrc, .fixed true, .none, .none, .none⟩
  | .engPlan p a => .core p ⟨false, 1, a, 0, 0, 0x7d⟩
      ⟨.none, .fixed true, .sSrc, .fixed true, .none, .gslot, .none⟩
  | .engLaunch p d a => .core p ⟨false, 2, a, d, 0, 0x7d⟩
      ⟨.none, .sDst, .sSrc, .fixed true, .none, .gslot, .none⟩
  | .engWaitl d a => .core .none ⟨false, 3, a, d, 0, 0x7d⟩
      ⟨.none, .sDst, .sSrc, .fixed true, .none, .none, .none⟩
  | .engLnt p a => .core p ⟨false, 4, a, 0, 0, 0x7d⟩
      ⟨.none, .fixed true, .sSrc, .fixed true, .none, .gslot, .none⟩
  | .sysTrap a => .core .none ⟨false, 0, a, 0, 0, 0x7e⟩
      ⟨.none, .fixed true, .fixed true, .fixed true, .none, .none, .none⟩
  | .sysRte => .core .none ⟨false, 1, 0, 0, 0, 0x7e⟩
      ⟨.none, .fixed true, .fixed true, .fixed true, .none, .none, .none⟩
  | .sysMovsr d a => .core .none ⟨false, 2, a, d, 0, 0x7e⟩
      ⟨.none, .sDst, .fixed (80 ≤ a.toNat && a.toNat ≤ 95), .fixed true, .none, .none, .none⟩
  | .sysMovcr a => .core .none ⟨false, 3, a, 0, 0, 0x7e⟩
      ⟨.none, .fixed true, .sSrc, .fixed true, .none, .none, .none⟩
  | .sysRegacq a => .core .none ⟨false, 4, a, 0, 0, 0x7e⟩
      ⟨.none, .fixed true, .fixed (a.toNat ≤ 10), .fixed true, .none, .none, .none⟩
  | .sysRegrel a => .core .none ⟨false, 5, a, 0, 0, 0x7e⟩
      ⟨.none, .fixed true, .fixed (a.toNat ≤ 10), .fixed true, .none, .none, .none⟩
  | .sysXiset a => .core .none ⟨false, 6, a, 0, 0, 0x7e⟩
      ⟨.none, .fixed true, .sSrc, .fixed true, .none, .none, .none⟩
  | .sysStat d => .core .none ⟨false, 7, 0, d, 0, 0x7e⟩
      ⟨.none, .sDst, .fixed true, .fixed true, .none, .none, .none⟩
  | .sysNop => .core .none ⟨false, 8, 0, 0, 0, 0x7e⟩
      ⟨.none, .fixed true, .fixed true, .fixed true, .none, .none, .none⟩
  | .sysBrk a => .core .none ⟨false, 9, a, 0, 0, 0x7e⟩
      ⟨.none, .fixed true, .fixed true, .fixed true, .none, .none, .none⟩
  | .sysMode d a => .core .none ⟨false, 10, a, d, 0, 0x7e⟩
      ⟨.none, .fixed (d.toNat ≤ 15), .fixed (a.toNat ≤ 2), .fixed true, .none, .none, .none⟩
  | .sysClk d => .core .none ⟨false, 11, 0, d, 0, 0x7e⟩
      ⟨.none, .sDst, .fixed true, .fixed true, .none, .none, .none⟩
  | .ill raw => .core .none ⟨raw.getLsbD 23, raw.extractLsb' 16 7, raw.extractLsb' 9 7, raw.extractLsb' 2 7, raw.extractLsb' 0 2, 0⟩
      ⟨.lanes, .fixed true, .fixed true, .fixed true, .none, .none, .none⟩
  | .movC16 w => .half 0 w
  | .addC16 w => .half 1 w
  | .subC16 w => .half 2 w
  | .mulC16 w => .half 3 w
  | .andC16 w => .half 4 w
  | .orC16 w => .half 5 w
  | .xorC16 w => .half 6 w
  | .shlC16 w => .half 7 w
  | .shrC16 w => .half 8 w
  | .faddC16 w => .half 9 w
  | .fsubC16 w => .half 10 w
  | .fmulC16 w => .half 11 w
  | .fminC16 w => .half 12 w
  | .fmaxC16 w => .half 13 w
  | .fnegC16 w => .half 14 w
  | .sraC16 w => .half 15 w
  | .filterEnd => .filter (filterWord 0 0 0 0 0)
  | .filterAdd b a d => .filter (filterWord 0 b a d 1)
  | .filterSub b a d => .filter (filterWord 0 b a d 2)
  | .filterMul b a d => .filter (filterWord 0 b a d 3)
  | .filterAnd b a d => .filter (filterWord 0 b a d 4)
  | .filterOr b a d => .filter (filterWord 0 b a d 5)
  | .filterXor b a d => .filter (filterWord 0 b a d 6)
  | .filterShl b a d => .filter (filterWord 0 b a d 7)
  | .filterShr b a d => .filter (filterWord 0 b a d 8)
  | .filterMin b a d => .filter (filterWord 0 b a d 9)
  | .filterMax b a d => .filter (filterWord 0 b a d 10)
  | .filterClz a d => .filter (filterWord 0 0 a d 11)
  | .filterAddi imm a d => .filter (filterWord imm 0 a d 12)
  | .filterAndi imm a d => .filter (filterWord imm 0 a d 13)
  | .filterShli n a d => .filter (filterWord (0#8 ++ n) 0 a d 14)
  | .filterShri n a d => .filter (filterWord (0#8 ++ n) 0 a d 15)
  | .filterMovi imm d => .filter (filterWord imm 0 0 d 16)
  | .filterLdk k d => .filter (filterWord (0#10 ++ k) 0 0 d 17)
  | .filterLdst k d => .filter (filterWord (0#10 ++ k) 0 0 d 18)
  | .filterStst k a => .filter (filterWord (0#10 ++ k) 0 a 0 19)
  | .filterLbkt a d => .filter (filterWord 0 0 a d 20)
  | .filterHadd h b a => .filter (filterWord (0#10 ++ h) b a 0 21)
  | .filterKadd k b a => .filter (filterWord (0#12 ++ k) b a 0 22)
  | .filterKest k a d => .filter (filterWord (0#12 ++ k) 0 a d 23)
  | .filterBeq n b a => .filter (filterWord (0#7 ++ n) b a 0 24)
  | .filterBne n b a => .filter (filterWord (0#7 ++ n) b a 0 25)
  | .filterBltu n b a => .filter (filterWord (0#7 ++ n) b a 0 26)
  | .filterTrig t a => .filter (filterWord (0#12 ++ t) 0 a 0 27)
  | .issueOpportunity _ _ => .event
  | .splitRotation _ _ => .event
  | .yldResume _ _ _ => .event
  | .regacqGrant _ => .event
  | .coreBufferForward _ => .event
  | .fragmentReoffer _ => .event
  | .spillExhausted _ => .event
  | .fenceRetire _ _ _ => .event
  | .issueAccessComplete _ _ _ => .event
  | .engineQueueRetry _ _ _ => .event
  | .commandStart _ => .event
  | .commandComplete _ => .event
  | .guardFlagRead _ => .event
  | .cpyFifoElement _ => .event
  | .wtgWake _ _ _ => .event
  | .waitlReturn _ _ _ => .event
  | .gsetExchange _ _ _ => .event
  | .fifoAccessResume _ _ _ => .event
  | .bankDrainComplete _ _ => .event
  | .rwcLineDrain _ => .event
  | .invalidationComplete _ => .event
  | .launchQueueTake _ => .event
  | .launchRecordRetry _ => .event
  | .pendingRelease _ => .event
  | .teamPlace _ _ => .event
  | .teamEnd _ _ => .event
  | .contextWritten _ _ => .event
  | .teamRestore _ _ _ => .event
  | .timeSliceEnd _ _ => .event
  | .accessCompletion _ _ => .event
  | .requestTimeout _ => .event
  | .slotTimeout _ => .event
  | .planContextTake _ => .event
  | .sliceRedInit => .event
  | .arriveAt => .event
  | .tinvFirstStage _ => .event
  | .tinvSecondStage _ => .event
  | .tinvAll _ => .event
  | .tinvWindows _ => .event
  | .queueHeadWrite _ _ => .event
  | .lqwrWrite _ _ => .event
  | .preemptionRequest _ _ _ => .event
  | .shedStep _ => .event
  | .shedUndo _ => .event
  | .rateRecovery _ _ => .event
  | .rd _ => .event
  | .wr _ => .event
  | .wrm _ => .event
  | .atmPacket _ => .event
  | .frag _ => .event
  | .mstPacket _ => .event
  | .token _ => .event
  | .ack _ => .event
  | .nack _ => .event
  | .rdr _ => .event
  | .atr _ => .event
  | .mack _ => .event
  | .seqa _ => .event
  | .skip _ => .event
  | .packetRoute _ _ => .event
  | .seqaSend _ _ => .event
  | .packetResend _ _ => .event
  | .skipResend _ => .event
  | .channelReset _ => .event
  | .flitError _ => .event
  | .lossOfLock _ => .event
  | .linkTrainResult _ _ => .event
  | .portRejoin _ => .event
  | .managementRetrain _ => .event
  | .lgctlGo _ _ => .event
  | .lgQuiesceEnd _ => .event
  | .lgDrainEnd _ _ => .event
  | .lgRetrainEnd _ _ _ _ => .event
  | .lgMap _ => .event
  | .bootTableAccess _ _ => .event
  | .keyPassExpiry _ => .event
  | .multicastLoad _ => .event
  | .memberTimeout _ _ => .event
  | .planNop _ _ => .event
  | .planCopy _ _ => .event
  | .planReduce _ _ => .event
  | .planWaitd _ _ => .event
  | .planSignal _ _ => .event
  | .planUewrite _ _ => .event
  | .planUetoken _ _ => .event
  | .planOpComplete _ _ _ => .event
  | .tokenTimeout _ => .event
  | .tokenResend _ => .event
  | .uetokenReceipt _ _ _ => .event
  | .tapEvent _ => .event
  | .tapSample _ => .event
  | .filterInvocation _ => .event
  | .bucketRefill => .event
  | .triggerRearm _ => .event
  | .publication _ => .event
  | .lnLoad _ => .event
  | .lnAttach _ => .event
  | .lnDetach _ => .event
  | .lnClear _ => .event
  | .lnSeeds _ => .event
  | .lnTrigger _ => .event
  | .lnArm _ => .event
  | .lnUnfreeze _ => .event
  | .lnPublish _ => .event
  | .eccError _ _ _ => .event
  | .selfTestEnd _ _ => .event
  | .marginReplan _ => .event
  | .powerBlockUpdate _ _ _ _ => .event
  | .junctionOvertemp => .event
  | .deviceReset => .event
  | .debugGo _ => .event
  | .debugKill _ => .event
  | .attestationRequest _ => .event
  | .attestationWritten => .event
  | .pldmFirmwareUpdate _ _ => .event
  | .pldmSensorRead _ => .event
  | .registerWrite _ _ _ => .event
  | .replayComplete _ => .event
  | .ueRmaWriteReceipt _ _ _ => .event

/-- R146, R471: an instruction whose encoding raises no illegal-instruction trap. -/
def View.legal : View → Bool
  | .core p f u => u.legal p f
  | .half op w => !(op == 0#4 && w.a == 0#6 && w.d == 0#5)
  | .filter _ => true
  | .event => true

end Sys2Proof.Machine
end

