-- ==== Sys2Proof/WellFormed.lean ====
section
/-! DEFINITION. WellFormed.lean: the instructions that the device does not refuse as encodings. -/
namespace Sys2Proof

/-- R146: every field of the instruction is one its opcode row accepts. A step of the device carries no encoding. -/
def WellFormed (i : Instr) : Prop := (Machine.view i).legal = true

end Sys2Proof
end

