-- ==== Sys2Proof/Decode.lean ====
section
/-! DEFINITION. Decode.lean: how the device cuts a stream of halfwords into instructions (R119 to R132) and
Lantern reads a filter word (R471); the words of an instruction; and the table words of the host's check. -/
namespace Sys2Proof

open Sys2Proof.Machine

/-- Why a pattern of halfwords is no instruction. Each raises the illegal-instruction trap, but for truncated,
which is a fetch that cannot go on (R119, R131). -/
inductive Reject where
  /-- the stream ends inside the instruction -/
  | truncated
  /-- the stream ends in or right after a pfx word (R131) -/
  | pfxTruncated
  /-- the halfword 0x0000 (R120) -/
  | zeroHalfword
  /-- a pfx before a 16-bit word (R131) -/
  | pfxBeforeHalf
  /-- a third pfx, two of one kind, or a reserved kind (R128, R131) -/
  | badPfx
  /-- an unassigned major opcode or sub-operation, or a field that R146 refuses -/
  | badWord (major : BitVec 7)
  /-- no filter instruction (R471) -/
  | badFilter
  deriving DecidableEq, Repr

/-- R128, R131: one more pfx word, where it may stand. -/
def addPfx (p : Pfx) (w : Word) : Option Pfx :=
  if w.extractLsb' 30 2 == 0#2 then
    let o : OperandPfx := ⟨w.extractLsb' 24 6, w.getLsbD 23, w.extractLsb' 16 7, w.getLsbD 15, w.getLsbD 14,
      w.getLsbD 13, w.getLsbD 12, w.getLsbD 11, w.extractLsb' 8 3⟩
    match p with
    | .none => some (.op o)
    | .imm v => some (.immOp v o)
    | .op _ => none
    | .opImm _ _ => none
    | .immOp _ _ => none
  else if w.extractLsb' 30 2 == 1#2 then
    let v := w.extractLsb' 8 22
    match p with
    | .none => some (.imm v)
    | .op o => some (.opImm o v)
    | .imm _ => none
    | .opImm _ _ => none
    | .immOp _ _ => none
  else none

/-- The sub-operations of major 0x10 (R138 to R145). -/
def buildIun (p : Pfx) (f : WordF) : Option Instr :=
  match f.b.toNat with
  | 0 => some (.iunAbs ⟨p, f.chain, f.guard, f.d, f.a⟩)
  | 1 => some (.iunNeg ⟨p, f.chain, f.guard, f.d, f.a⟩)
  | 2 => some (.iunNot ⟨p, f.chain, f.guard, f.d, f.a⟩)
  | 3 => some (.iunClz ⟨p, f.chain, f.guard, f.d, f.a⟩)
  | 4 => some (.iunPopc ⟨p, f.chain, f.guard, f.d, f.a⟩)
  | 5 => some (.iunBrev ⟨p, f.chain, f.guard, f.d, f.a⟩)
  | 6 => some (.iunMov ⟨p, f.chain, f.guard, f.d, f.a⟩)
  | _ => none

/-- The sub-operations of major 0x40 (R138 to R145). -/
def buildSfn (p : Pfx) (f : WordF) : Option Instr :=
  match f.b.toNat with
  | 0 => some (.sfnExp2 ⟨p, f.chain, f.guard, f.d, f.a⟩)
  | 1 => some (.sfnLog2 ⟨p, f.chain, f.guard, f.d, f.a⟩)
  | 2 => some (.sfnSinp ⟨p, f.chain, f.guard, f.d, f.a⟩)
  | 3 => some (.sfnCosp ⟨p, f.chain, f.guard, f.d, f.a⟩)
  | 4 => some (.sfnTanh ⟨p, f.chain, f.guard, f.d, f.a⟩)
  | 5 => some (.sfnSigm ⟨p, f.chain, f.guard, f.d, f.a⟩)
  | _ => none

/-- The sub-operations of major 0x46 (R138 to R145). -/
def buildVote (p : Pfx) (f : WordF) : Option Instr :=
  match f.b.toNat with
  | 0 => some (.voteAny ⟨p, f.chain, f.guard, f.d, f.a⟩)
  | 1 => some (.voteAll ⟨p, f.chain, f.guard, f.d, f.a⟩)
  | 2 => some (.voteBallot ⟨p, f.chain, f.guard, f.d, f.a⟩)
  | _ => none

/-- The sub-operations of major 0x48 (R138 to R145). -/
def buildRedl (p : Pfx) (f : WordF) : Option Instr :=
  match f.b.toNat with
  | 0 => some (.redlSum ⟨p, f.chain, f.guard, f.d, f.a⟩)
  | 1 => some (.redlMax ⟨p, f.chain, f.guard, f.d, f.a⟩)
  | 2 => some (.redlMin ⟨p, f.chain, f.guard, f.d, f.a⟩)
  | _ => none

/-- The sub-operations of major 0x6f (R138 to R145). -/
def buildRgn (p : Pfx) (f : WordF) : Option Instr :=
  match f.b.toNat with
  | 0 => some (.rgnBegin p)
  | 1 => some (.rgnCommit p)
  | _ => none

/-- The sub-operations of major 0x70 (R138 to R145). -/
def buildAtm (p : Pfx) (f : WordF) : Option Instr :=
  match (f.b.extractLsb' 0 3).toNat with
  | 0 => some (.atmAdd ⟨p, f.guard, f.d, f.a, f.b.extractLsb' 4 3, f.b.getLsbD 3⟩)
  | 1 => some (.atmMin ⟨p, f.guard, f.d, f.a, f.b.extractLsb' 4 3, f.b.getLsbD 3⟩)
  | 2 => some (.atmMax ⟨p, f.guard, f.d, f.a, f.b.extractLsb' 4 3, f.b.getLsbD 3⟩)
  | 3 => some (.atmAnd ⟨p, f.guard, f.d, f.a, f.b.extractLsb' 4 3, f.b.getLsbD 3⟩)
  | 4 => some (.atmOr ⟨p, f.guard, f.d, f.a, f.b.extractLsb' 4 3, f.b.getLsbD 3⟩)
  | 5 => some (.atmXor ⟨p, f.guard, f.d, f.a, f.b.extractLsb' 4 3, f.b.getLsbD 3⟩)
  | 6 => some (.atmXchg ⟨p, f.guard, f.d, f.a, f.b.extractLsb' 4 3, f.b.getLsbD 3⟩)
  | 7 => some (.atmCas ⟨p, f.guard, f.d, f.a, f.b.extractLsb' 4 3, f.b.getLsbD 3⟩)
  | _ => none

/-- The sub-operations of major 0x72 (R138 to R145). -/
def buildRed (p : Pfx) (f : WordF) : Option Instr :=
  match f.b.toNat with
  | 0 => some (.redInit p f.a)
  | 1 => some (.redNull p f.guard f.d f.a)
  | 2 => some (.redQuery p f.d f.a)
  | _ => none

/-- The sub-operations of major 0x74 (R138 to R145). -/
def buildFence (p : Pfx) (f : WordF) : Option Instr :=
  if f.b == 8#7 then some (.fenceS p) else some (.fence p (f.b.extractLsb' 0 3) f.a)

/-- The sub-operations of major 0x7a (R138 to R145). -/
def buildAcc (p : Pfx) (f : WordF) : Option Instr :=
  match f.b.toNat with
  | 0 => some (.accZero p f.d)
  | 1 => some (.accBind f.d)
  | 2 => some (.accLoad p f.d f.a)
  | 3 => some (.accStore p f.d f.a)
  | 4 => some (.accFold p f.d)
  | 5 => some (.accCtrb p f.d f.a)
  | _ => none

/-- The sub-operations of major 0x7b (R138 to R145). -/
def buildCpy (p : Pfx) (f : WordF) : Option Instr :=
  match f.b.toNat with
  | 0 => some (.cpyLoad p f.d f.a)
  | 1 => some (.cpyStore p f.d f.a)
  | 2 => some (.cpyGather p f.d f.a)
  | 3 => some (.cpyScatter p f.d f.a)
  | 4 => some (.cpyFill p f.d f.a)
  | 5 => some (.cpyL2pf p f.d f.a)
  | 6 => some (.cpyXfer p f.d f.a)
  | _ => none

/-- The sub-operations of major 0x7c (R138 to R145). -/
def buildWtg (_p : Pfx) (f : WordF) : Option Instr :=
  match f.b.toNat with
  | 0 => some (.wtgAny f.a)
  | 1 => some (.wtgAll f.a)
  | 2 => some (.wtgFirst f.d f.a)
  | 3 => some (.wtgTest f.d f.a)
  | _ => none

/-- The sub-operations of major 0x7d (R138 to R145). -/
def buildEng (p : Pfx) (f : WordF) : Option Instr :=
  match f.b.toNat with
  | 0 => some (.engGset f.a)
  | 1 => some (.engPlan p f.a)
  | 2 => some (.engLaunch p f.d f.a)
  | 3 => some (.engWaitl f.d f.a)
  | 4 => some (.engLnt p f.a)
  | _ => none

/-- The sub-operations of major 0x7e (R138 to R145). -/
def buildSys (_p : Pfx) (f : WordF) : Option Instr :=
  match f.b.toNat with
  | 0 => some (.sysTrap f.a)
  | 1 => some .sysRte
  | 2 => some (.sysMovsr f.d f.a)
  | 3 => some (.sysMovcr f.a)
  | 4 => some (.sysRegacq f.a)
  | 5 => some (.sysRegrel f.a)
  | 6 => some (.sysXiset f.a)
  | 7 => some (.sysStat f.d)
  | 8 => some .sysNop
  | 9 => some (.sysBrk f.a)
  | 10 => some (.sysMode f.d f.a)
  | 11 => some (.sysClk f.d)
  | _ => none

/-- R137: the instruction of a word's opcode row, its fields not yet checked. -/
def build (p : Pfx) (f : WordF) : Option Instr :=
  match f.major.toNat with
  | 0x00 => some (.ill (BitVec.ofBool f.chain ++ f.b ++ f.a ++ f.d ++ f.guard))
  | 0x01 => some (.add ⟨p, f.chain, f.guard, f.d, f.a, f.b⟩)
  | 0x02 => some (.sub ⟨p, f.chain, f.guard, f.d, f.a, f.b⟩)
  | 0x03 => some (.mul ⟨p, f.chain, f.guard, f.d, f.a, f.b⟩)
  | 0x04 => some (.mulh ⟨p, f.chain, f.guard, f.d, f.a, f.b⟩)
  | 0x05 => some (.mad ⟨p, f.chain, f.guard, f.d, f.a, f.b⟩)
  | 0x06 => some (.min ⟨p, f.chain, f.guard, f.d, f.a, f.b⟩)
  | 0x07 => some (.max ⟨p, f.chain, f.guard, f.d, f.a, f.b⟩)
  | 0x08 => some (.and ⟨p, f.chain, f.guard, f.d, f.a, f.b⟩)
  | 0x09 => some (.or ⟨p, f.chain, f.guard, f.d, f.a, f.b⟩)
  | 0x0a => some (.xor ⟨p, f.chain, f.guard, f.d, f.a, f.b⟩)
  | 0x0b => some (.andn ⟨p, f.chain, f.guard, f.d, f.a, f.b⟩)
  | 0x0c => some (.shl ⟨p, f.chain, f.guard, f.d, f.a, f.b⟩)
  | 0x0d => some (.shr ⟨p, f.chain, f.guard, f.d, f.a, f.b⟩)
  | 0x0e => some (.sra ⟨p, f.chain, f.guard, f.d, f.a, f.b⟩)
  | 0x0f => some (.rot ⟨p, f.chain, f.guard, f.d, f.a, f.b⟩)
  | 0x10 => buildIun p f
  | 0x11 => some (.bfx ⟨p, f.chain, f.guard, f.d, f.a, f.b⟩)
  | 0x12 => some (.bfi ⟨p, f.chain, f.guard, f.d, f.a, f.b⟩)
  | 0x13 => some (.sel ⟨p, f.chain, f.guard, f.d, f.a, f.b⟩)
  | 0x14 => some (.cmp ⟨p, f.chain, f.guard, f.d, f.a, f.b⟩)
  | 0x15 => some (.addsat ⟨p, f.chain, f.guard, f.d, f.a, f.b⟩)
  | 0x16 => some (.subsat ⟨p, f.chain, f.guard, f.d, f.a, f.b⟩)
  | 0x17 => some (.sad ⟨p, f.chain, f.guard, f.d, f.a, f.b⟩)
  | 0x18 => some (.movi ⟨p, f.chain, f.guard, f.d, f.a, f.b⟩)
  | 0x19 => some (.lsa ⟨p, f.chain, f.guard, f.d, f.a, f.b⟩)
  | 0x20 => some (.fadd ⟨p, f.chain, f.guard, f.d, f.a, f.b⟩)
  | 0x21 => some (.fsub ⟨p, f.chain, f.guard, f.d, f.a, f.b⟩)
  | 0x22 => some (.fmul ⟨p, f.chain, f.guard, f.d, f.a, f.b⟩)
  | 0x23 => some (.ffma ⟨p, f.chain, f.guard, f.d, f.a, f.b⟩)
  | 0x24 => some (.fmin ⟨p, f.chain, f.guard, f.d, f.a, f.b⟩)
  | 0x25 => some (.fmax ⟨p, f.chain, f.guard, f.d, f.a, f.b⟩)
  | 0x26 => some (.fminp ⟨p, f.chain, f.guard, f.d, f.a, f.b⟩)
  | 0x27 => some (.fmaxp ⟨p, f.chain, f.guard, f.d, f.a, f.b⟩)
  | 0x28 => some (.fcmp ⟨p, f.chain, f.guard, f.d, f.a, f.b⟩)
  | 0x29 => some (.fclass ⟨p, f.chain, f.guard, f.d, f.a⟩)
  | 0x2a => some (.fdiv ⟨p, f.chain, f.guard, f.d, f.a, f.b⟩)
  | 0x2b => some (.fsqrt ⟨p, f.chain, f.guard, f.d, f.a⟩)
  | 0x2c => some (.frcp ⟨p, f.chain, f.guard, f.d, f.a⟩)
  | 0x2d => some (.frsq ⟨p, f.chain, f.guard, f.d, f.a⟩)
  | 0x2e => some (.frint ⟨p, f.chain, f.guard, f.d, f.a⟩)
  | 0x2f => some (.fscale ⟨p, f.chain, f.guard, f.d, f.a, f.b⟩)
  | 0x30 => some (.cvt ⟨p, f.chain, f.guard, f.d, f.a, f.b⟩)
  | 0x31 => some (.cvti ⟨p, f.chain, f.guard, f.d, f.a, f.b⟩)
  | 0x32 => some (.cvtf ⟨p, f.chain, f.guard, f.d, f.a, f.b⟩)
  | 0x33 => some (.pk ⟨p, f.chain, f.guard, f.d, f.a, f.b⟩)
  | 0x34 => some (.upk ⟨p, f.chain, f.guard, f.d, f.a, f.b⟩)
  | 0x35 => some (.retag ⟨p, f.chain, f.guard, f.d, f.a, f.b⟩)
  | 0x36 => some (.fabs ⟨p, f.chain, f.guard, f.d, f.a⟩)
  | 0x37 => some (.fneg ⟨p, f.chain, f.guard, f.d, f.a⟩)
  | 0x38 => some (.fcpsgn ⟨p, f.chain, f.guard, f.d, f.a, f.b⟩)
  | 0x40 => buildSfn p f
  | 0x41 => some (.rred ⟨p, f.chain, f.guard, f.d, f.a⟩)
  | 0x42 => some (.swpp ⟨p, f.chain, f.guard, f.d, f.a, f.b⟩)
  | 0x43 => some (.shfl ⟨p, f.chain, f.guard, f.d, f.a, f.b⟩)
  | 0x44 => some (.rfal ⟨p, f.chain, f.guard, f.d, f.a⟩)
  | 0x45 => some (.bcast ⟨p, f.chain, f.guard, f.d, f.a, f.b⟩)
  | 0x46 => buildVote p f
  | 0x47 => some (.matchLanes ⟨p, f.chain, f.guard, f.d, f.a⟩)
  | 0x48 => buildRedl p f
  | 0x49 => some (.rmax ⟨p, f.chain, f.guard, f.d, f.a, f.b⟩)
  | 0x4a => some (.rsexp ⟨p, f.chain, f.guard, f.d, f.a, f.b⟩)
  | 0x4b => some (.rstat ⟨p, f.chain, f.guard, f.d, f.a, f.b⟩)
  | 0x4c => some (.smx ⟨p, f.chain, f.guard, f.d, f.a, f.b⟩)
  | 0x4d => some (.rnorm ⟨p, f.chain, f.guard, f.d, f.a, f.b⟩)
  | 0x50 => some (.sadd ⟨p, f.chain, f.d, f.a, f.b⟩)
  | 0x51 => some (.ssub ⟨p, f.chain, f.d, f.a, f.b⟩)
  | 0x52 => some (.smul ⟨p, f.chain, f.d, f.a, f.b⟩)
  | 0x53 => some (.smad ⟨p, f.chain, f.d, f.a, f.b⟩)
  | 0x54 => some (.sand ⟨p, f.chain, f.d, f.a, f.b⟩)
  | 0x55 => some (.sor ⟨p, f.chain, f.d, f.a, f.b⟩)
  | 0x56 => some (.sxor ⟨p, f.chain, f.d, f.a, f.b⟩)
  | 0x57 => some (.sshl ⟨p, f.chain, f.d, f.a, f.b⟩)
  | 0x58 => some (.sshr ⟨p, f.chain, f.d, f.a, f.b⟩)
  | 0x59 => some (.ssra ⟨p, f.chain, f.d, f.a, f.b⟩)
  | 0x5a => some (.smin ⟨p, f.chain, f.d, f.a, f.b⟩)
  | 0x5b => some (.smax ⟨p, f.chain, f.d, f.a, f.b⟩)
  | 0x5c => some (.scmp ⟨p, f.chain, f.d, f.a, f.b⟩)
  | 0x5d => some (.smov ⟨p, f.chain, f.d, f.a⟩)
  | 0x5e => some (.slsa ⟨p, f.chain, f.d, f.a, f.b⟩)
  | 0x5f => some (.sli ⟨p, f.chain, f.d, f.a, f.b⟩)
  | 0x60 => some (.bru p f.guard (offOf f))
  | 0x61 => some (.brd p f.guard (offOf f))
  | 0x62 => some (.jmp f.a)
  | 0x63 => some (.jmpx p f.guard f.a)
  | 0x64 => some (.call p f.guard (offOf f))
  | 0x65 => some .ret
  | 0x66 => some (.exit p f.guard)
  | 0x67 => some .yld
  | 0x68 => some (.ld ⟨p, f.guard, f.d, f.a, f.b.extractLsb' 3 4, f.b.extractLsb' 0 3⟩)
  | 0x69 => some (.st ⟨p, f.guard, f.d, f.a, f.b.extractLsb' 3 4, f.b.extractLsb' 0 3⟩)
  | 0x6a => some (.lds ⟨p, f.guard, f.d, f.a, f.b.extractLsb' 3 4, f.b.extractLsb' 0 3⟩)
  | 0x6b => some (.sts ⟨p, f.guard, f.d, f.a, f.b.extractLsb' 3 4, f.b.extractLsb' 0 3⟩)
  | 0x6c => some (.ldu ⟨p, f.d, f.a, f.b.extractLsb' 3 4, f.b.extractLsb' 0 3⟩)
  | 0x6d => some (.stu ⟨p, f.d, f.a, f.b.extractLsb' 3 4, f.b.extractLsb' 0 3⟩)
  | 0x6e => some (.pgreq p f.guard f.a)
  | 0x6f => buildRgn p f
  | 0x70 => buildAtm p f
  | 0x71 => some (.ctrb p f.guard f.d f.a f.b)
  | 0x72 => buildRed p f
  | 0x73 => some (.mst p f.d f.a f.b)
  | 0x74 => buildFence p f
  | 0x75 => some (.fencex p (f.b.extractLsb' 3 3) (f.b.extractLsb' 0 3) (f.d.extractLsb' 0 3) f.a)
  | 0x76 => some (.bar p (f.b.getLsbD 3) (f.b.extractLsb' 0 3) f.a)
  | 0x77 => some (.kill p f.guard)
  | 0x78 => some (.mmt p f.d f.a)
  | 0x79 => some (.tcon p f.d f.a)
  | 0x7a => buildAcc p f
  | 0x7b => buildCpy p f
  | 0x7c => buildWtg p f
  | 0x7d => buildEng p f
  | 0x7e => buildSys p f
  | _ => none

/-- R127: the 16-bit instruction of an op code. -/
def buildHalf (op : BitVec 4) (w : HalfW) : Instr :=
  match op.toNat with
  | 0 => .movC16 w
  | 1 => .addC16 w
  | 2 => .subC16 w
  | 3 => .mulC16 w
  | 4 => .andC16 w
  | 5 => .orC16 w
  | 6 => .xorC16 w
  | 7 => .shlC16 w
  | 8 => .shrC16 w
  | 9 => .faddC16 w
  | 10 => .fsubC16 w
  | 11 => .fmulC16 w
  | 12 => .fminC16 w
  | 13 => .fmaxC16 w
  | 14 => .fnegC16 w
  | _ => .sraC16 w

/-- R471, R472: the filter instruction of an op code, its fields not yet checked. -/
def buildFilter (w : Word) : Option Instr :=
  match (w.extractLsb' 0 6).toNat with
  | 0 => some .filterEnd
  | 1 => some (.filterAdd (w.extractLsb' 14 4) (w.extractLsb' 10 4) (w.extractLsb' 6 4))
  | 2 => some (.filterSub (w.extractLsb' 14 4) (w.extractLsb' 10 4) (w.extractLsb' 6 4))
  | 3 => some (.filterMul (w.extractLsb' 14 4) (w.extractLsb' 10 4) (w.extractLsb' 6 4))
  | 4 => some (.filterAnd (w.extractLsb' 14 4) (w.extractLsb' 10 4) (w.extractLsb' 6 4))
  | 5 => some (.filterOr (w.extractLsb' 14 4) (w.extractLsb' 10 4) (w.extractLsb' 6 4))
  | 6 => some (.filterXor (w.extractLsb' 14 4) (w.extractLsb' 10 4) (w.extractLsb' 6 4))
  | 7 => some (.filterShl (w.extractLsb' 14 4) (w.extractLsb' 10 4) (w.extractLsb' 6 4))
  | 8 => some (.filterShr (w.extractLsb' 14 4) (w.extractLsb' 10 4) (w.extractLsb' 6 4))
  | 9 => some (.filterMin (w.extractLsb' 14 4) (w.extractLsb' 10 4) (w.extractLsb' 6 4))
  | 10 => some (.filterMax (w.extractLsb' 14 4) (w.extractLsb' 10 4) (w.extractLsb' 6 4))
  | 11 => some (.filterClz (w.extractLsb' 10 4) (w.extractLsb' 6 4))
  | 12 => some (.filterAddi (w.extractLsb' 18 14) (w.extractLsb' 10 4) (w.extractLsb' 6 4))
  | 13 => some (.filterAndi (w.extractLsb' 18 14) (w.extractLsb' 10 4) (w.extractLsb' 6 4))
  | 14 => some (.filterShli (w.extractLsb' 18 6) (w.extractLsb' 10 4) (w.extractLsb' 6 4))
  | 15 => some (.filterShri (w.extractLsb' 18 6) (w.extractLsb' 10 4) (w.extractLsb' 6 4))
  | 16 => some (.filterMovi (w.extractLsb' 18 14) (w.extractLsb' 6 4))
  | 17 => some (.filterLdk (w.extractLsb' 18 4) (w.extractLsb' 6 4))
  | 18 => some (.filterLdst (w.extractLsb' 18 4) (w.extractLsb' 6 4))
  | 19 => some (.filterStst (w.extractLsb' 18 4) (w.extractLsb' 10 4))
  | 20 => some (.filterLbkt (w.extractLsb' 10 4) (w.extractLsb' 6 4))
  | 21 => some (.filterHadd (w.extractLsb' 18 4) (w.extractLsb' 14 4) (w.extractLsb' 10 4))
  | 22 => some (.filterKadd (w.extractLsb' 18 2) (w.extractLsb' 14 4) (w.extractLsb' 10 4))
  | 23 => some (.filterKest (w.extractLsb' 18 2) (w.extractLsb' 10 4) (w.extractLsb' 6 4))
  | 24 => some (.filterBeq (w.extractLsb' 18 7) (w.extractLsb' 14 4) (w.extractLsb' 10 4))
  | 25 => some (.filterBne (w.extractLsb' 18 7) (w.extractLsb' 14 4) (w.extractLsb' 10 4))
  | 26 => some (.filterBltu (w.extractLsb' 18 7) (w.extractLsb' 14 4) (w.extractLsb' 10 4))
  | 27 => some (.filterTrig (w.extractLsb' 18 2) (w.extractLsb' 10 4))
  | _ => none

/-- R146: the instruction of a prefixed word, if nothing in the word is left over and every field is legal. -/
def decodeWord (p : Pfx) (w : Word) : Option Instr :=
  match build p (unpackWord w) with
  | none => none
  | some i =>
    match view i with
    | .core q f u => if q = p ∧ f = unpackWord w ∧ u.legal q f = true then some i else none
    | .half _ _ => none
    | .filter _ => none
    | .event => none

/-- R127: the instruction of a halfword with bit 0 clear. -/
def decodeHalf (h : BitVec 16) : Instr := buildHalf (h.extractLsb' 1 4) ⟨h.extractLsb' 10 6, h.extractLsb' 5 5⟩

/-- R471: the instruction of a filter word. -/
def decodeFilter (w : Word) : Except Reject Instr :=
  match buildFilter w with
  | none => .error .badFilter
  | some i => if view i = .filter w then .ok i else .error .badFilter

/-- R119, R131: the instruction at the head of a stream of halfwords after the pfx words p, and the rest. -/
def decodeFrom (p : Pfx) : List (BitVec 16) → Except Reject (Instr × List (BitVec 16))
  | [] => .error (if p = .none then .truncated else .pfxTruncated)
  | h :: t =>
    if h.getLsbD 0 = false then
      if p ≠ .none then .error .pfxBeforeHalf
      else if h = 0 then .error .zeroHalfword
      else .ok (decodeHalf h, t)
    else
      match t with
      | [] => .error (if h.extractLsb' 1 7 = 0x7F#7 then .pfxTruncated else .truncated)
      | h2 :: t2 =>
        if h.extractLsb' 1 7 = 0x7F#7 then
          match addPfx p (h2 ++ h) with
          | none => .error .badPfx
          | some q => decodeFrom q t2
        else
          match decodeWord p (h2 ++ h) with
          | none => .error (.badWord (h.extractLsb' 1 7))
          | some i => .ok (i, t2)

/-- R119: the instruction at the head of a stream of halfwords, and the rest of the stream. -/
def decode (hs : List (BitVec 16)) : Except Reject (Instr × List (BitVec 16)) := decodeFrom .none hs

/-- R12: the halfwords of a byte stream, low byte first; an odd last byte is no halfword. -/
def halves : List Byte → List (BitVec 16)
  | [] => []
  | [_] => []
  | a :: b :: t => (b ++ a) :: halves t

/-- R119: decoding any bytes. -/
def decodeBytes (bs : List Byte) : Except Reject (Instr × List (BitVec 16)) := decode (halves bs)

/-! ## Encoding -/

/-- R129: an operand pfx word. -/
def packOperand (o : OperandPfx) : Word :=
  0#2 ++ o.x ++ BitVec.ofBool o.bs ++ o.c ++ BitVec.ofBool o.xb ++ BitVec.ofBool o.xa ++ BitVec.ofBool o.xd ++
    BitVec.ofBool o.gen ++ BitVec.ofBool o.gneg ++ o.gq ++ 0x7F#7 ++ 1#1

/-- R130: an immediate pfx word. -/
def packImmediate (v : BitVec 22) : Word := 1#2 ++ v ++ 0x7F#7 ++ 1#1

/-- R12: a word as two halfwords, the low one at the lower address. -/
def wordHalves (w : Word) : List (BitVec 16) := [w.extractLsb' 0 16, w.extractLsb' 16 16]

/-- The pfx words of a pfx. -/
def pfxHalves : Pfx → List (BitVec 16)
  | .none => []
  | .op o => wordHalves (packOperand o)
  | .imm v => wordHalves (packImmediate v)
  | .opImm o v => wordHalves (packOperand o) ++ wordHalves (packImmediate v)
  | .immOp v o => wordHalves (packImmediate v) ++ wordHalves (packOperand o)

/-- R127: a 16-bit instruction. -/
def packHalf (op : BitVec 4) (w : HalfW) : BitVec 16 := w.a ++ w.d ++ op ++ 0#1

/-- The halfwords of an instruction; a step of the device has none. -/
def encode (i : Instr) : List (BitVec 16) :=
  match view i with
  | .core p f _ => pfxHalves p ++ wordHalves (packWord f)
  | .half op w => [packHalf op w]
  | .filter w => wordHalves w
  | .event => []

/-- R132: how many halfwords an instruction holds. -/
def length (i : Instr) : Nat := (encode i).length

/-- The instruction the decoder reads from a table word of nbits bits: a halfword, a core word, or Lantern's filter
word where bit 0 is 0 or the word is no core word (R119, R471). [log DESIGN CHOICE 13] -/
def decodeTableWord (nbits w : Nat) : Option Instr :=
  if nbits ≤ 16 then
    match decode [BitVec.ofNat 16 w, 0, 0, 0, 0, 0] with
    | .ok (i, _) => some i
    | .error _ => none
  else
    match decode [BitVec.ofNat 16 w, BitVec.ofNat 16 (w / 65536), 0, 0, 0, 0] with
    | .ok (i, _) =>
      if w % 2 = 1 then some i
      else match decodeFilter (BitVec.ofNat 32 w) with
        | .ok j => some j
        | .error _ => none
    | .error _ =>
      match decodeFilter (BitVec.ofNat 32 w) with
      | .ok j => some j
      | .error _ => none

end Sys2Proof
end

