-- ==== Sys2Proof/Machine/Format.lean ====
section
/-! DEFINITION. Machine/Format.lean: the values of the number formats and their rounding (chapter "Number formats"),
over exact numbers. -/
namespace Sys2Proof.Machine

/-- The lst flags of R42 that floating-point operations raise: bit 0 NV, 1 DZ, 2 OF, 3 UF, 4 FM. -/
abbrev Flags := BitVec 5
/-- Invalid operation. -/
def flagNV : Flags := 1#5
/-- Division by zero. -/
def flagDZ : Flags := 2#5
/-- Overflow. -/
def flagOF : Flags := 4#5
/-- Underflow. -/
def flagUF : Flags := 8#5
/-- Masked format mismatch. -/
def flagFM : Flags := 16#5

/-- R82: the rounding modes. -/
inductive Rm where
  | rn | rz | rd | ru
  deriving DecidableEq, Repr

/-- R82: the rounding mode of a pfx code. -/
def rmOf (x : BitVec 6) : Rm :=
  if x == 1#6 then .rz else if x == 2#6 then .rd else if x == 3#6 then .ru else .rn

/-- R92: a decoded value. A finite one is (−1)^neg × (m + ε) × 2^e, with ε = 0, or 0 < ε < 1 when st is true. -/
inductive XVal where
  | nan
  | inf (neg : Bool)
  | fin (neg : Bool) (m : Nat) (e : Int) (st : Bool)
  deriving DecidableEq, Repr

/-- The zero of a sign. -/
def xzero (neg : Bool) : XVal := .fin neg 0 0 false

/-- The sign of a value; NaN counts as positive. -/
def XVal.neg : XVal → Bool
  | .nan => false
  | .inf n => n
  | .fin n _ _ _ => n

/-- The value is a zero. -/
def XVal.isZero : XVal → Bool
  | .nan => false
  | .inf _ => false
  | .fin _ m _ st => m == 0 && !st

/-- The value is a NaN. -/
def XVal.isNaN : XVal → Bool
  | .nan => true
  | .inf _ => false
  | .fin _ _ _ _ => false

/-- The value with its sign flipped. -/
def XVal.negate : XVal → XVal
  | .nan => .nan
  | .inf n => .inf (!n)
  | .fin n m e st => .fin (!n) m e st

/-- A floating-point element format (R72, R75, R76). -/
structure Flt where
  bits : Nat
  /-- Prec(f) -/
  prec : Nat
  bias : Nat
  signed : Bool
  b8 : Bool
  infs : Bool
  deriving DecidableEq, Repr

/-- FP32. -/
def fp32 : Flt := ⟨32, 24, 127, true, false, true⟩
/-- FP64. -/
def fp64 : Flt := ⟨64, 53, 1023, true, false, true⟩
/-- FP16. -/
def fp16 : Flt := ⟨16, 11, 15, true, false, true⟩
/-- BF16. -/
def bf16 : Flt := ⟨16, 8, 127, true, false, true⟩

/-- Base(t) of a tag of class FLT. -/
def fltOf (t : Tag) : Flt :=
  if t == 2#6 then fp32 else if t == 3#6 then fp64 else if t == 4#6 then fp16 else if t == 5#6 then bf16
  else
    let p := (t.extractLsb' 0 3).toNat
    if t.getLsbD 4 then ⟨8, p, 2 ^ (8 - p), false, true, !t.getLsbD 3⟩
    else ⟨8, p, 2 ^ (7 - p), true, true, !t.getLsbD 3⟩

/-- t: the width of the trailing field. -/
def Flt.tw (f : Flt) : Nat := f.prec - 1
/-- EMin(f). -/
def Flt.emin (f : Flt) : Int := 1 - (f.bias : Int)
/-- The bits below the sign. -/
def Flt.mag (f : Flt) : Nat := if f.signed then f.bits - 1 else f.bits

/-- The code of +∞ (IEEE, BF16 and the extended binary8 variants). -/
def Flt.infCode (f : Flt) : Nat :=
  if f.b8 then (if f.signed then 0x7F else 0xFE) else (2 ^ (f.mag - f.tw) - 1) * 2 ^ f.tw

/-- The code of the largest finite value. -/
def Flt.maxCode (f : Flt) : Nat :=
  if f.infs then f.infCode - 1 else if f.signed then 0x7F else 0xFE

/-- R72, R92: the canonical NaN. -/
def Flt.nanCode (f : Flt) : Nat :=
  if f.b8 then (if f.signed then 0x80 else 0xFF) else f.infCode + 2 ^ (f.tw - 1)

/-- A magnitude code with a sign. -/
def Flt.withSign (f : Flt) (neg : Bool) (c : Nat) : Nat := if neg && f.signed then c + 2 ^ (f.bits - 1) else c

/-- The code is a NaN. -/
def Flt.isNaN (f : Flt) (x : Nat) : Bool :=
  if f.b8 then x == f.nanCode else f.infCode < x % 2 ^ f.mag

/-- R73: the code is a signalling NaN. -/
def Flt.isSNaN (f : Flt) (x : Nat) : Bool :=
  !f.b8 && f.isNaN x && x / 2 ^ (f.tw - 1) % 2 == 0

/-- Decode(x, f) for a floating-point format. -/
def Flt.decode (f : Flt) (x : Nat) : XVal :=
  if f.isNaN x then .nan
  else
    let s := f.signed && x / 2 ^ (f.bits - 1) % 2 == 1
    let c := x % 2 ^ f.mag
    if f.infs && c == f.infCode then .inf s
    else
      let e := c / 2 ^ f.tw
      let m := c % 2 ^ f.tw
      if e = 0 then .fin s m (f.emin - f.tw) false
      else .fin s (2 ^ f.tw + m) ((e : Int) - f.bias - f.tw) false

/-- ZeroEnc(s, f): −0 only where the format has one. -/
def Flt.zeroEnc (f : Flt) (neg : Bool) : Nat := if f.b8 then 0 else f.withSign neg 0

/-- R84: InfResult. -/
def Flt.infResult (f : Flt) (neg : Bool) : Nat × Flags :=
  if neg && !f.signed then (f.nanCode, flagNV)
  else if f.infs then (f.withSign neg f.infCode, 0)
  else (f.withSign neg f.maxCode, flagOF)

/-- R84: OverflowEnc. -/
def Flt.overflowEnc (f : Flt) (neg : Bool) (rm : Rm) : Nat :=
  if !f.infs then f.withSign neg f.maxCode
  else
    match rm with
    | .rn => f.withSign neg f.infCode
    | .rz => f.withSign neg f.maxCode
    | .ru => if neg then f.withSign neg f.maxCode else f.infCode
    | .rd => if neg then f.withSign neg f.infCode else f.maxCode

/-- RoundToMultiple of a finite magnitude to 2^q: the multiple, and whether it differs from the value. -/
def roundTo (neg : Bool) (m : Nat) (e : Int) (st : Bool) (q : Int) (rm : Rm) : Nat × Bool :=
  if q ≤ e then
    -- below the last place only ε is left
    let M := m * 2 ^ (e - q).toNat
    let up := match rm with
      | .rn => false
      | .rz => false
      | .rd => neg && st
      | .ru => !neg && st
    (if up then M + 1 else M, st)
  else
    let sh := (q - e).toNat
    let M := m / 2 ^ sh
    let r := m % 2 ^ sh
    let h := 2 ^ (sh - 1)
    let inex := r != 0 || st
    let up := match rm with
      | .rn => h < r || (r == h && (st || M % 2 == 1))
      | .rz => false
      | .rd => neg && inex
      | .ru => !neg && inex
    (if up then M + 1 else M, inex)

/-- R83: Round(x, f, rm). -/
def Flt.round (f : Flt) (rm : Rm) (x : XVal) : Nat × Flags :=
  match x with
  | .nan => (f.nanCode, 0)
  | .inf neg => f.infResult neg
  | .fin neg m e st =>
    if m == 0 && !st then (f.zeroEnc neg, 0)
    else
      let l : Int := (Nat.log2 m : Int) + e
      let q := max l f.emin - (f.tw : Int)
      let (M, inex) := roundTo neg m e st q rm
      let F := if decide (l < f.emin) && inex then flagUF else 0
      let (M, q) := if M = 2 ^ f.prec then (2 ^ f.tw, q + 1) else (M, q)
      let code : Nat :=
        if M < 2 ^ f.tw then M else (q + f.tw + f.bias).toNat * 2 ^ f.tw + (M - 2 ^ f.tw)
      if !f.signed && neg && M != 0 then (f.nanCode, F ||| flagNV)
      else if f.maxCode < code then (f.overflowEnc neg rm, F ||| flagOF)
      else if code = 0 then (f.zeroEnc neg, F)
      else (f.withSign neg code, F)

/-- RoundNE(x, f). -/
def Flt.roundNE (f : Flt) (x : XVal) : Nat := (f.round .rn x).1

/-! ## Exact arithmetic (R85, R92) -/

/-- The value of an integer. -/
def xint (v : Int) : XVal := .fin (decide (v < 0)) v.natAbs 0 false

/-- A finite sum, exact. The operands carry no ε. -/
def addFin (n1 : Bool) (m1 : Nat) (e1 : Int) (n2 : Bool) (m2 : Nat) (e2 : Int) (rm : Rm) : XVal :=
  let e := min e1 e2
  let a : Int := (if n1 then -1 else 1) * ((m1 * 2 ^ (e1 - e).toNat : Nat) : Int)
  let b : Int := (if n2 then -1 else 1) * ((m2 * 2 ^ (e2 - e).toNat : Nat) : Int)
  let s := a + b
  if s = 0 then
    if m1 = 0 ∧ m2 = 0 ∧ n1 = n2 then xzero n1 else xzero (rm == .rd)
  else .fin (decide (s < 0)) s.natAbs e false

/-- x + y, with NV for ∞ − ∞. -/
def xadd (rm : Rm) (x y : XVal) : XVal × Flags :=
  match x, y with
  | .nan, _ => (.nan, 0)
  | _, .nan => (.nan, 0)
  | .inf a, .inf b => if a == b then (.inf a, 0) else (.nan, flagNV)
  | .inf a, _ => (.inf a, 0)
  | _, .inf b => (.inf b, 0)
  | .fin n1 m1 e1 _, .fin n2 m2 e2 _ => (addFin n1 m1 e1 n2 m2 e2 rm, 0)

/-- x × y, with NV for 0 × ∞. -/
def xmul (x y : XVal) : XVal × Flags :=
  match x, y with
  | .nan, _ => (.nan, 0)
  | _, .nan => (.nan, 0)
  | .inf a, .inf b => (.inf (a != b), 0)
  | .inf a, .fin n m _ _ => if m = 0 then (.nan, flagNV) else (.inf (a != n), 0)
  | .fin n m _ _, .inf b => if m = 0 then (.nan, flagNV) else (.inf (n != b), 0)
  | .fin n1 m1 e1 _, .fin n2 m2 e2 _ => (.fin (n1 != n2) (m1 * m2) (e1 + e2) false, 0)

/-- The bits of a quotient or root kept before ε: more than any precision needs. -/
def guardBits : Nat := 80

/-- A quotient of nonzero finite values, to guardBits bits and ε. -/
def divFin (neg : Bool) (m1 : Nat) (e1 : Int) (m2 : Nat) (e2 : Int) : XVal :=
  let k := guardBits + Nat.log2 m2 - Nat.log2 m1
  let n := m1 * 2 ^ k
  .fin neg (n / m2) (e1 - e2 - k) (n % m2 != 0)

/-- x ÷ y, with the flags of R86. -/
def xdiv (x y : XVal) : XVal × Flags :=
  match x, y with
  | .nan, _ => (.nan, 0)
  | _, .nan => (.nan, 0)
  | .inf _, .inf _ => (.nan, flagNV)
  | .inf a, .fin n _ _ _ => (.inf (a != n), 0)
  | .fin n _ _ _, .inf b => (xzero (n != b), 0)
  | .fin n1 m1 e1 _, .fin n2 m2 e2 _ =>
    if m2 = 0 then
      if m1 = 0 then (.nan, flagNV) else (.inf (n1 != n2), flagDZ)
    else if m1 = 0 then (xzero (n1 != n2), 0)
    else (divFin (n1 != n2) m1 e1 m2 e2, 0)

/-- One bit of the integer square root, from bit k down. -/
def isqrtGo (n : Nat) : Nat → Nat → Nat
  | 0, r => r
  | k + 1, r => isqrtGo n k (let c := r + 2 ^ k; if c * c ≤ n then c else r)

/-- The integer square root. -/
def isqrt (n : Nat) : Nat := isqrtGo n (Nat.log2 n / 2 + 1) 0

/-- The square root of a positive finite value, to guardBits bits and ε. -/
def sqrtFin (m : Nat) (e : Int) : XVal :=
  -- an even exponent and at least 2 × guardBits bits
  let k := 2 * guardBits + (if (e - 2 * guardBits) % 2 = 0 then 0 else 1)
  let n := m * 2 ^ k
  let r := isqrt n
  .fin false r ((e - k) / 2) (r * r != n)

/-- The reciprocal square root of a positive finite value, to guardBits bits and ε. -/
def rsqrtFin (m : Nat) (e : Int) : XVal :=
  let k : Nat := 2 * guardBits + Nat.log2 m + 2
  let k := if ((k : Int) + e) % 2 = 0 then k else k + 1
  let n := 2 ^ k
  let r := isqrt (n / m)
  .fin false r (-(((k : Int) + e) / 2)) (r * r * m != n)

/-- The order of two non-NaN values: less, by −∞ < finite < +∞; −0 below +0 when zeros is true. -/
def xlt (zeros : Bool) (x y : XVal) : Bool :=
  match x, y with
  | .nan, _ => false
  | _, .nan => false
  | .inf a, .inf b => a && !b
  | .inf a, .fin _ _ _ _ => a
  | .fin _ _ _ _, .inf b => !b
  | .fin n1 m1 e1 _, .fin n2 m2 e2 _ =>
    let e := min e1 e2
    let a : Int := (if n1 then -1 else 1) * ((m1 * 2 ^ (e1 - e).toNat : Nat) : Int)
    let b : Int := (if n2 then -1 else 1) * ((m2 * 2 ^ (e2 - e).toNat : Nat) : Int)
    decide (a < b) || (zeros && a == b && m1 == 0 && n1 && !n2)

/-- x = y over non-NaN values, with −0 = +0. -/
def xeq (x y : XVal) : Bool := !x.isNaN && !y.isNaN && !xlt false x y && !xlt false y x

/-! ## Integer formats (R79, R88, R190) -/

/-- The integer an element of width w holds. -/
def intOf (signed : Bool) (w : Nat) (x : Nat) : Int :=
  if signed && 2 ^ (w - 1) ≤ x then (x : Int) - 2 ^ w else x

/-- The bit pattern of an integer modulo 2^w. -/
def patOf (w : Nat) (v : Int) : Nat := (v % 2 ^ w).toNat

/-- R172: Clamp. -/
def clampInt (signed : Bool) (w : Nat) (v : Int) : Int :=
  if signed then max (-(2 ^ (w - 1))) (min v (2 ^ (w - 1) - 1)) else max 0 (min v (2 ^ w - 1))

/-- R88: ToInt, as a bit pattern of width w. -/
def toInt (signed : Bool) (w : Nat) (rm : Rm) (x : XVal) : Nat × Flags :=
  match x with
  | .nan => (0, flagNV)
  | .inf neg => (patOf w (clampInt signed w (if neg then -(2 ^ 64) else 2 ^ 64)), flagNV)
  | .fin neg m e st =>
    let M := (roundTo neg m e st 0 rm).1
    let y : Int := if neg then -(M : Int) else M
    let c := clampInt signed w y
    (patOf w c, if c = y then 0 else flagNV)

/-! ## Elements of a lane value (R29, R70) -/

/-- Elem: element e of a lane value under tag t; an FP64 value is its one element. -/
def elem (t : Tag) (x : Dword) (e : Nat) : Nat := x.toNat / 2 ^ (e * ewidth t) % 2 ^ ewidth t

/-- The lane value whose elements, element 0 first, are given. -/
def joinElems (w : Nat) : List Nat → Nat
  | [] => 0
  | x :: xs => x % 2 ^ w + 2 ^ w * joinElems w xs

/-- The value of an element of any tag, as R89 decodes it. -/
def decodeElem (t : Tag) (x : Nat) : XVal :=
  if isFlt t then (fltOf t).decode x else xint (intOf (isSigned t) (ewidth t) x)

end Sys2Proof.Machine
end

