-- ==== Sys2Proof/Config.lean ====
section
/-! DEFINITION. Config.lean: what one MV-B480 fixes (its constants) and the free values, which nothing
evaluates and no statement rests on. -/
namespace Sys2Proof.Config

/-- R149: capml, capability bits 63:0. -/
def capml : Dword := 0x0000_0000_0FFF_FFFF#64
/-- R149: capmh, capability bits 127:64. -/
def capmh : Dword := 0#64
/-- R4: cores per device. -/
def cores : Nat := 192
/-- R4: L2 slices per device. -/
def slices : Nat := 96
/-- R370: populated LP6 bytes on the MV-B480 (1,536 GB, decimal under R10). -/
def lp6Bytes : Nat := 1536000000000
/-- R20: group slots per core. -/
def groupSlots : Nat := 64
/-- R240: register blocks in a core's pool. -/
def poolBlocks : Nat := 256
/-- R356: fragment entries in a core pairing buffer. -/
def coreEntries : Nat := 256
/-- R291: engine-queue entries per team. -/
def queueEntries : Nat := 64

/-- R7: the value the device gives where the manual calls a value undefined, or where a choice is
timing-dependent under R3. No body: every statement holds for every value of it. [log DESIGN CHOICE 8] -/
opaque freeValue : Nat → Dword
/-- R7: as freeValue, where one draw serves several places: the draw, and the place. [log DESIGN CHOICE 8] -/
opaque freeAt : Nat → Nat → Dword
/-- R7: an undefined byte, by draw and offset (an undefined stage bank, R322, R321). [log DESIGN CHOICE 9] -/
opaque freeByte : Nat → Nat → Byte
/-- R500, R501: the SHAKE256 digest to 512 bits, an outside standard (FIPS 202) the manual names and does not
restate. [log DESIGN CHOICE 7] -/
opaque shake256 : List Byte → BitVec 512
/-- R500: whether an SLH-DSA-SHAKE-256s signature verifies a body under a key (FIPS 205), not restated by the manual.
[log DESIGN CHOICE 7] -/
opaque signatureGood : List Byte → List Byte → Bool
/-- R503: the SLH-DSA-SHAKE-256f signature the identity key gives over a report (FIPS 205), 49,856 bytes in the
manual. [log DESIGN CHOICE 7] -/
opaque reportSignature : List Byte → Nat → Byte
/-- R503: the identity public key, derived from a fused secret, 64 bytes. [log DESIGN CHOICE 7] -/
opaque identityKey : Nat → Byte
/-- R500: the fused minimum security version number of each of the four images. [log DESIGN CHOICE 7] -/
opaque fusedSvn : Nat → Nat
/-- R500: the fused digest of the verifying key. [log DESIGN CHOICE 7] -/
opaque fusedKeyDigest : BitVec 512
/-- R501: the fuse configuration whose digest m4 measures. [log DESIGN CHOICE 7] -/
opaque fuseConfig : List Byte

/-- R429: how many packets an output virtual channel of a port has credits for, beside the first; the manual does not
say. [log DESIGN CHOICE 129] -/
opaque moreCredits : Nat
/-- R412: what a core estimates, in µs, a save (false) or a discard (true) of a cluster costs, by device time, grid and team; the
manual calls the estimates timing-dependent. [log DESIGN CHOICE 86] -/
opaque leaveCost : Nat → Nat → Nat → Bool → Nat
/-- R441, R448: the accelerator ID that a lane group in UALink-standard binds; the manual gives it no place. [log DESIGN
CHOICE 130] -/
opaque acceleratorId : Nat → BitVec 14
/-- R441: the device number of a peer leaf is the accelerator ID of another accelerator of the pod, while a lane group is
in UALink-standard; the manual does not say how the two kinds of number are told apart. [log DESIGN CHOICE 130] -/
opaque podAccelerator : BitVec 14 → Bool

/-- R487: the detail byte of an error-queue entry; the manual gives it no contents. The argument names the event.
[log DESIGN CHOICE 10] -/
opaque errDetail : Nat → Byte
/-- R487: the kind-specific value of an error-queue entry; the manual gives it no contents. [log DESIGN CHOICE 10] -/
opaque errValue : Nat → Dword

end Sys2Proof.Config
end

