-- ==== Sys2Proof/Machine/State.lean ====
section
/-! DEFINITION. Machine/State.lean: everything the manual gives the MV-B480, as plain data; the reasons a step
can stop; and the state the device leaves reset in. -/
namespace Sys2Proof.Machine

/-- Why a step stops. -/
inductive Fault where
  /-- Raised by a meaning of a program instruction when no issuing split is named, or the named split is not live:
  no unit of the device is there to carry the instruction out. Safe: nothing is claimed of such a step. -/
  | noIssuer
  deriving DecidableEq, Repr

/-- Why an instruction has no meaning. -/
inductive Refusal where
  /-- The instruction is rejected by name; only arms of Dispatch answer it. Safe: no next state is claimed. -/
  | notModelled (mnemonic : String)
  deriving DecidableEq, Repr

/-! ## Lanes, splits and groups -/

/-- R25, R27: a vector register: its format tag and one word per lane. -/
structure VReg where
  tag : Tag
  lane : Lanes
  deriving DecidableEq, Repr

/-- R35: a bypass latch: the producing result's tag and value (hi is the odd half of an FP64 result, R28). -/
structure Latch where
  tag : Tag
  lo : Lanes
  hi : Lanes
  deriving DecidableEq, Repr

/-- R61, R238: the state of a split. -/
inductive SplitState where
  | free | ready | atRejoin | atBarrier | onEvent | onRegacq
  deriving DecidableEq, Repr

/-- R61: the architectural record of a split. -/
structure SplitRec where
  pc : Dword
  rejoin : Dword
  mask : Mask
  state : SplitState
  /-- link stack, entry 0 first; its length is the depth (R61, R230) -/
  link : List Dword
  deriving DecidableEq, Repr

/-- R322, R323: the FIFO access a split has issued and waits to make: when it issued, the banks it reaches (team and
bank), and whether it appends. -/
structure FifoWait where
  issued : Nat
  banks : List (Nat × Nat)
  push : Bool
  deriving DecidableEq, Repr

/-- A resident split: its record, its chain and latches (R36, R133), and what issue needs to know of it. -/
structure Split where
  arch : SplitRec
  /-- members of the current chain so far (R133); 0 outside a chain -/
  chain : Nat
  /-- b0 first: the last chain members' latches, none where a member produced no vector result (R36) -/
  latches : List (Option Latch)
  /-- cycle of the last issue, or none before the first (R403) -/
  lastIssue : Option Nat
  /-- device time of the last issue, or of becoming Ready if later (R406) -/
  since : Nat
  /-- the instruction a split in state 3, 4 or 5 waits in (the model's field) -/
  waitsIn : Option Instr
  /-- R236: a yielded split: the cycle it yielded in and the lanes whose splits must still issue -/
  yielded : Option (Nat × Mask)
  /-- it lost a port conflict at the slot's last opportunity (R405) -/
  lostPort : Bool
  /-- R403, R406: since when its next instruction has been waiting for what it needs, or its team has not been
  scheduled: its age stands still meanwhile -/
  idle : Option Nat
  fifo : Option FifoWait
  deriving DecidableEq, Repr

/-- R22, R61: a parked split record, with what its age, its wait and its yield need. -/
structure Parked where
  arch : SplitRec
  lastIssue : Option Nat
  since : Nat
  waitsIn : Option Instr
  yielded : Option (Nat × Mask)
  idle : Option Nat
  fifo : Option FifoWait
  deriving DecidableEq, Repr

/-- R101, R352: a fragment. -/
structure Frag where
  label : Dword
  fno : Nat
  absent : Bool
  nv : Bool
  of : Bool
  /-- R452: DUPLICATE and ORPHAN found on the way, and a format mismatch report (R272) -/
  dup : Bool
  orphan : Bool
  format : Bool
  op : BitVec 2
  tile : Bool
  fmt : Tag
  n : Nat
  part : Nat
  /-- 64 data bytes, byte 0 in bits 7:0 -/
  data : BitVec 512
  /-- host physical address of the descriptor at home; 0 on the way to another device -/
  pa : Nat
  /-- the home device, and the descriptor's window and offset there (R449); none at home -/
  remote : Option (BitVec 14 × BitVec 12 × BitVec 38)
  /-- R418: traffic class -/
  cls : Nat
  deriving DecidableEq, Repr

/-- R268: one entry of the region store buffer, in program order. -/
inductive RegionEntry where
  /-- bytes of a store at local host physical addresses, with the virtual line it was translated from, and its order
  (R253) -/
  | bytes (line : Nat) (gpa : Nat) (cells : List (Nat × Byte)) (ord : BitVec 4)
  /-- bytes of a remote store: line, peer device, window, offset, bytes, the lanes whose residency predicate its failure
  sets, and its order (R253) -/
  | remote (line : Nat) (dev : BitVec 14) (win : BitVec 12) (off : Nat) (data : List Byte) (lanes : Mask)
    (rq : BitVec 3) (ord : BitVec 4)
  /-- bytes of a store to a stage bank: team, bank and offset in the bank, and its order -/
  | stage (team bank off : Nat) (data : List Byte) (ord : BitVec 4)
  /-- the fragments of a ctrb or red.null, and the virtual line of its descriptor -/
  | node (line : Nat) (frags : List Frag)
  deriving DecidableEq, Repr

/-- R267: an open idempotent region. -/
structure Region where
  restart : Dword
  buf : List RegionEntry
  /-- R268: it is committing; what is left of the buffer has still to be performed -/
  closing : Bool
  deriving DecidableEq, Repr

/-- R263: a store's global completion tick on its way back to the group. -/
structure StoreTick where
  core : Nat
  gslot : Nat
  tick : Nat
  deriving DecidableEq, Repr

/-- A group (R24): its registers and its splits. -/
structure Group where
  core : Nat
  gslot : Nat
  gid : Nat
  team : Nat
  grpid : Nat
  v : Vector VReg 120
  /-- held extended blocks, bit k for block k (R25) -/
  held : BitVec 11
  xi : BitVec 7
  q : Vector Mask 8
  s : Vector Dword 64
  lst : Vector (BitVec 5) 32
  ctl : Dword
  /-- R47: the largest global completion tick returned to the group -/
  hz : Dword
  /-- R21: the four split-table entries -/
  splits : Vector Split 4
  /-- R22: parked records, the first parked first -/
  parked : List Parked
  /-- R405: false is "lower index" -/
  prio : Bool
  /-- R267: the region state -/
  region : Option Region
  /-- R408: cycle of the last rotation -/
  rotated : Nat
  deriving DecidableEq, Repr

/-! ## Teams, engines and grids -/

/-- R310: a guard slot. -/
structure GuardSlot where
  wmask : Dword
  faddr : Dword
  fval : Dword
  fcond : BitVec 2
  dtag : BitVec 6
  den : Bool
  issued : BitVec 32
  done : BitVec 32
  fcause : BitVec 8
  fcount : BitVec 32
  deriving DecidableEq, Repr

/-- R320, R324: a stage bank. An unlisted byte reads 0 when seed is none, and is undefined under R7 otherwise. -/
structure Bank where
  /-- physical bank of the core -/
  phys : Nat
  /-- 0 cache, 1 scratch, 2 FIFO: the mode the bank is in -/
  mode : BitVec 2
  /-- R322: the mode the table names while the bank drains, and the group slot and lanes of the split that waits for it
  -/
  target : Option (BitVec 2 × Nat × Mask)
  rd : Nat
  wr : Nat
  count : Nat
  seed : Option Nat
  cells : List (Nat × Byte)
  /-- R491: poisoned 8-byte words of the bank, by offset -/
  bad : List Nat
  deriving DecidableEq, Repr

/-- R50, R109, R110, R297: a bound accumulator. -/
structure Acc where
  num : Nat
  /-- R110: what instructions change at issue: c, folded, base, m and pair -/
  ctl : Dword
  /-- R297: the run format -/
  fmt : Tag
  /-- R110, R297: what commands leave as they complete, in the accumulator's order (R292): NV and OF of the control
  state, fault and the absent bits of the auxiliary state -/
  nv : Bool
  of : Bool
  fault : Bool
  absent : BitVec 16
  /-- word n of each element -/
  words : Vector (Vector Word 4096) 16
  deriving DecidableEq, Repr

/-- The engine commands (R291) with the s-register values read at issue. -/
inductive CmdOp where
  /-- accumulator, record addresses, s[a+2], k0, run format, and the count of blocks before this one -/
  | mmt (acc : Nat) (a b sel : Dword) (k0 : Nat) (run : Tag) (c : Nat)
  | tcon (acc : Nat) (a b sel : Dword) (k0 : Nat) (run : Tag) (c : Nat)
  | accZero (acc : Nat)
  /-- address, the header's auxiliary and control states -/
  | accLoad (acc : Nat) (addr : Dword) (ctl aux : Dword) (pair : Bool)
  /-- the control state and run format at issue -/
  | accStore (acc : Nat) (addr : Dword) (ctl : Dword) (fmt : Tag) (pair : Bool)
  | accFold (acc : Nat) (ctl : Dword) (fmt : Tag) (pair : Bool)
  /-- a fragment with the descriptor's header (R353) -/
  | accCtrb (acc : Nat) (desc : Frag) (ctl : Dword) (fmt : Tag) (pair : Bool)
  | cpy (kind : BitVec 3) (tag : Nat) (q0 q1 q2 q3 : Dword)
  | plan (addr : Dword)
  | launch (handle : Dword)
  | lnt (value : Dword)
  deriving DecidableEq, Repr

/-- How far a command has got (R292, R293). -/
inductive CmdPhase where
  | queued
  /-- started; it still needs remote data, room or a block under test -/
  | started
  /-- a copy moving element by element through a FIFO bank (R323) -/
  | streaming
  /-- a plan (R458), in a context once one is free -/
  | planning
  /-- work carried out; it completes when its remote accesses have been answered -/
  | worked
  deriving DecidableEq, Repr

/-- Where an element of an operand or a copy lies. -/
inductive ElemLoc where
  | mem (pa : Nat)
  | peer (dev : BitVec 14) (win : BitVec 12) (off : Nat)
  | stage (team bank off : Nat) (fifo : Bool)
  /-- it cannot be reached -/
  | bad
  deriving DecidableEq, Repr

/-- An element a copy has still to write (R307, R323). -/
structure Move where
  idx : Nat
  dst : ElemLoc
  /-- the half of the byte an o4 element takes: high or low -/
  half : Option Bool
  bytes : Nat
  /-- none while it is still in a FIFO bank -/
  val : Option Nat
  /-- its source could not be read -/
  skip : Bool
  deriving DecidableEq, Repr

/-- Bytes a command has fetched from a peer, none where the peer refused (R308). -/
structure Fetched where
  dev : BitVec 14
  win : BitVec 12
  off : Nat
  len : Nat
  data : Option (List Byte)
  deriving DecidableEq, Repr

/-- A command of a team's engine queue, or started and not complete. -/
structure Cmd where
  cid : Nat
  core : Nat
  gid : Nat
  team : Nat
  part : Nat
  op : CmdOp
  guard : Option Nat
  /-- the guard slot's completion tag at issue (R310) -/
  dtag : Option Nat
  phase : CmdPhase
  /-- the flag condition has been met (R310) -/
  flagMet : Bool
  /-- outstanding remote accesses -/
  remote : Nat
  fetched : List Fetched
  /-- FIFO elements still to take, in order, and elements still to write, in order -/
  takes : List (Nat × ElemLoc)
  moves : List Move
  /-- an o4 element waiting for its pair at a FIFO bank: team, bank, value (R308) -/
  low : List (Nat × Nat × Nat)
  /-- R314: the invocation record of a plan, as it was read when the command started -/
  record : List Byte
  /-- failure cause of R312; 0 none -/
  cause : Nat
  /-- cycle of issue (R467) -/
  issuedAt : Nat
  /-- R328: its place in the order in which commands have started -/
  order : Nat
  deriving DecidableEq, Repr

/-- R40, R41: a write to a w register on its way. -/
structure WWrite where
  reg : Nat
  value : Dword
  cycle : Nat
  gslot : Nat
  deriving DecidableEq, Repr

/-- R410 to R414: what a team is doing. -/
inductive TeamPhase where
  | running
  | draining
  | saving (mode : PreMode)
  | saved
  /-- R398: its grid has failed; it is kept for its started commands alone -/
  | removed
  deriving DecidableEq, Repr

/-- A team (R24, R399 to R402). A saved team's registers stand in memory (R413). -/
structure Team where
  gid : Nat
  team : Nat
  part : Nat
  core : Nat
  phase : TeamPhase
  w : Vector Dword 16
  wq : List WWrite
  g : Vector GuardSlot 8
  tagFirst : Nat
  tagCount : Nat
  /-- R52: outstanding copy tags, bit n for tag tn -/
  tags : Dword
  banks : List Bank
  accs : List Acc
  /-- R278: remote-failure count -/
  remoteFailures : Dword
  /-- R340: outstanding remote acknowledgements -/
  outstanding : Nat
  groups : Nat
  /-- context area index of the pool (R401) -/
  area : Nat
  placedAt : Nat
  sliceStart : Nat
  /-- R467: when its pre-emption was requested -/
  requestedAt : Nat
  /-- R499: stopped at sys.brk by this split entry of this group slot -/
  stopped : Option (Nat × Nat)
  /-- R406: of a saved team, by group and lanes of a split: the age it had, and the cycle of its last issue -/
  ages : List (Nat × Mask × Nat × Option Nat)
  deriving DecidableEq, Repr

/-- R392: a launch record. -/
structure LaunchRec where
  entry : Dword
  fmask : BitVec 128
  deps : List Dword
  teams : Nat
  lanes : Nat
  cw : Nat
  chh : Nat
  regs : Nat
  accs : Nat
  stg : Nat
  tags : Nat
  cls : Nat
  cores : Bool
  aft : Bool
  rmask : BitVec 5
  bound : Nat
  drh : Nat
  handler : Dword
  completion : Dword
  /-- R393: s registers and their values -/
  args : List (Nat × Dword)
  deriving DecidableEq, Repr

/-- R396, R398: where a launch stands. -/
inductive GridPhase where
  | pending
  | placing
  /-- its outcome stands; its completion word waits for its last accesses (R398) -/
  | ending
  | ended
  deriving DecidableEq, Repr

/-- An accepted launch. -/
structure Grid where
  gid : Nat
  part : Nat
  handle : Dword
  record : LaunchRec
  phase : GridPhase
  /-- next teamid to place -/
  nextTeam : Nat
  /-- teams ended -/
  endedTeams : Nat
  sticky : BitVec 5
  cfail : Bool
  outcome : BitVec 2
  cause : BitVec 8
  /-- handles eng.launch returned to this grid (R315, R316) -/
  children : List Dword
  /-- launched by eng.launch; its quota is then held (R399) -/
  fromDevice : Bool
  /-- its records wait for a guard (R315) -/
  held : Bool
  /-- R410, R412: the cores whose space is held back for it, until it is placed or restored -/
  rect : List Nat
  deriving DecidableEq, Repr

/-! ## Barriers -/

/-- R279: a scope instance: scope, then grid, cluster or team, and group. -/
structure BarInst where
  scope : BitVec 3
  gid : Nat
  unit : Nat
  grp : Nat
  deriving DecidableEq, Repr

/-- A unit that has arrived or a participant held (R279 to R281). -/
structure BarWaiter where
  gid : Nat
  team : Nat
  grpid : Nat
  /-- lowest lane of the split, or 32 when the participant does not wait -/
  lanes : Mask
  ao : Bool
  deriving DecidableEq, Repr

/-- R280: one barrier of an instance in its current generation. -/
structure Barrier where
  inst : BarInst
  id : Nat
  /-- specification of the generation, bits 63:0 of R279 -/
  spec : Dword
  /-- units counted, as numbers of the instance's units; a child barrier counts as 2^32 + its id -/
  arrived : List Nat
  waiting : List BarWaiter
  /-- children barriers held by this parent (R281) -/
  held : List BarWaiter
  /-- arrivals for the next generation, in order: the address after the `bar`, and its specification -/
  next : List (Dword × BarWaiter × Dword)
  deriving DecidableEq, Repr

/-! ## Reductions -/

/-- A pairing unit (R354). -/
inductive PairUnit where
  | core
  | slice (s : Nat)
  /-- the device's switch, which finds the slot (R450) -/
  | switch
  deriving DecidableEq, Repr

/-- A fragment on its way to a pairing unit. -/
structure InFlight where
  unit : PairUnit
  /-- the core it comes from -/
  core : Nat
  frag : Frag
  /-- R273: group slot and lanes of the split that contributed it, until it has entered a buffer or been dropped -/
  owner : Option (Nat × Mask)
  deriving DecidableEq, Repr

/-- A fragment held in a core pairing buffer (R356, R357). -/
structure CoreHeld where
  core : Nat
  frag : Frag
  entered : Nat
  deriving DecidableEq, Repr

/-- A fragment held in a home slice's entries (R358). -/
structure SliceHeld where
  slice : Nat
  frag : Frag
  deriving DecidableEq, Repr

/-- A fragment the home slice refused, kept by its core, or by the link it came on (core 192) with the packet still
to acknowledge (R363, R366, R452). -/
structure Refused where
  core : Nat
  frag : Frag
  since : Nat
  reply : Option Packet
  /-- R273: group slot and lanes of the split that stalls for it -/
  owner : Option (Nat × Mask)
  deriving DecidableEq, Repr

/-- R364: one presence-filter counter that is not zero. -/
structure FilterCount where
  part : Nat
  slice : Nat
  idx : Nat
  count : Nat
  deriving DecidableEq, Repr

/-- R362, R363: a valid bivouac slot: its partition, slice and address, and what it holds. -/
structure Spilled where
  part : Nat
  slice : Nat
  addr : Nat
  label : Dword
  fno : Nat
  deriving DecidableEq, Repr

/-- R452: DUPLICATE and ORPHAN that the next fragment of a key carries home. -/
structure Carried where
  key : SlotKey
  dup : Bool
  orphan : Bool
  deriving DecidableEq, Repr

/-- R528: a descriptor read that has come back to a split, none where it failed. -/
structure DescRead where
  core : Nat
  gslot : Nat
  /-- the lanes of the split, resident or parked, that waits for it -/
  lanes : Mask
  data : Option (List Byte)
  /-- R379: where its translation led: device, window and offset -/
  dev : BitVec 14
  win : BitVec 12
  off : Nat
  deriving DecidableEq, Repr

/-- R271, R380: an open reduction: its id and the addresses red.init translated. -/
structure RedOpen where
  id : BitVec 24
  part : Nat
  descPa : Nat
  /-- host physical address of each 256 B line of dest, in order (one entry, the address itself, when tile = 0) -/
  dest : List Nat
  /-- root fragments formed (R359) -/
  roots : List Frag
  /-- R368: one contribution has been found to overlap another -/
  overlap : Bool
  /-- R270: bytes 0x00 to 0x2F as they stood at red.init and as the device has changed them, in 8-byte words, and
  whether software has written them since -/
  image : List Dword
  written : Bool
  /-- the id may not be assigned before this time (R360), once closed -/
  closedAt : Option Nat
  deriving DecidableEq, Repr

/-- A red.init on its way to its home slice (R271). -/
structure RedInitReq where
  part : Nat
  descPa : Nat
  dest : List Nat
  gid : Nat
  deriving DecidableEq, Repr

/-! ## The fabric -/

/-- R432, R433: the sending end of an ordered channel. -/
structure ChanOut where
  dev : BitVec 14
  tclass : BitVec 2
  next : BitVec 32
  /-- copies kept until SEQA covers them, with the time sent -/
  kept : List (Packet × Nat)
  /-- R434: sequence numbers SKIP names, with the time it was last sent -/
  skips : List (BitVec 32 × Nat)
  deriving DecidableEq, Repr

/-- R432: the receiving end of an ordered channel. -/
structure ChanIn where
  dev : BitVec 14
  tclass : BitVec 2
  expect : BitVec 32
  early : List Packet
  /-- R434: sequence numbers a SKIP named -/
  skipped : List (BitVec 32)
  /-- packets performed since the last SEQA, and its time (R433) -/
  unacked : Nat
  lastSeqa : Nat
  deriving DecidableEq, Repr

/-- What a request of this device is for (R428, R434). -/
inductive ReqKind where
  /-- a remote load: group, entry, destination register, lane, byte width, tag, residency predicate -/
  | load (core gslot : Nat) (reg : Nat) (lane : Nat) (bytes : Nat) (tag : Tag) (rq : BitVec 3)
  /-- a remote scalar load -/
  | loadS (core gslot : Nat) (reg : Nat) (bytes : Nat) (mask : Mask) (rq : BitVec 3)
  /-- a drained line of stores: the lanes that stored, by group, and their residency predicates -/
  | store (gid team : Nat) (lanes : List (Mask × Nat × Nat × BitVec 3))
  /-- a remote atomic -/
  | atomic (core gslot : Nat) (gid team : Nat) (reg : Option Nat) (lane : Nat) (bytes : Nat) (tag : Tag) (rq : BitVec 3)
  /-- a multicast line, of the flight with this tag -/
  | multicast (flight : BitVec 32)
  /-- a fragment -/
  | frag
  /-- a plan token, with the time it was first sent, and whether the receiver has refused it (R463) -/
  | token (ctx op : Nat) (started : Nat) (refused : Bool)
  /-- an access of an engine command: a read or a write -/
  | cmd (cid : Nat) (read : Bool)
  /-- a descriptor read at issue (R528): the waiting split's group slot and lanes -/
  | desc (core gslot : Nat) (lanes : Mask)
  deriving DecidableEq, Repr

/-- An outstanding request. -/
structure Req where
  tag : BitVec 32
  kind : ReqKind
  dev : BitVec 14
  tclass : BitVec 2
  seq : BitVec 32
  sentAt : Nat
  packet : Packet
  /-- R445: the lane group in UALink-standard it has left by -/
  via : Option Nat
  deriving DecidableEq, Repr

/-- R339: a line of a core's remote write-combining buffer. -/
structure RwcLine where
  core : Nat
  gid : Nat
  team : Nat
  dev : BitVec 14
  win : BitVec 12
  line : Nat
  /-- byte in the line, value -/
  cells : List (Nat × Byte)
  /-- each store held: its lanes, group slot, grpid and residency predicate -/
  lanes : List (Mask × Nat × Nat × BitVec 3)
  age : Nat
  entered : Nat
  part : Nat
  cls : Nat
  deriving DecidableEq, Repr

/-- R436: the state of a link. -/
inductive LinkState where
  | up | replay | retrain | down
  deriving DecidableEq, Repr

/-- R429: credits in use on an output virtual channel of a port, by message class and rank. -/
structure VChan where
  mclass : BitVec 2
  rank : BitVec 3
  used : Nat
  deriving DecidableEq, Repr

/-- A Fallos port: 0–31 local, 32–47 optical (R467). -/
structure Port where
  state : LinkState
  /-- times of its replays, the latest last (R436) -/
  replays : List Nat
  attempts : Nat
  /-- R436, R431: the port is in routing -/
  routing : Bool
  upSince : Nat
  /-- packets whose flits the retry buffer holds, as they came to the switch and as they were sent (R437) -/
  retry : List (Packet × Packet)
  /-- R436: when the attempt to train that goes on began -/
  trainFrom : Nat
  vcs : List VChan
  /-- R418: when the link has sent what it has taken; the class-0 packets of the last µs, time and bytes; and whether the
  last packet of class 1 was a class-0 one carried as class 1 -/
  busyTill : Nat
  spent : List (Nat × Nat)
  turn1 : Bool
  deriving DecidableEq, Repr

/-- R439: a lane group. -/
structure LaneGroup where
  pers : BitVec 3
  mode : BitVec 2
  slot : BitVec 3
  cur : BitVec 3
  state : BitVec 3
  cause : BitVec 4
  lanes : BitVec 8
  cap : BitVec 13
  stateSince : Nat
  /-- R444: bits 7:0 of lgctl as they stood at go, or at boot: the target of a change, and the form in effect -/
  tgt : BitVec 8
  /-- R439: it moves with the other lane group of its pair -/
  paired : Bool
  /-- the slot whose CXL memory is in the map, with its capacity in 256 MiB units (R447); it stays recorded while the
  lane group leaves the slot -/
  mapped : Option (BitVec 3 × BitVec 13)
  /-- R441: in UALink-standard, packets it has sent whose flits have not been acknowledged -/
  sent : List Packet
  deriving DecidableEq, Repr

/-- R449, R450: a switch reduction slot in use. -/
structure SwitchSlot where
  idx : Nat
  key : SlotKey
  part : Nat
  pool : Bool
  frags : List Frag
  last : Nat
  deriving DecidableEq, Repr

/-- R454, R455: a loaded multicast group. -/
structure McGroup where
  group : Nat
  part : Nat
  size : Nat
  record : Nat
  members : List (BitVec 14 × BitVec 12)
  deriving DecidableEq, Repr

/-- R456: an mst whose receipts are being gathered: at the source, or at a replicating switch (reply set). -/
structure McFlight where
  group : Nat
  /-- byte offset of the line in the members' windows -/
  off : Nat
  gid : Nat
  team : Nat
  tag : BitVec 32
  /-- the request to answer with MACK, when this device replicates -/
  reply : Option Packet
  pending : List Nat
  causes : List (Nat × BitVec 4)
  sentAt : Nat
  deriving DecidableEq, Repr

/-- R419: the injection rate of a partition towards a destination group, in 64ths of the link rate. -/
structure Rate where
  part : Nat
  group : Nat
  rate : Nat
  marked : Nat
  /-- the next packet may be injected from this time on -/
  nextAt : Nat
  deriving DecidableEq, Repr

/-! ## Plans -/

/-- R459: a plan operation. -/
structure PlanOp where
  kind : Nat
  inputs : List (BitVec 16)
  sb : Nat
  db : Nat
  len : Nat
  soff : Dword
  doff : Dword
  aux : Dword
  deriving DecidableEq, Repr

/-- R458 to R464: a plan context. -/
structure PlanCtx where
  idx : Nat
  /-- graph the context holds, with its generation word -/
  graph : Dword
  gen : Dword
  ops : List PlanOp
  ptag : BitVec 16
  timeout : Nat
  /-- the running command, none while the context is free -/
  cid : Option Nat
  part : Nat
  gid : Nat
  core : Nat
  bases : List Dword
  statusAddr : Dword
  inv : BitVec 8
  started : Nat
  fired : List Nat
  /-- fired operations whose access still waits: for remote data, a block under test, a descriptor's state -/
  waiting : List Nat
  finished : List Nat
  tokens : List (BitVec 12)
  status : Nat
  deriving DecidableEq, Repr

/-- R443, R460: a message handed to the Ultra Ethernet transport and not yet acknowledged: the operation that sent it,
its lane group, the peer entry's 32 bytes, and an RMA write's offset and data, or a tagged send's word. -/
structure UeMsg where
  ctx : Nat
  op : Nat
  lg : Nat
  peer : List Byte
  tagged : Bool
  off : Dword
  data : List Byte
  deriving DecidableEq, Repr

/-- R462: a token in the matching store. -/
structure StoredToken where
  part : Nat
  ptag : BitVec 16
  inv : BitVec 8
  token : BitVec 12
  deriving DecidableEq, Repr

/-- R462: the invocation number the next invocation of a plan tag receives. -/
structure InvCount where
  part : Nat
  ptag : BitVec 16
  inv : BitVec 8
  deriving DecidableEq, Repr

/-! ## Lantern -/

/-- R470, R472: a filter. -/
structure LnFilter where
  idx : Nat
  owner : Nat
  hist : List (BitVec 8)
  sketch : List (BitVec 8)
  trigs : List (BitVec 8)
  consts : List Dword
  code : List Instr
  words : List Dword
  skips : Dword
  deriving DecidableEq, Repr

/-- R474: an attachment. -/
structure LnAttach where
  idx : Nat
  owner : Nat
  filter : Nat
  lo : Nat
  hi : Nat
  step : Nat
  value : BitVec 10
  mask : BitVec 10
  trace : Option Nat
  deriving DecidableEq, Repr

/-- R478: a trigger. -/
structure LnTrigger where
  idx : Nat
  owner : Nat
  actions : BitVec 3
  trace : Option Nat
  hold : Nat
  armed : Bool
  firedAt : Nat
  deriving DecidableEq, Repr

/-- R479: a trace record. -/
structure TraceRec where
  time : Dword
  e2 : Dword
  payload : Dword
  value : Dword
  deriving DecidableEq, Repr

/-- R479: a trace buffer; the newest record last. -/
structure LnTrace where
  idx : Nat
  frozen : Bool
  next : Nat
  recs : List (Nat × TraceRec)
  deriving DecidableEq, Repr

/-- R478: an event-ring entry. -/
structure RingEntry where
  time : Dword
  e2 : Dword
  value : Dword
  trig : Dword
  deriving DecidableEq, Repr

/-- R477, R478, R481: what Lantern holds for an owner. -/
structure LnOwner where
  bucket : Nat
  skipped : Dword
  dropped : Dword
  executed : Dword
  overruns : Dword
  ringNext : Nat
  ring : List (Nat × RingEntry)
  area : Nat
  interval : Nat
  lastPub : Nat
  seqw : Dword
  deriving DecidableEq, Repr

/-- R475, R476: an invocation in progress. -/
structure LnRun where
  filter : Nat
  owner : Nat
  ev : TapEv
  pc : Nat
  e : Vector Dword 16
  executed : Nat
  deriving DecidableEq, Repr

/-- The Lantern coprocessor (chapter 16). A counter that is not listed is zero. -/
structure Lantern where
  filters : List LnFilter
  attaches : List LnAttach
  /-- histogram, counter, value -/
  hist : List (Nat × Nat × Dword)
  /-- sketch, counter 1,024 row + column, value -/
  sketch : List (Nat × Nat × Word)
  /-- sketch, its four seed words -/
  seeds : List (Nat × List Dword)
  trigs : List LnTrigger
  traces : List LnTrace
  owners : Vector LnOwner 13
  /-- tap queues, oldest first, by source number (R466, R468) -/
  taps : List TapEv
  /-- the invocations of an admitted event still to run, then the one running -/
  todo : List (Nat × TapEv)
  run : Option LnRun
  /-- the µs of device time up to which the buckets have been refilled (R477) -/
  refilled : Nat
  deriving DecidableEq, Repr

/-! ## Registers of privileged software (R484 to R486) -/

/-- The partition control block (R485), every register 64 bits wide. -/
structure PartRegs where
  pctl : Dword
  ftid : Dword
  slent : Dword
  swres : Dword
  pslot : Dword
  pblk : Dword
  pbank : Dword
  pacc : Dword
  pctag : Dword
  ppair : Dword
  pclass : Dword
  dlquota : Dword
  tslice : Dword
  ctxbase : Dword
  ctxcfg : Dword
  ptroot : Dword
  s2cfg : Dword
  ccm : Dword
  rqbase : Dword
  rqcfg : Dword
  rqepoch : Dword
  tinva : Dword
  tinvc : Dword
  rwcctl : Dword
  bvbase : Dword
  bvcfg : Dword
  iwtab : Dword
  uetab : Dword
  lnresa : Dword
  lnresb : Dword
  lncmd : Dword
  eqbase : Dword
  eqcfg : Dword
  dbgsta : Dword
  dbgctl : Dword
  deriving DecidableEq, Repr

/-- The device registers of R485 that are not tables of their own. -/
structure DevRegs where
  hlth : Dword
  lp6size : Dword
  shedord : Dword
  shedcfg : Dword
  swto : Dword
  mcctl : Dword
  mcbase : Dword
  lnresa : Dword
  lnresb : Dword
  lncmd : Dword
  deqbase : Dword
  deqcfg : Dword
  chrst : Dword
  attctl : Dword
  attn : Vector Dword 4
  deriving DecidableEq, Repr

/-- The window of a virtual function (R397, R485, R486), with vfmap. -/
structure VfRegs where
  vfmap : Dword
  lqbase : Dword
  lqcfg : Dword
  lqwr : Dword
  lqrd : Dword
  vfint : Dword
  /-- R397: the queue has been disabled by a bad wr -/
  off : Bool
  /-- R394: a record on a non-resident page was met at this time -/
  retryAt : Option Nat
  deriving DecidableEq, Repr

/-- R496: a block's status where it is not all zero, with its self-test (R489). -/
structure Block where
  num : Nat
  state : BitVec 2
  res : BitVec 8
  ce : BitVec 32
  ue : BitVec 16
  /-- the test has been restarted once -/
  retested : Bool
  deriving DecidableEq, Repr

/-- R498: a power block. -/
structure Power where
  mhz : Nat
  milliwatts : Nat
  celsius : Nat
  /-- R409: when the clock went below 0.5 GHz, 0 while it is not below -/
  slowSince : Nat
  deriving DecidableEq, Repr

/-- R500 to R503, R526: boot, root of trust and measurements. -/
structure Trust where
  images : List FwImage
  m : Vector (BitVec 512) 5
  recovery : Bool
  /-- R526: boot personality table: pers in bits 2:0, mode in 4:3, slot in 7:5 -/
  bootTable : Vector Byte 20
  /-- what the last management access returned -/
  reply : Dword
  /-- R498: the last reset was the device's own, for a junction at 115 °C -/
  overtemp : Bool
  /-- R503: security version numbers of the images the boot accepted -/
  svns : Vector Nat 4
  deriving DecidableEq, Repr

/-- R399 to R421: what the scheduler holds for a partition. -/
structure PartSched where
  /-- partition is slowed, paused or evicted by shedding (R421) -/
  slowed : Bool
  paused : Bool
  /-- when the pause began (R421) -/
  pausedAt : Nat
  evicted : Bool
  /-- R421: the cycle in which a command of the slowed partition last started -/
  startedAt : Option Nat
  /-- next host-independent handle of eng.launch (R315) -/
  nextHandle : Nat
  /-- stops of further teams held in arrival order (R499): grid, team, core, gslot -/
  stops : List (Nat × Nat × Nat × Nat)
  /-- R385: invalidations, tinvc and tinva as they were written, the running one first -/
  tinv : List (Dword × Dword)
  deriving DecidableEq, Repr

/-- R240: a waiting request for a register block, in order; its split, resident or parked, is known by its lanes. -/
structure RegWait where
  core : Nat
  gslot : Nat
  lanes : Mask
  block : Nat
  /-- cycle of the request: requests of one cycle go lower group slot first -/
  cycle : Nat
  deriving DecidableEq, Repr

/-- A translation a TLB holds, for the first byte of the range it covers (R372, R376): a local page, with its size, or a
peer leaf. -/
inductive Cached where
  | page (gpa pa : Nat) (w x nr : Bool) (size : Nat)
  | peer (dev : BitVec 14) (win : BitVec 12) (off : Nat) (w nr : Bool) (size : Nat)
  deriving DecidableEq, Repr

/-- R378, R383: an entry of a TLB: unit n is the TLB of core n, unit 192 + n the walk-ahead TLB of its copy engine. -/
structure TlbEntry where
  unit : Nat
  part : Nat
  base : Nat
  size : Nat
  out : Cached
  deriving DecidableEq, Repr

/-- R288, R325: an operand tile a core's operand cache may serve. -/
structure OpTile where
  core : Nat
  part : Nat
  addr : Dword
  gen : BitVec 16
  row : Nat
  k0 : Nat
  /-- how many rows and K indices it holds -/
  rows : Nat
  nk : Nat
  /-- the values the tile was fetched with, element by element: encoding and element scale exponents or zero point -/
  vals : List (Option (Dword × Dword))
  deriving DecidableEq, Repr

/-! ## The whole device -/

/-- A split, by core, group slot and split-table entry. -/
structure Issuer where
  core : Nat
  gslot : Nat
  entry : Nat
  deriving DecidableEq, Repr

/-- The instruction being carried out: its split, the address of its first word and the address after it. -/
structure Cur where
  who : Issuer
  pcf : Dword
  next : Dword
  deriving DecidableEq, Repr

/-- The MV-B480. -/
structure State where
  /-- R13: device time in 1 ns ticks -/
  time : Dword
  /-- the second half of the tick: cycles are 0.5 ns (R13) -/
  half : Bool
  /-- R242: core clock cycles since device reset -/
  clk : Dword
  /-- the model's order of work: events that take place next, the splits that issue next, the issue slot whose
  opportunity comes next, the instruction being carried out, and the count of free values drawn -/
  agenda : List Instr
  turn : List Issuer
  cursor : Nat
  cur : Option Cur
  freeCtr : Nat
  /-- R370: host physical memory; an unlisted byte reads 0 (R506) -/
  mem : List Host.Cell
  /-- R491: poisoned 8-byte words, and retired 4 KiB frames (R493) -/
  poison : List Nat
  retired : List Nat
  /-- R491: poisoned words whose first read has been recorded -/
  reported : List Nat
  /-- R44: devid -/
  devid : BitVec 14
  groups : List Group
  teams : List Team
  grids : List Grid
  cmds : List Cmd
  nextCid : Nat
  barriers : List Barrier
  ticks : List StoreTick
  regWaits : List RegWait
  opCache : List OpTile
  /-- R378, R383: what the TLBs of the cores and copy engines hold -/
  tlb : List TlbEntry
  redReqs : List RedInitReq
  flights : List InFlight
  coreHeld : List CoreHeld
  sliceHeld : List SliceHeld
  refused : List Refused
  filters : List FilterCount
  reds : List RedOpen
  spills : List Spilled
  carried : List Carried
  descs : List DescRead
  outbox : List Packet
  chansOut : List ChanOut
  chansIn : List ChanIn
  reqs : List Req
  nextTag : BitVec 32
  rwc : List RwcLine
  ports : Vector Port 48
  lgs : Vector LaneGroup 20
  ltab : Vector Dword 32
  gtab : Vector Dword 512
  slots : List SwitchSlot
  /-- R451: keys refused a slot, with the time of their last fragment, and the fairness bit -/
  passing : List (SlotKey × Nat)
  fairness : Bool
  mcGroups : List McGroup
  mcFlights : List McFlight
  rates : List Rate
  plans : List PlanCtx
  ueOut : List UeMsg
  tokens : List StoredToken
  invs : List InvCount
  lantern : Lantern
  parts : Vector PartRegs 12
  sched : Vector PartSched 12
  dev : DevRegs
  vfs : Vector VfRegs 256
  blocks : List Block
  power : Vector Power 32
  trust : Trust
  /-- R420: steps of the shedding order taken, and the time of the last step -/
  shed : Nat
  shedAt : Nat
  /-- R488: MSI-X vectors raised, newest last: virtual function (256 for the physical function) and vector -/
  msix : List (Nat × Nat)
  deriving DecidableEq, Repr

/-! ## Reset -/

/-- R485, R486: a partition control block at reset. -/
def PartRegs.reset : PartRegs where
  pctl := 0
  ftid := 0
  slent := 0
  swres := 0
  pslot := 0
  pblk := 0
  pbank := 0
  pacc := 0
  pctag := 0
  ppair := 0
  pclass := 3#64
  dlquota := 0
  tslice := 0
  ctxbase := 0
  ctxcfg := 0
  ptroot := 0
  s2cfg := 0
  ccm := 0xFFFF_FFFF#64
  rqbase := 0
  rqcfg := 0
  rqepoch := 0
  tinva := 0
  tinvc := 0
  rwcctl := 3#64
  bvbase := 0
  bvcfg := 0
  iwtab := 0
  uetab := 0
  lnresa := 0
  lnresb := 0
  lncmd := 0
  eqbase := 0
  eqcfg := 0
  dbgsta := 0
  dbgctl := 0

/-- R485, R486: the device registers at reset. -/
def DevRegs.reset : DevRegs where
  hlth := 0
  lp6size := BitVec.ofNat 64 Config.lp6Bytes
  shedord := 0
  shedcfg := 2800#64
  swto := 50#64
  mcctl := 0
  mcbase := 0
  lnresa := 0
  lnresb := 0
  lncmd := 0
  deqbase := 0
  deqcfg := 0
  chrst := 0
  attctl := 0
  attn := Vector.replicate 4 0

/-- R397, R486: a virtual function's window at reset. -/
def VfRegs.reset : VfRegs := ⟨0, 0, 0, 0, 0, 0, false, none⟩

/-- What the scheduler holds for a partition at reset. -/
def PartSched.reset : PartSched := ⟨false, false, 0, false, none, 0, [], []⟩

/-- Lantern's part of an owner at reset. -/
def LnOwner.reset : LnOwner := ⟨0, 0, 0, 0, 0, 0, [], 0, 0, 0, 0⟩

/-- Lantern at reset (R480). -/
def Lantern.reset : Lantern :=
  ⟨[], [], [], [], [], [], [], Vector.replicate 13 LnOwner.reset, [], [], none, 0⟩

/-- R526: the boot personality table as the MV-B480 ships: lane group 0 the CXL host in mode 0, the others Off. -/
def Trust.bootDefault : Vector Byte 20 := (Vector.replicate 20 0).set 0 3

/-- R526: a lane group after boot, its entry's personality trained on all eight lanes. -/
def LaneGroup.boot (e : Byte) : LaneGroup :=
  ⟨e.extractLsb' 0 3, e.extractLsb' 3 2, e.extractLsb' 5 3, e.extractLsb' 0 3, 0, 0,
    if e.extractLsb' 0 3 = 0 then 0 else 0xFF, 0, 0, e,
    e.extractLsb' 0 4 == 12#4 || e.extractLsb' 0 4 == 11#4, none, []⟩

/-- R436: a port with a trained link, in routing. [log DESIGN CHOICE 5] -/
def Port.up : Port := ⟨.up, [], 0, true, 0, [], 0, [], 0, [], false⟩

/-- R424: a local port without a lane group: no link, out of routing. [log DESIGN CHOICE 5] -/
def Port.absent : Port := ⟨.down, [], 0, false, 0, [], 0, [], 0, [], false⟩

/-- R424: the lane groups that provide local ports, in order: those in Fallos-local, then the others that may take
it. [log DEDUCED 6] -/
def portGroups (locals : List Nat) : List Nat :=
  locals ++ ((List.range 18).map (· + 2)).filter fun n => !locals.contains n

/-- R424: ltab at reset for member m of a device whose Fallos-local lane groups are given. A port beyond theirs is named
by a lane group that would provide it. [log DEDUCED 6] -/
def ltabReset (locals : List Nat) (m j : Nat) : Dword :=
  let q := (j + 63 - m) % 32
  BitVec.ofNat 64 ((portGroups locals).getD (q / 4) 0 + 32 * (q % 4) + 128)

/-- R425: gtab at reset for group g. -/
def gtabReset (g h : Nat) : Dword :=
  BitVec.ofNat 64 (((h + 1023 - g) % 512) / 16 + 32 * ((h + 1023 - g) % 512 % 16) + 512)

/-- R501: a measurement register after one digest extends zero. [log DESIGN CHOICE 4] -/
def measure (body : List Byte) : BitVec 512 :=
  Config.shake256 (List.replicate 64 0 ++
    (List.range 64).map fun i => (Config.shake256 body).extractLsb' (8 * i) 8)

/-- R500: the images the part ships with are not in the manual: four empty ones stand for them. [log DESIGN CHOICE 4]
-/
def FwImage.shipped : FwImage := ⟨[], 0, 0, [], []⟩

/-- R500 to R502: the root of trust after a boot whose images all verified. [log DESIGN CHOICE 4] -/
def Trust.reset : Trust where
  images := List.replicate 4 FwImage.shipped
  m := #v[measure [], measure [], measure [], measure [], measure Config.fuseConfig]
  recovery := false
  bootTable := Trust.bootDefault
  reply := 0
  overtemp := false
  svns := Vector.replicate 4 0

/-- R506: the machine at the end of the stages of reset: nothing placed, memory cleared, every register at its
reset value. The values the manual leaves open are named in the assumption log. [log DESIGN CHOICE 1, 2, 3, 5] -/
def State.reset : State where
  time := 0
  half := false
  clk := 0
  agenda := []
  turn := []
  cursor := 0
  cur := none
  freeCtr := 0
  mem := []
  poison := []
  retired := []
  reported := []
  devid := 0
  groups := []
  teams := []
  grids := []
  cmds := []
  nextCid := 0
  barriers := []
  ticks := []
  regWaits := []
  opCache := []
  tlb := []
  redReqs := []
  flights := []
  coreHeld := []
  sliceHeld := []
  refused := []
  filters := []
  reds := []
  spills := []
  carried := []
  descs := []
  outbox := []
  chansOut := []
  chansIn := []
  reqs := []
  nextTag := 0
  rwc := []
  ports := ⟨(List.replicate 32 Port.absent ++ List.replicate 16 Port.up).toArray, rfl⟩
  lgs := ⟨(LaneGroup.boot 3 :: List.replicate 19 (LaneGroup.boot 0)).toArray, rfl⟩
  ltab := ⟨((List.range 32).map (ltabReset [] 0)).toArray, by simp⟩
  gtab := ⟨((List.range 512).map (gtabReset 0)).toArray, by simp⟩
  slots := []
  passing := []
  fairness := false
  mcGroups := []
  mcFlights := []
  rates := []
  plans := []
  ueOut := []
  tokens := []
  invs := []
  lantern := Lantern.reset
  parts := Vector.replicate 12 PartRegs.reset
  sched := Vector.replicate 12 PartSched.reset
  dev := DevRegs.reset
  vfs := Vector.replicate 256 VfRegs.reset
  blocks := []
  power := Vector.replicate 32 ⟨2000, 0, 0, 0⟩
  trust := Trust.reset
  shed := 0
  shedAt := 0
  msix := []

end Sys2Proof.Machine
end

