-- ==== Sys2Proof/Machine/Memory.lean ====
section
/-! DEFINITION. Machine/Memory.lean: host physical memory as a sorted list of cells, its canonical form, and the
physical map (R12, R370). -/
namespace Sys2Proof.Machine

/-- What an unlisted byte reads as: reset clears memory to zero (R506). [log DEDUCED 11] -/
def memDefault : Byte := 0#8

/-- The byte at an address. [log DEDUCED 11] -/
def cellAt : List Host.Cell → Nat → Byte
  | [], _ => memDefault
  | (k, v) :: t, a => if a < k then memDefault else if a = k then v else cellAt t a

/-- The cells with one byte changed, in canonical form again. Where a cell goes, so do those after it that lie no higher, of
which a canonical list has none: so every list reads back what was written, and no other byte changes. -/
def setCell : List Host.Cell → Nat → Byte → List Host.Cell
  | [], a, v => if v = memDefault then [] else [(a, v)]
  | (k, w) :: t, a, v =>
    if a < k then (if v = memDefault then (k, w) :: t else (a, v) :: (k, w) :: t)
    else if a = k then (if v = memDefault then t.dropWhile (fun c => decide (c.1 ≤ a)) else (a, v) :: t)
    else (k, w) :: setCell t a v

/-- Every cell lies above a bound, in rising order, and none holds the unlisted value. -/
def cellsFrom : Nat → List Host.Cell → Bool
  | _, [] => true
  | lo, (k, v) :: t => decide (lo ≤ k) && v != memDefault && cellsFrom (k + 1) t

/-- The canonical form: addresses strictly rising, no cell that reads as an unlisted one. -/
def Memory.wf (m : List Host.Cell) : Bool := cellsFrom 0 m

/-- The bytes from an address up. -/
def bytesAt (m : List Host.Cell) (a : Nat) : Nat → List Byte
  | 0 => []
  | n + 1 => cellAt m a :: bytesAt m (a + 1) n

/-- The cells with bytes written from an address up. -/
def setBytes (m : List Host.Cell) (a : Nat) : List Byte → List Host.Cell
  | [] => m
  | b :: bs => setBytes (setCell m a b) (a + 1) bs

/-- The cells with listed bytes written in order. -/
def setCells (m : List Host.Cell) : List (Nat × Byte) → List Host.Cell
  | [] => m
  | (a, b) :: bs => setCells (setCell m a b) bs

/-- R12: the number a byte string holds, low byte first. -/
def natOfBytes : List Byte → Nat
  | [] => 0
  | b :: bs => b.toNat + 256 * natOfBytes bs

/-- R12: the n low bytes of a number, low byte first. -/
def bytesOfNat : Nat → Nat → List Byte
  | 0, _ => []
  | n + 1, v => BitVec.ofNat 8 v :: bytesOfNat n (v / 256)

/-- The n-byte number at a host physical address. -/
def readNat (s : State) (pa n : Nat) : Nat := natOfBytes (bytesAt s.mem pa n)
/-- The 8-byte value at a host physical address. -/
def read64 (s : State) (pa : Nat) : Dword := BitVec.ofNat 64 (readNat s pa 8)

/-- The base of the CXL range (R370). -/
def cxlBase : Nat := 0x1000_0000_0000

/-- R447: the memory of a CXL slot recorded by a lane group holds this address. -/
def LaneGroup.covers (g : LaneGroup) (pa : Nat) : Bool :=
  match g.mapped with
  | none => false
  | some (slot, cap) =>
    cxlBase + slot.toNat * 2 ^ 40 ≤ pa && pa < cxlBase + slot.toNat * 2 ^ 40 + cap.toNat * 2 ^ 28

/-- R447: a CXL slot's memory, placed by its lane group, holds this address. -/
def cxlPlaced (s : State) (pa : Nat) : Bool := s.lgs.toList.any fun g => g.state == 0#3 && g.covers pa

/-- R447: the address lies in a slot that its lane group is leaving. -/
def cxlLeaving (s : State) (pa : Nat) : Bool := s.lgs.toList.any fun g => g.state != 0#3 && g.covers pa

/-- R370: IsBonded. -/
def isBonded (pa : Nat) : Bool := pa < 0x60_0000_0000

/-- R370: the address is local memory. -/
def isMem (s : State) (pa : Nat) : Bool :=
  isBonded pa || (0x100_0000_0000 ≤ pa && pa < 0x100_0000_0000 + s.dev.lp6size.toNat && pa < 0x300_0000_0000) ||
    (cxlBase ≤ pa && pa < 0x1800_0000_0000 && cxlPlaced s pa)

/-- R491: a byte range touches poisoned data or a retired frame (R493). -/
def poisoned (s : State) (pa n : Nat) : Bool :=
  s.poison.any (fun w => w < pa + n && pa < w + 8) ||
    s.retired.any (fun f => f * 4096 < pa + n && pa < (f + 1) * 4096)

/-- R491: the poisoned 8-byte words a byte range touches, those of a retired frame among them. -/
def poisonWords (s : State) (pa n : Nat) : List Nat :=
  ((List.range ((pa % 8 + n + 7) / 8)).map fun i => pa / 8 * 8 + 8 * i).filter fun w => poisoned s w 8

/-- R493: the address lies in a retired frame, which is never written again. -/
def inRetired (s : State) (pa : Nat) : Bool := s.retired.any fun f => f == pa / 4096

/-- R491: the poison left after bytes are written: a whole aligned 8-byte word clears its own. -/
def clearPoison (ws : List Nat) (pa : Nat) (n : Nat) : List Nat :=
  ws.filter fun w => !(pa ≤ w && w + 8 ≤ pa + n)

/-- A write of bytes at a host physical address, outside retired frames. -/
def writeBytes (s : State) (pa : Nat) (bs : List Byte) : State :=
  { s with
    mem := setCells s.mem (((List.range bs.length).zip bs).filterMap fun (i, b) =>
      if inRetired s (pa + i) then none else some (pa + i, b))
    poison := clearPoison s.poison pa bs.length
    reported := clearPoison s.reported pa bs.length }

/-- A write of an n-byte number at a host physical address. -/
def writeNat (s : State) (pa n v : Nat) : State := writeBytes s pa (bytesOfNat n v)
/-- A write of an 8-byte value at a host physical address. -/
def write64 (s : State) (pa : Nat) (v : Dword) : State := writeNat s pa 8 v.toNat

/-- R327: the die that PA belongs to. -/
def dieOf (pa : Nat) : Nat :=
  if isBonded pa then pa / 0x30_0000_0000
  else (pa / 2 ^ 8 + pa / 2 ^ 20 + pa / 2 ^ 32 + pa / 2 ^ 44) % 2

/-- R327: HomeSlice. -/
def homeSlice (pa : Nat) : Nat :=
  let ln := pa / 256
  let h := (ln % 65536) ^^^ (ln / 65536 % 65536) ^^^ (ln / 2 ^ 32 % 4096)
  48 * dieOf pa + h % 48

/-- R327: L2Set. -/
def l2Set (pa : Nat) : Nat := pa / 4096 % 512

end Sys2Proof.Machine
end

