-- ==== Sys2Proof/Machine/Access.lean ====
section
/-! DEFINITION. Machine/Access.lean: reading and changing the parts of the state by name, the error and residency
queues, and the interrupts (R382, R487, R488). -/
namespace Sys2Proof.Machine

/-- The elements of a list that satisfy p, changed by f. -/
def modify {α : Type} (p : α → Bool) (f : α → α) : List α → List α
  | [] => []
  | x :: t => (if p x then f x else x) :: modify p f t

/-- Bits lo to lo + n − 1 of a register, as a number. -/
def bits (x : Dword) (lo n : Nat) : Nat := x.toNat / 2 ^ lo % 2 ^ n

/-- A register with bits lo to lo + n − 1 replaced. -/
def setBits (x : Dword) (lo n v : Nat) : Dword :=
  BitVec.ofNat 64 (x.toNat - bits x lo n * 2 ^ lo + v % 2 ^ n * 2 ^ lo)

/-- The element of a vector at an index, or a default outside it. -/
def vget {α : Type} {n : Nat} (v : Vector α n) (i : Nat) (d : α) : α := v[i]?.getD d

/-- A vector with one element replaced; outside it nothing changes. -/
def vset {α : Type} {n : Nat} (v : Vector α n) (i : Nat) (x : α) : Vector α n := v.setIfInBounds i x

/-! ## Groups, teams and grids -/

/-- A group sits in this slot. -/
def Group.isAt (core gslot : Nat) (g : Group) : Bool := g.core == core && g.gslot == gslot

/-- The group in a core's group slot. -/
def groupAt (s : State) (core gslot : Nat) : Option Group := s.groups.find? (Group.isAt core gslot)

/-- The group of a slot replaced. -/
def putGroup (s : State) (g : Group) : State :=
  { s with groups := modify (Group.isAt g.core g.gslot) (fun _ => g) s.groups }

/-- The group of a slot changed. -/
def modGroup (s : State) (core gslot : Nat) (f : Group → Group) : State :=
  { s with groups := modify (Group.isAt core gslot) f s.groups }

/-- The split of an entry. -/
def Split.free : Split :=
  ⟨⟨0, BitVec.allOnes 64, 0, .free, []⟩, 0, [], none, 0, none, none, false, none, none⟩

/-- The split in an entry of a group. -/
def splitAt (g : Group) (entry : Nat) : Split := vget g.splits entry Split.free

/-- The split of an entry replaced. -/
def putSplit (g : Group) (entry : Nat) (p : Split) : Group := { g with splits := vset g.splits entry p }

/-- A parked record as a resident split. -/
def Parked.split (p : Parked) : Split :=
  ⟨p.arch, 0, [], p.lastIssue, p.since, p.waitsIn, p.yielded, false, p.idle, p.fifo⟩
/-- A resident split as a parked record. -/
def Split.parked (p : Split) : Parked := ⟨p.arch, p.lastIssue, p.since, p.waitsIn, p.yielded, p.idle, p.fifo⟩

/-- The splits of a group by place: its four entries, then the parked records from number 4 on. -/
def placesOf (g : Group) : List Nat := List.range (4 + g.parked.length)

/-- The split at a place. -/
def splitIn (g : Group) (place : Nat) : Split :=
  if place < 4 then splitAt g place
  else
    match g.parked[place - 4]? with
    | some p => p.split
    | none => Split.free

/-- The split at a place replaced. -/
def putIn (g : Group) (place : Nat) (p : Split) : Group :=
  if place < 4 then putSplit g place p else { g with parked := g.parked.set (place - 4) p.parked }

/-- R21: the entry holds a live split. -/
def Split.live (p : Split) : Bool := p.arch.state != .free

/-- The group's live splits in the split table. -/
def residents (g : Group) : List Split := g.splits.toList.filter Split.live

/-- R21: the lanes that have neither exited nor been killed. -/
def liveLanes (g : Group) : Mask :=
  (g.parked.map fun p => p.arch.mask).foldl (· ||| ·) ((residents g).foldl (fun m p => m ||| p.arch.mask) 0)

/-- How many live splits the group has, resident or parked. -/
def liveSplits (g : Group) : Nat := (residents g).length + g.parked.length

/-- The key of a team. -/
def Team.isNamed (gid team : Nat) (t : Team) : Bool := t.gid == gid && t.team == team

/-- The team of a grid. -/
def teamOf (s : State) (gid team : Nat) : Option Team := s.teams.find? (Team.isNamed gid team)

/-- A team changed. -/
def modTeam (s : State) (gid team : Nat) (f : Team → Team) : State :=
  { s with teams := modify (Team.isNamed gid team) f s.teams }

/-- The launch with a grid identifier. -/
def gridOf (s : State) (gid : Nat) : Option Grid := s.grids.find? fun g => g.gid == gid

/-- A launch changed. -/
def modGrid (s : State) (gid : Nat) (f : Grid → Grid) : State :=
  { s with grids := modify (fun g => g.gid == gid) f s.grids }

/-- The partition of a group's team. -/
def partOf (s : State) (g : Group) : Nat :=
  match teamOf s g.gid g.team with
  | some t => t.part
  | none => 0

/-- The partition control block of a partition. -/
def pregs (s : State) (part : Nat) : PartRegs := vget s.parts part PartRegs.reset

/-- A partition control block changed. -/
def modPregs (s : State) (part : Nat) (f : PartRegs → PartRegs) : State :=
  { s with parts := vset s.parts part (f (pregs s part)) }

/-- What the scheduler holds for a partition. -/
def psched (s : State) (part : Nat) : PartSched := vget s.sched part PartSched.reset

/-- What the scheduler holds for a partition, changed. -/
def modSched (s : State) (part : Nat) (f : PartSched → PartSched) : State :=
  { s with sched := vset s.sched part (f (psched s part)) }

/-- A virtual function's window. -/
def vfRegs (s : State) (v : Nat) : VfRegs := vget s.vfs v VfRegs.reset

/-- A virtual function's window changed. -/
def modVf (s : State) (v : Nat) (f : VfRegs → VfRegs) : State :=
  { s with vfs := vset s.vfs v (f (vfRegs s v)) }

/-- R485: the partition may place teams and accept launches. -/
def partEnabled (s : State) (part : Nat) : Bool := (pregs s part).pctl.getLsbD 0

/-- A value the manual leaves open (R7, R3), and the state that has drawn it. [log DEDUCED 21; DESIGN CHOICE 8] -/
def drawFree (s : State) : Dword × State := (Config.freeValue s.freeCtr, { s with freeCtr := s.freeCtr + 1 })

/-! ## Interrupts and queues -/

/-- R488: a cause bit of a virtual function's vfint; the vector is raised when the bit goes from 0 to 1. The number
256 stands for the physical function, whose vectors owner 12 and the device queue use. [log DEDUCED 118] -/
def raiseVector (s : State) (fn cause : Nat) : State :=
  if fn < 256 then
    if (vfRegs s fn).vfint.getLsbD cause then s
    else
      let s := modVf s fn fun r => { r with vfint := r.vfint ||| BitVec.ofNat 64 (2 ^ cause) }
      { s with msix := s.msix ++ [(fn, cause)] }
  else { s with msix := s.msix ++ [(fn, cause)] }

/-- R382: the ring fields of a queue register: entries held. -/
def ringHeld (cfg : Dword) : Nat :=
  if cfg.getLsbD 5 then 2 ^ bits cfg 0 5 else (bits cfg 32 16 + 65536 - bits cfg 16 16) % 65536

/-- R382: the queue is enabled. -/
def ringOn (cfg : Dword) : Bool := 6 ≤ bits cfg 0 5 && bits cfg 0 5 ≤ 16

/-- R382: the register after an entry is written, or after one is dropped. -/
def ringPush (cfg : Dword) : Dword :=
  if ringOn cfg && !(2 ^ bits cfg 0 5 ≤ ringHeld cfg) then
    let cfg' := setBits cfg 32 16 (bits cfg 32 16 + 1)
    setBits cfg' 5 1 (if ringHeld cfg + 1 = 2 ^ bits cfg 0 5 then 1 else 0)
  else setBits cfg 48 16 (min 0xFFFF (bits cfg 48 16 + 1))

/-- R382: an entry of the given size is written at the tail, when there is room. -/
def ringWrite (s : State) (cfg : Dword) (base size : Nat) (bs : List Byte) : State :=
  if ringOn cfg && !(2 ^ bits cfg 0 5 ≤ ringHeld cfg) then
    writeBytes s (base + size * (bits cfg 32 16 % 2 ^ bits cfg 0 5)) bs
  else s

/-- What R487 records of an event. -/
structure ErrRec where
  /-- the kind of R487 -/
  kind : Nat
  /-- what the model names the event by, for the detail byte and value the manual leaves open -/
  event : Nat
  block : Nat
  gid : Nat
  addr : Nat
  deriving DecidableEq, Repr

/-- R487: the bytes of an entry. [log DESIGN CHOICE 10] -/
def errBytes (s : State) (e : ErrRec) : List Byte :=
  bytesOfNat 8 s.time.toNat ++
    (BitVec.ofNat 8 e.kind :: Config.errDetail e.event :: bytesOfNat 2 e.block ++ bytesOfNat 4 e.gid) ++
    bytesOfNat 8 e.addr ++ bytesOfNat 8 (Config.errValue e.event).toNat

/-- R487, R488: an entry in a partition's error queue. -/
def errPart (s : State) (part : Nat) (e : ErrRec) : State :=
  let r := pregs s part
  let s := ringWrite s r.eqcfg (r.eqbase.toNat / 32 * 32 % 2 ^ 52) 32 (errBytes s e)
  let s := modPregs s part fun r => { r with eqcfg := ringPush r.eqcfg }
  if ringOn r.eqcfg && !(2 ^ bits r.eqcfg 0 5 ≤ ringHeld r.eqcfg) then raiseVector s (bits r.pctl 8 8) 0 else s

/-- R487, R488: an entry in the device error queue. -/
def errDev (s : State) (e : ErrRec) : State :=
  let cfg := s.dev.deqcfg
  let s := ringWrite s cfg (s.dev.deqbase.toNat / 32 * 32 % 2 ^ 52) 32 (errBytes s e)
  let s := { s with dev := { s.dev with deqcfg := ringPush cfg } }
  if ringOn cfg && !(2 ^ bits cfg 0 5 ≤ ringHeld cfg) then raiseVector s 256 0 else s

/-- R491: the place a poison entry names: a word of memory, or of a stage bank by its block. -/
def ErrRec.place (e : ErrRec) : Nat := if e.block = 0xFFFF then e.addr else 2 ^ 64 * (e.block + 1) + e.addr

/-- R487, R491: an entry of an instruction's or command's failure: kind 6 goes to both queues, and only at the first
read of the poisoned word that addr names. [log DEDUCED 54] -/
def noteErr (s : State) (part : Nat) (e : ErrRec) : State :=
  if e.kind = 6 then
    if s.reported.any fun w => w == e.place then s
    else errDev (errPart { s with reported := s.reported ++ [e.place] } part e) e
  else errPart s part e

/-- Several entries of one failure. -/
def errParts (s : State) (part : Nat) (es : List ErrRec) : State := es.foldl (fun s e => noteErr s part e) s

/-- R491: the entries of a read of poisoned words. [log DEDUCED 54] -/
def poisonErrs (s : State) (gid pa n : Nat) : List ErrRec :=
  (poisonWords s pa n).map fun w => ⟨6, 4, 0xFFFF, gid, w⟩

/-- R489: a block is under test, so what needs it waits. -/
def underTest (s : State) (num : Nat) : Bool := s.blocks.any fun b => b.num == num && b.state == 1#2

/-- The number the model gives the 4 KiB frame of an address among the blocks: R489 tests DRAM by rows, which R494
does
not number. [log DESIGN CHOICE 111] -/
def frameBlock (pa : Nat) : Nat := 65536 + pa / 4096

/-- R489, R494: the home slice of an address, or the frame, is under test. -/
def sliceBusy (s : State) (pa : Nat) : Bool := underTest s (3328 + homeSlice pa) || underTest s (frameBlock pa)

/-- R493, R494: a block is fenced. -/
def fenced (s : State) (num : Nat) : Bool := s.blocks.any fun b => b.num == num && b.state == 2#2

/-- R409, R498: the core's block has its clock below 0.5 GHz, which pauses its teams. -/
def throttled (s : State) (core : Nat) : Bool := decide ((vget s.power (core / 8) ⟨2000, 0, 0, 0⟩).mhz < 500)

/-- R466 to R468, R493: an event at a tap enters the queue of its source, of 4 entries, or of its partition's user
events, of 64; one that finds it full, or Lantern fenced, is dropped and counted for the partition's owner. -/
def tap (s : State) (source kind part payload : Nat) : State :=
  let e : TapEv := ⟨BitVec.ofNat 11 source, BitVec.ofNat 10 kind, BitVec.ofNat 4 part, BitVec.ofNat 48 payload, s.time⟩
  let user := source == 2047
  let here := s.lantern.taps.filter fun x => x.source == e.source && (!user || x.part == e.part)
  if here.length < (if user then 64 else 4) && !fenced s 3492 then
    { s with lantern := { s.lantern with taps := s.lantern.taps ++ [e] } }
  else if part < 12 then
    let o := vget s.lantern.owners part LnOwner.reset
    { s with lantern := { s.lantern with owners := vset s.lantern.owners part { o with dropped := o.dropped + 1 } } }
  else s

/-- R382: a residency request for the page of a virtual address. [log DEDUCED 46] -/
def postRes (s : State) (part source gid va : Nat) : State :=
  let r := pregs s part
  let s := ringWrite s r.rqcfg (r.rqbase.toNat / 16 * 16 % 2 ^ 52) 16
    (bytesOfNat 8 (va / 4096 * 4096 % 2 ^ 56 + source) ++ bytesOfNat 8 (gid % 2 ^ 32))
  modPregs s part fun r => { r with rqcfg := ringPush r.rqcfg }

end Sys2Proof.Machine
end

