-- ==== Sys2Proof/Machine/Translate.lean ====
section
/-! DEFINITION. Machine/Translate.lean: the two stages of translation, permissions and the colour check (R371 to
R376, R378, R381, R389, R390). -/
namespace Sys2Proof.Machine

/-- What the second stage makes of a guest physical address. -/
inductive Stage2 where
  | ok (pa : Nat) (w x nr : Bool)
  /-- R447: memory of a CXL slot that its lane group is leaving -/
  | gone (pa : Nat)
  | missing
  deriving DecidableEq, Repr

/-- R375: the second stage; with s2cfg.en = 0 the guest address is the host address (R377). -/
def stage2 (s : State) (part gpa : Nat) : Stage2 :=
  let cfg := (pregs s part).s2cfg
  if !cfg.getLsbD 0 then
    (if isMem s gpa then .ok gpa true true false else if cxlLeaving s gpa then .gone gpa else .missing)
  else if gpa / 2 ^ 43 ≠ 0 then .missing
  else
    let e := read64 s (bits cfg 25 27 * 2 ^ 25 + 8 * (gpa / 2 ^ 21))
    if !e.getLsbD 0 || bits e 4 17 ≠ 0 || bits e 52 12 ≠ 0 then .missing
    else
      let pa := bits e 21 31 * 2 ^ 21 + gpa % 2 ^ 21
      if isMem s pa then .ok pa (e.getLsbD 1) (e.getLsbD 2) (e.getLsbD 3)
      else if cxlLeaving s pa then .gone pa
      else .missing

/-- What the first stage makes of a virtual address. -/
inductive Walk where
  /-- a local leaf: the guest and host addresses, effective permissions, and the page size in bytes -/
  | page (gpa pa : Nat) (w x nr : Bool) (size : Nat)
  /-- a peer leaf: device, window, offset in the window, w and nr, and the page size in bytes -/
  | peer (dev : BitVec 14) (win : BitVec 12) (off : Nat) (w nr : Bool) (size : Nat)
  /-- no translation, with what the error queue records of it -/
  | missing (errs : List ErrRec)
  deriving DecidableEq, Repr

/-- R373: log2 of the page size of a size code. -/
def pageBits (code : Nat) : Nat := if code ≤ 3 then 12 + 2 * code else if code ≤ 8 then 13 + 2 * code else 30

/-- R371, R373: a size code a level allows. -/
def sizeAllowed (level code : Nat) : Bool :=
  (level == 1 && code ≤ 3) || (level == 2 && 4 ≤ code && code ≤ 8) || (level == 3 && code == 9)

/-- log2 of the bytes an entry of a level covers (R371). -/
def levelBits (level : Nat) : Nat := 3 + 9 * level

/-- R374: a valid entry is malformed. -/
def entryBad (level : Nat) (e : Dword) : Bool :=
  if bits e 1 2 = 0 then level == 1 || bits e 3 9 != 0 || bits e 52 12 != 0
  else if bits e 1 2 = 1 then
    bits e 6 2 != 0 || bits e 52 12 != 0 || !sizeAllowed level (bits e 8 4) ||
      bits e 12 40 * 4096 % 2 ^ pageBits (bits e 8 4) != 0
  else if bits e 1 2 = 2 then
    bits e 6 2 != 0 || !sizeAllowed level (bits e 8 4) || e.getLsbD 4 ||
      bits e 38 26 * 4096 % 2 ^ pageBits (bits e 8 4) != 0
  else true

/-- The error-queue entry of a malformed first-stage entry, of a second-stage failure, or of a colour failure. -/
def xlErr (event gid addr : Nat) : ErrRec := ⟨1, event, 0xFFFF, gid, addr⟩

/-- R373: the numbers of entries that a page of a level may be written as, the largest first, but for one. -/
def pageSpans (level : Nat) : List Nat :=
  if level = 1 then [64, 16, 4] else if level = 2 then [256, 64, 16, 4] else []

/-- R373: one of n entries is a leaf of a page written as n entries, which are not all the same. -/
def pageDiffers (s : State) (level first n : Nat) : Bool :=
  let es := (List.range n).map fun i => read64 s (first + 8 * i)
  es.any (fun e => e.getLsbD 0 && bits e 1 2 != 0 && sizeAllowed level (bits e 8 4) &&
    2 ^ (pageBits (bits e 8 4) - levelBits level) == n) &&
  es.any fun e => e != es.headD 0

/-- R373: the entry the device reads at a level: the one the address selects, unless a page written there has entries
that differ; then it may read any one of them, for every address of the page. [log DESIGN CHOICE 52] -/
def entryAt (s : State) (table level va : Nat) : Dword :=
  let idx := va / 2 ^ levelBits level % 512
  match (pageSpans level).find? fun n => pageDiffers s level (table + 8 * (idx / n * n)) n with
  | some n =>
    let first := table + 8 * (idx / n * n)
    read64 s (first + 8 * ((Config.freeAt s.freeCtr first).toNat % n))
  | none => read64 s (table + 8 * idx)

/-- R371: the walk from a level down. [log DESIGN CHOICE 20] -/
def walkFrom (s : State) (part gid va : Nat) : Nat → Nat → Walk
  | 0, _ => .missing []
  | level + 1, gpa =>
    match stage2 s part gpa with
    | .missing => .missing [xlErr 2 gid gpa]
    | .gone _ => .missing [xlErr 2 gid gpa]
    | .ok _ _ _ true => .missing [xlErr 2 gid gpa]
    | .ok table _ _ false =>
      let e := entryAt s table (level + 1) va
      if !e.getLsbD 0 then .missing []
      else if entryBad (level + 1) e then .missing [xlErr 1 gid (table + 8 * (va / 2 ^ levelBits (level + 1) % 512))]
      else if bits e 1 2 = 0 then walkFrom s part gid va level (bits e 12 40 * 4096)
      else
        let pb := pageBits (bits e 8 4)
        if bits e 1 2 = 1 then
          let g := bits e 12 40 * 4096 + va % 2 ^ pb
          match stage2 s part g with
          | .missing => .missing [xlErr 2 gid g]
          | .gone pa => .page g pa (e.getLsbD 3) (e.getLsbD 4) true (2 ^ pb)
          | .ok pa w x nr => .page g pa (w && e.getLsbD 3) (x && e.getLsbD 4) (nr || e.getLsbD 5) (2 ^ pb)
        else
          .peer (BitVec.ofNat 14 (bits e 24 14)) (BitVec.ofNat 12 (bits e 12 12))
            (bits e 38 26 * 4096 + va % 2 ^ pb) (e.getLsbD 3) (e.getLsbD 5) (2 ^ pb)

/-- R371: the walk of a 56-bit virtual address. [log DESIGN CHOICE 20] -/
def walk (s : State) (part gid va : Nat) : Walk :=
  walkFrom s part gid va 5 (bits (pregs s part).ptroot 12 40 * 4096)

/-- R389, R390: every colour a page covers is in ccm. -/
def colourOk (ccm : Dword) (pa size : Nat) : Bool :=
  if size ≤ 0x10000 then ccm.getLsbD (pa / 2 ^ 16 % 32)
  else if size ≤ 0x40000 then bits ccm (pa / 2 ^ 18 % 8 * 4) 4 = 15
  else bits ccm 0 32 = 0xFFFF_FFFF

/-! ## TLBs (R378, R379, R383, R384) -/

/-- The TLB of a core. -/
def coreTlb (core : Nat) : Nat := core
/-- The walk-ahead TLB of a core's copy engine. -/
def copyTlb (core : Nat) : Nat := Config.cores + core
/-- The walker itself, which keeps no translation. -/
def walkerTlb : Nat := 2 * Config.cores

/-- The entry translates an address of a partition in a unit. -/
def TlbEntry.covers (unit part va : Nat) (e : TlbEntry) : Bool :=
  e.unit == unit && e.part == part && decide (e.base ≤ va) && decide (va < e.base + e.size)

/-- The translation an entry gives one of its addresses. -/
def TlbEntry.walkAt (e : TlbEntry) (va : Nat) : Walk :=
  match e.out with
  | .page gpa pa w x nr size => .page (gpa + (va - e.base)) (pa + (va - e.base)) w x nr size
  | .peer dev win off w nr size => .peer dev win (off + (va - e.base)) w nr size

/-- The translation marks its page non-resident. -/
def TlbEntry.marked (e : TlbEntry) : Bool :=
  match e.out with
  | .page _ _ _ _ nr _ => nr
  | .peer _ _ _ _ nr _ => nr

/-- R383, R384: the translation an access of a unit uses: the walk's, or one the unit holds. Where they differ, either may
serve, but a page held as non-resident stays so until it is invalidated. [log DESIGN CHOICE 20] -/
def translate (s : State) (unit part gid va : Nat) : Walk :=
  let fresh := walk s part gid va
  match ((List.range s.tlb.length).zip s.tlb).find? fun x => x.2.covers unit part va with
  | none => fresh
  | some (i, e) =>
    if e.walkAt va = fresh then fresh
    else if e.marked then e.walkAt va
    else if (Config.freeAt s.freeCtr i).getLsbD 0 then e.walkAt va else fresh

/-- R372, R376: the range around an address that one translation covers: its page, or the 2 MiB of it that one entry of
the second stage translates. -/
def walkRange (va : Nat) : Walk → Option (Nat × Nat × Cached)
  | .missing _ => none
  | .page gpa pa w x nr size =>
    let n := min size (2 ^ 21)
    some (va / n * n, n, .page (gpa - va % n) (pa - va % n) w x nr size)
  | .peer dev win off w nr size => some (va / size * size, size, .peer dev win (off - va % size) w nr size)

/-- Two entries of a unit and partition translate a common address. -/
def TlbEntry.meets (x e : TlbEntry) : Bool :=
  e.unit == x.unit && e.part == x.part && decide (e.base < x.base + x.size) && decide (x.base < e.base + e.size)

/-- R379: the translations that accesses of some addresses use; none of one that leads nowhere. -/
def tlbOf (s : State) (unit part gid : Nat) (vas : List Nat) : List TlbEntry :=
  (vas.filterMap fun va => (walkRange va (translate s unit part gid va)).map fun (base, size, out) =>
    (⟨unit, part, base, size, out⟩ : TlbEntry)).eraseDups

/-- R383, R384: units keep translations they have used. -/
def addTlb (s : State) (new : List TlbEntry) : State :=
  { s with tlb := s.tlb.filter (fun e => !new.any fun x => x.meets e) ++ new }

/-- R383, R384: a unit keeps the translations it uses for some addresses. [log DESIGN CHOICE 20] -/
def keepTlb (s : State) (unit part gid : Nat) (vas : List Nat) : State := addTlb s (tlbOf s unit part gid vas)

/-- R361: the address lies in a bivouac region, which no program can address. -/
def inBivouac (s : State) (pa : Nat) : Bool :=
  s.parts.toList.any fun r =>
    let lgb := bits r.bvcfg 0 5
    4 ≤ lgb && lgb ≤ 20 && bits r.bvbase 10 42 * 1024 ≤ pa && pa < bits r.bvbase 10 42 * 1024 + 96 * 2 ^ lgb * 1024

/-- R376, R381: a permission the second stage withholds is recorded with the guest address. -/
def withheld (s : State) (part gid gpa : Nat) (needW needX : Bool) : List ErrRec :=
  match stage2 s part gpa with
  | .ok _ w x _ => if (needW && !w) || (needX && !x) then [xlErr 2 gid gpa] else []
  | .gone _ => []
  | .missing => []

/-- What an access of R378 meets. -/
inductive Acc378 where
  | ok (pa gpa : Nat)
  | peer (dev : BitVec 14) (win : BitVec 12) (off : Nat)
  | nonresident
  | denied (errs : List ErrRec)
  deriving DecidableEq, Repr

/-- R361, R378, R389: an access of a virtual address, translated by a unit, with the permissions it needs. -/
def access (s : State) (unit part gid va : Nat) (needW needX : Bool) : Acc378 :=
  match translate s unit part gid va with
  | .missing errs => .denied errs
  | .peer dev win off w nr _ =>
    if (needW && !w) || needX then .denied [] else if nr then .nonresident else .peer dev win off
  | .page gpa pa w x nr size =>
    if (needW && !w) || (needX && !x) then .denied (withheld s part gid gpa needW needX)
    else if nr then .nonresident
    else if inBivouac s pa then .denied []
    else if colourOk (pregs s part).ccm pa size then .ok pa gpa
    else .denied [xlErr 3 gid gpa]

/-- R374, R381, R390: what the error queue records of an access that is denied. -/
def deniedErrs (a : Acc378) : List ErrRec :=
  match a with
  | .denied errs => errs
  | .ok _ _ => []
  | .peer _ _ _ => []
  | .nonresident => []

/-- R264, R373: the first byte of the page that holds an address, as its translation gives it. -/
def pageBase (s : State) (unit part gid va : Nat) : Nat :=
  match translate s unit part gid va with
  | .page _ _ _ _ _ size => va / size * size
  | .peer _ _ _ _ _ size => va / size * size
  | .missing _ => va / 4096 * 4096

/-- R447: a virtual address whose page lies in a CXL slot that its lane group is leaving: the failure of an access to
it is recorded. -/
def goneErrs (s : State) (unit part gid va : Nat) : List ErrRec :=
  match translate s unit part gid va with
  | .page gpa pa _ _ _ _ => if cxlLeaving s pa then [xlErr 5 gid gpa] else []
  | .peer _ _ _ _ _ _ => []
  | .missing _ => []

/-- R245: Fetchable(A). -/
def fetchable (s : State) (unit part gid : Nat) (a : Nat) : Bool :=
  decide (a < 2 ^ 56) &&
  match access s unit part gid a false true with
  | .ok _ _ => true
  | .peer _ _ _ => false
  | .nonresident => false
  | .denied _ => false

/-- R245: WritableByGroup for one 64-byte frame, and where it lies. -/
def writablePa (s : State) (unit part gid : Nat) (a : Nat) : Option Nat :=
  if 2 ^ 56 ≤ a then none
  else
    match access s unit part gid a true false with
    | .ok pa _ => some pa
    | .peer _ _ _ => none
    | .nonresident => none
    | .denied _ => none

/-- A local, resident, readable place for an access of the walker (R378, R398). -/
def localPa (s : State) (part gid : Nat) (a : Nat) (needW : Bool) : Option Nat :=
  if 2 ^ 56 ≤ a then none
  else
    match access s walkerTlb part gid a needW false with
    | .ok pa _ => some pa
    | .peer _ _ _ => none
    | .nonresident => none
    | .denied _ => none

end Sys2Proof.Machine
end

