-- ==== Sys2Proof/Machine/Ops.lean ====
section
/-! DEFINITION. Machine/Ops.lean: the shared operations of instructions: stage banks, stores and their ticks, the
remote write-combining buffer, regions and their commit, the end of a grid, and taking a precise trap and returning
from one (R245, R248, R263, R267 to R269, R320, R339, R398). -/
namespace Sys2Proof.Machine

/-! ## Stops of an instruction -/

/-- A precise trap (R245, R247), with the error-queue entries and residency requests that come with it. -/
structure Trp where
  cause : Nat
  /-- the number of a software trap or breakpoint -/
  n : Nat
  info : Nat
  lanes : Mask
  /-- resume at the next instruction -/
  after : Bool
  errs : List ErrRec
  /-- source and virtual address of a residency request -/
  posts : List (Nat × Nat)
  deriving DecidableEq, Repr

/-- Why an instruction does not take effect now. -/
inductive Stop where
  /-- it raises a precise trap -/
  | trap (t : Trp)
  /-- it cannot issue yet and issues again later (R268, R322, R330, R333, R339, R489) -/
  | stall
  /-- as stall, with what has taken place meanwhile: lines hastened, part of a region committed -/
  | held (t : State)
  deriving DecidableEq, Repr

/-- A value, or the reason the instruction does not take effect. -/
abbrev Ex (α : Type) := Except Stop α

/-- R247: the causes. -/
def causeIllegalInstruction : Nat := 0
/-- Illegal operand. -/
def causeIllegalOperand : Nat := 1
/-- Register bounds. -/
def causeRegisterBounds : Nat := 2
/-- Format mismatch. -/
def causeFormatMismatch : Nat := 3
/-- Illegal convergence. -/
def causeIllegalConvergence : Nat := 4
/-- Non-uniform condition. -/
def causeNonUniform : Nat := 5
/-- Protection. -/
def causeProtection : Nat := 6
/-- Misalignment. -/
def causeMisalignment : Nat := 7
/-- Sticky report. -/
def causeSticky : Nat := 8
/-- Software trap. -/
def causeSoftware : Nat := 9
/-- Breakpoint. -/
def causeBreakpoint : Nat := 10

/-- R63: Trap(c) concerning some lanes. -/
def trapOn {α : Type} (cause : Nat) (lanes : Mask) : Ex α := .error (.trap ⟨cause, 0, 0, lanes, false, [], []⟩)

/-- A trap of cause 6 or 7 with its faulting address. -/
def trapAt {α : Type} (cause : Nat) (lanes : Mask) (info : Nat) (errs : List ErrRec) (posts : List (Nat × Nat)) :
    Ex α :=
  .error (.trap ⟨cause, 0, info, lanes, false, errs, posts⟩)

/-- The condition holds, or the trap is raised. -/
def need (ok : Bool) (cause : Nat) (lanes : Mask) : Ex Unit := if ok then .ok () else trapOn cause lanes

/-! ## Small tools -/

/-- The lanes of a function of the lane number. -/
def lanesOf (f : Nat → Word) : Lanes := ⟨((List.range 32).map f).toArray, by simp⟩

/-- A mask of the lanes that satisfy p. -/
def maskOf (p : Nat → Bool) : Mask :=
  BitVec.ofNat 32 ((List.range 32).foldl (fun m l => if p l then m + 2 ^ l else m) 0)

/-- The lanes of a mask, ascending (R16). -/
def lanesIn (m : Mask) : List Nat := (List.range 32).filter fun l => m.getLsbD l

/-- The lowest lane of a mask, 32 when it is empty. -/
def lowestLane (m : Mask) : Nat := (lanesIn m).headD 32

/-- The words of a lane. -/
def laneGet (v : Lanes) (l : Nat) : Word := vget v l 0

/-! ## Stage banks (R56, R320) -/

/-- The byte at an offset of a bank; a bank with undefined contents gives a free byte (R7, R321, R322). -/
def bankByte (b : Bank) (off : Nat) : Byte :=
  match b.cells.find? (fun c => c.1 == off) with
  | some c => c.2
  | none =>
    match b.seed with
    | none => 0
    | some k => Config.freeByte k off

/-- A byte of a bank replaced, the bytes kept in rising order. -/
def putByte : List (Nat × Byte) → Nat → Byte → List (Nat × Byte)
  | [], a, v => [(a, v)]
  | (k, w) :: t, a, v =>
    if a < k then (a, v) :: (k, w) :: t else if a = k then (a, v) :: t else (k, w) :: putByte t a v

/-- Bytes of a bank from an offset up, the offset modulo 64 KiB. -/
def bankBytes (b : Bank) (off n : Nat) : List Byte := (List.range n).map fun i => bankByte b ((off + i) % 65536)

/-- Bytes written to a bank from an offset up, modulo 64 KiB. -/
def bankPut (b : Bank) (off : Nat) (bs : List Byte) : Bank :=
  { b with
    bad := b.bad.filter fun w => !(off ≤ w && w + 8 ≤ off + bs.length)
    cells := ((List.range bs.length).zip bs).foldl (fun c (i, v) => putByte c ((off + i) % 65536) v) b.cells }

/-- A bank of a team. -/
def bankOf (t : Team) (i : Nat) : Option Bank := t.banks[i]?

/-- A bank of a team replaced. -/
def modBank (s : State) (gid team i : Nat) (f : Bank → Bank) : State :=
  modTeam s gid team fun t => { t with banks := match t.banks[i]? with
    | some b => t.banks.set i (f b)
    | none => t.banks }

/-- R44, R402: the width and height of a team's cluster rectangle. -/
def clusterSize (s : State) (gid : Nat) : Nat × Nat :=
  match gridOf s gid with
  | some g => (g.record.cw, g.record.chh)
  | none => (1, 1)

/-- R56, R320: the team, bank and byte of an offset of the cluster stage window, where a live bank holds it. -/
def stageAt (s : State) (gid team off : Nat) : Option (Nat × Nat × Nat) :=
  let (w, h) := clusterSize s gid
  let k := off / 2 ^ 20
  if w * h ≤ k then none
  else
    let owner := team / (w * h) * (w * h) + k
    let b := off % 2 ^ 20 / 65536
    match teamOf s gid owner with
    | some t => if b < t.banks.length then some (owner, b, off % 65536) else none
    | none => none

/-! ## Stores -/

/-- R263, R337: the global completion tick of a store; the manual bounds it by 40 µs and leaves it open. [log DESIGN
CHOICE 18] -/
def storeTick (s : State) (k : Nat) : Nat := s.time.toNat + (Config.freeValue (s.freeCtr + k)).toNat % 40001

/-- A tick on its way back to a group. [log DEDUCED 41; DESIGN CHOICE 18] -/
def pushTick (s : State) (core gslot : Nat) : State := { s with ticks := s.ticks ++ [⟨core, gslot, storeTick s 100⟩] }

/-- R341: the age limit of a partition's write-combining lines, in ns; the reserved value is software's error and
leaves the value open. [log DESIGN CHOICE 52] -/
def rwcAge (s : State) (part : Nat) : Nat :=
  let a := bits (pregs s part).rwcctl 0 3
  if a < 7 then 250 * 2 ^ a else (Config.freeValue (s.freeCtr + 101)).toNat % 16001

/-- The key of a write-combining line. -/
def RwcLine.isFor (core gid team : Nat) (dev : BitVec 14) (win : BitVec 12) (line : Nat) (r : RwcLine) : Bool :=
  r.core == core && r.gid == gid && r.team == team && r.dev == dev && r.win == win && r.line == line

/-- R339: the core's buffer has room for a store to this line. -/
def rwcRoom (s : State) (core gid team : Nat) (dev : BitVec 14) (win : BitVec 12) (line : Nat) : Bool :=
  s.rwc.any (RwcLine.isFor core gid team dev win line) || (s.rwc.filter fun r => r.core == core).length < 64

/-- R418: the traffic class of a grid's accesses. -/
def classOfGrid (s : State) (gid : Nat) : Nat :=
  match gridOf s gid with
  | some g => g.record.cls
  | none => 0

/-- R339: bytes of a store enter a line of the buffer; store names its lanes, group slot, grpid and residency
predicate. The bytes do not cross the line. -/
def rwcPut (s : State) (core gid team part : Nat) (dev : BitVec 14) (win : BitVec 12) (off : Nat) (bs : List Byte)
    (store : Mask × Nat × Nat × BitVec 3) : State :=
  let put (c : List (Nat × Byte)) := ((List.range bs.length).zip bs).foldl (fun c (i, v) => putByte c (off % 256 + i) v) c
  if s.rwc.any (RwcLine.isFor core gid team dev win (off / 256)) then
    let add (r : RwcLine) : RwcLine := { r with cells := put r.cells, lanes := r.lanes ++ [store] }
    { s with rwc := modify (RwcLine.isFor core gid team dev win (off / 256)) add s.rwc }
  else
    { s with rwc := s.rwc ++ [⟨core, gid, team, dev, win, off / 256, put [], [store], rwcAge s part, s.time.toNat,
      part, classOfGrid s gid⟩] }

/-! ## Fragments that leave an instruction (R352, R354) -/

/-- R101: the descriptor id of a label. -/
def labelId (l : Dword) : BitVec 24 := l.extractLsb' 40 24

/-- A status flag of a descriptor: a bit of its bytes 0x20 to 0x27. -/
def setDescFlag (s : State) (descPa bit : Nat) : State :=
  let w := read64 s (descPa + 0x20)
  if w.getLsbD bit then s else write64 s (descPa + 0x20) (w ||| BitVec.ofNat 64 (2 ^ bit))

/-- R360: the reduction a fragment at home belongs to, while its descriptor is open. -/
def openRed (s : State) (f : Frag) : Option RedOpen :=
  s.reds.find? fun r => r.descPa == f.pa && r.part == f.part && r.id == labelId f.label && r.closedAt.isNone

/-- An open reduction changed. -/
def modRed (s : State) (r : RedOpen) (f : RedOpen → RedOpen) : State :=
  { s with reds := modify (fun x => x.part == r.part && x.id == r.id && x.closedAt.isNone) f s.reds }

/-- A status flag of an open reduction: in its descriptor, and in what the device knows of it. DUPLICATE (bit 17) tells
of an overlap (R368). -/
def setRedFlag (s : State) (r : RedOpen) (bit : Nat) : State :=
  modRed (setDescFlag s r.descPa bit) r fun r => { r with
    image := r.image.set 4 (r.image.getD 4 0 ||| BitVec.ofNat 64 (2 ^ bit))
    overlap := r.overlap || bit == 17 }

/-- R386: the fabric tenant identifier of a partition. -/
def ftidOf (s : State) (part : Nat) : BitVec 16 := BitVec.ofNat 16 (bits (pregs s part).ftid 0 16)

/-- R452: a flag the next fragment of a key carries home. -/
def carryFlags (s : State) (key : SlotKey) (dup orphan : Bool) : State :=
  if s.carried.any fun x => x.key == key then
    let add (x : Carried) : Carried := { x with dup := x.dup || dup, orphan := x.orphan || orphan }
    { s with carried := modify (fun x => x.key == key) add s.carried }
  else { s with carried := s.carried ++ [⟨key, dup, orphan⟩] }

/-- R368: DUPLICATE (bit 17) or ORPHAN (bit 18) of the fragment's reduction: in the descriptor at home, carried
towards it elsewhere. -/
def reportFrag (s : State) (f : Frag) (dup orphan : Bool) : State :=
  match f.remote with
  | some (dev, _, _) => carryFlags s ⟨dev, ftidOf s f.part, labelId f.label⟩ dup orphan
  | none =>
    match openRed s f with
    | some r =>
      let s := if dup then setRedFlag s r 17 else s
      if orphan then setRedFlag s r 18 else s
    | none => s

/-- R102, R273, R353: a node that breaks its range is not sent, and sets ORPHAN; any other fragment sets out for the core
pairing buffer, and the split of owner stalls until it has entered. -/
def sendFrag (s : State) (core : Nat) (owner : Option (Nat × Mask)) (f : Frag) : State :=
  if f.orphan then reportFrag s f false true else { s with flights := s.flights ++ [⟨.core, core, f, owner⟩] }

/-- R273: nodes of a group's splits that have lanes in a mask have neither entered a buffer nor been dropped. -/
def nodesOut (s : State) (core gslot : Nat) (lanes : Mask) : Bool :=
  let mine (c : Nat) (o : Option (Nat × Mask)) : Bool :=
    c == core && (match o with
      | some (g, m) => g == gslot && m &&& lanes != 0
      | none => false)
  s.flights.any (fun x => mine x.core x.owner) || s.refused.any fun x => mine x.core x.owner

/-! ## What a group and its team have outstanding on path X (R330, R333, R339, R340) -/

/-- The team's outstanding count goes up. -/
def countOut (s : State) (gid team : Nat) : State :=
  modTeam s gid team fun t => { t with outstanding := t.outstanding + 1 }

/-- R339: the lines of a team are due at once. -/
def hastenTeam (s : State) (gid team : Nat) : State :=
  { s with rwc := modify (fun r => r.gid == gid && r.team == team) (fun r => { r with age := 0 }) s.rwc }

/-- R340: the buffer holds no line of the team and nothing is outstanding. -/
def remoteQuiet (s : State) (gid team : Nat) : Bool :=
  !(s.rwc.any fun r => r.gid == gid && r.team == team) &&
    (match teamOf s gid team with
      | some t => t.outstanding == 0
      | none => true)

/-- The request is a remote load of a group that has not taken its value. -/
def Req.loads (core gslot : Nat) (r : Req) : Bool :=
  match r.kind with
  | .load c g _ _ _ _ _ => c == core && g == gslot
  | .loadS c g _ _ _ _ => c == core && g == gslot
  | .store _ _ _ => false
  | .atomic _ _ _ _ _ _ _ _ _ => false
  | .multicast _ => false
  | .frag => false
  | .token _ _ _ _ => false
  | .cmd _ _ => false
  | .desc _ _ _ => false

/-- The request is an access of a group on path X that has not been answered. -/
def Req.ofGroup (g : Group) (r : Req) : Bool :=
  Req.loads g.core g.gslot r ||
  match r.kind with
  | .atomic c k _ _ _ _ _ _ _ => c == g.core && k == g.gslot
  | .store gid team lanes => gid == g.gid && team == g.team && lanes.any fun x => x.2.1 == g.gslot
  | .load _ _ _ _ _ _ _ => false
  | .loadS _ _ _ _ _ _ => false
  | .multicast _ => false
  | .frag => false
  | .token _ _ _ _ => false
  | .cmd _ _ => false
  | .desc _ _ _ => false

/-- R330: a load the group issued on path X has not taken its value, so no later store of it on that path goes on. -/
def loadsOut (s : State) (g : Group) : Bool := s.reqs.any (Req.loads g.core g.gslot)

/-- R333: an access of the group on path X has not been performed: a load, an atomic, a store in the buffer or on its
way, a multicast of its team. [log DEDUCED 36] -/
def remoteOut (s : State) (g : Group) : Bool :=
  (s.rwc.any fun r => r.gid == g.gid && r.team == g.team && r.lanes.any fun x => x.2.1 == g.gslot) ||
    s.reqs.any (Req.ofGroup g) ||
    s.mcFlights.any fun f => f.reply.isNone && f.gid == g.gid && f.team == g.team

/-- R333, R340: an access that releases with this order code (R141) may be performed: at scope c or d once the group's
earlier accesses on path X have been, at scope f once the team has nothing outstanding. [log DEDUCED 36] -/
def releaseReady (s : State) (g : Group) (ord : Nat) : Bool :=
  if ord = 5 then remoteQuiet s g.gid g.team else if ord = 3 ∨ ord = 4 then !remoteOut s g else true

/-! ## Regions (R267 to R269) -/

/-- The 256-byte lines of the region store buffer an entry occupies: a store's line, or two of a node. [log DEDUCED
49] -/
def RegionEntry.lines : RegionEntry → List (Nat × Nat)
  | .bytes _ _ cells _ => (cells.map fun c => (0, c.1 / 256)).eraseDups
  | .remote _ dev win off _ _ _ _ => [(1 + dev.toNat * 4096 + win.toNat, off / 256)]
  | .stage team bank off _ _ => [(2 ^ 30 + team, bank * 256 + off / 256)]
  | .node _ _ => []

/-- How many lines a buffer occupies: entries of one line merge, each node takes two. [log DEDUCED 49] -/
def regionLines (buf : List RegionEntry) : Nat :=
  (buf.flatMap RegionEntry.lines).eraseDups.length +
    2 * (buf.filter fun e => match e with
      | .node _ _ => true
      | .bytes _ _ _ _ => false
      | .remote _ _ _ _ _ _ _ _ => false
      | .stage _ _ _ _ _ => false).length

/-- R268: one buffered access, performed as though the group issued it now. [log DEDUCED 17; DESIGN CHOICE 18] -/
def performEntry (g : Group) (part : Nat) (s : State) : RegionEntry → State
  | .bytes _ _ cells _ =>
    pushTick { s with
      mem := setCells s.mem (cells.filter fun c => !inRetired s c.1)
      poison := clearPoison s.poison (cells.headD (0, 0)).1 cells.length
      reported := clearPoison s.reported (cells.headD (0, 0)).1 cells.length } g.core g.gslot
  | .remote _ dev win off bs m rq _ => rwcPut s g.core g.gid g.team part dev win off bs (m, g.gslot, g.grpid, rq)
  | .stage team bank off bs _ => pushTick (modBank s g.gid team bank fun b => bankPut b off bs) g.core g.gslot
  | .node _ fs => fs.foldl (fun s f => sendFrag s g.core (some (g.gslot, BitVec.allOnes 32)) f) s

/-- R268, R333, R339, R340: a buffered access can be performed now: it has a line where it needs one, and what it
releases has been performed. -/
def entryReady (s : State) (g : Group) : RegionEntry → Bool
  | .bytes _ _ _ ord => releaseReady s g ord.toNat
  | .remote _ dev win off _ _ _ ord => releaseReady s g ord.toNat && rwcRoom s g.core g.gid g.team dev win (off / 256)
  | .stage _ _ _ _ ord => releaseReady s g ord.toNat
  | .node _ _ => true

/-- R268: the buffered accesses performed, in order, up to the first that cannot be; and those left. -/
def performReady (g : Group) (part : Nat) : List RegionEntry → State → List RegionEntry × State
  | [], s => ([], s)
  | e :: t, s => if entryReady s g e then performReady g part t (performEntry g part s e) else (e :: t, s)

/-- R339: a release at scope f that has to wait hastens the team's lines. -/
def hastenFor (s : State) (g : Group) : List RegionEntry → State
  | [] => s
  | e :: _ =>
    let f := match e with
      | .bytes _ _ _ ord => ord == 5#4
      | .remote _ _ _ _ _ _ _ ord => ord == 5#4
      | .stage _ _ _ _ _ => false
      | .node _ _ => false
    if f then hastenTeam s g.gid g.team else s

/-- R268, R269: the open region of a group commits as far as it can; whether it has closed: every access is performed,
and every node has entered or been dropped. -/
def commitStep (s : State) (g : Group) : State × Bool :=
  match g.region with
  | none => (s, true)
  | some r =>
    let (rest, t) := performReady g (partOf s g) r.buf s
    if rest.isEmpty && !nodesOut t g.core g.gslot (BitVec.allOnes 32) then
      (modGroup t g.core g.gslot fun g => { g with region := none }, true)
    else
      (modGroup (hastenFor t g rest) g.core g.gslot fun g =>
        { g with region := some { r with buf := rest, closing := true } }, false)

/-- R268, R273: the commit of a group's region can be completed now. -/
def commitReady (s : State) (g : Group) : Bool := (commitStep s g).2

/-- R268, R269: the open region of a group commits and closes, as far as it can. -/
def commitRegion (s : State) (g : Group) : State := (commitStep s g).1

/-- R268: the group's region is committing: nothing of the group goes on before it has closed. -/
def Group.closing (g : Group) : Bool :=
  match g.region with
  | some r => r.closing
  | none => false

/-! ## The end of a grid (R316, R398) -/

/-- R316: the completion word. -/
def completionWord (g : Grid) : Dword :=
  BitVec.ofNat 64 (g.outcome.toNat + 4 * g.sticky.toNat + (if g.cfail then 128 else 0) + 256 * g.cause.toNat)

/-- R398: the completion word is written as a release, or its loss recorded. -/
def writeCompletion (s : State) (g : Grid) : State :=
  if g.record.completion = 0 then s
  else
    let va := g.record.completion.toNat
    match localPa s g.part g.gid va true with
    | some pa => write64 s pa (completionWord g)
    | none =>
      let denied := if va < 2 ^ 56 then deniedErrs (access s walkerTlb g.part g.gid va true false) else []
      errPart (errParts s g.part denied) g.part ⟨10, 100, 0xFFFF, g.gid, g.record.completion.toNat⟩

/-- A request whose group has ended: what it brings back is dropped. [log DEDUCED 35, 51] -/
def Req.orphaned (core gslot : Nat) (r : Req) : Req :=
  match r.kind with
  | .load c g reg lane n t rq => if c == core && g == gslot then { r with kind := .load c 64 reg lane n t rq } else r
  | .loadS c g reg n m rq => if c == core && g == gslot then { r with kind := .loadS c 64 reg n m rq } else r
  | .atomic c g gid team reg lane n t rq =>
    if c == core && g == gslot then { r with kind := .atomic c 64 gid team reg lane n t rq } else r
  | .store _ _ _ => r
  | .multicast _ => r
  | .frag => r
  | .token _ _ _ _ => r
  | .cmd _ _ => r
  | .desc c g m => if c == core && g == gslot then { r with kind := .desc c 64 m } else r

/-- What is on its way to a group slot, or waits for it, is dropped or goes on without it. [log DEDUCED 51] -/
def forgetGroup (s : State) (core gslot : Nat) : State :=
  let disown (c : Nat) (o : Option (Nat × Mask)) : Option (Nat × Mask) :=
    if c == core then o.filter fun x => x.1 != gslot else o
  { s with
    reqs := s.reqs.map (Req.orphaned core gslot)
    descs := s.descs.filter fun d => !(d.core == core && d.gslot == gslot)
    flights := s.flights.map fun x => { x with owner := disown x.core x.owner }
    refused := s.refused.map fun x => { x with owner := disown x.core x.owner }
    regWaits := s.regWaits.filter fun w => !(w.core == core && w.gslot == gslot)
    ticks := s.ticks.filter fun t => !(t.core == core && t.gslot == gslot)
    turn := s.turn.filter fun i => !(i.core == core && i.gslot == gslot) }

/-- R398: what a grid leaves behind when it ends: its groups and teams go without save and its queued commands are
dropped. Started commands stay, and with them the banks and accumulators of their teams. [log DEDUCED 40] -/
def clearGrid (s : State) (gid : Nat) : State :=
  let s' := (s.groups.filter fun g => g.gid == gid).foldl (fun s g => forgetGroup s g.core g.gslot) s
  { s' with
    groups := s.groups.filter fun g => g.gid != gid
    teams := s.teams.filterMap fun t =>
      if t.gid != gid then some t
      else if s.cmds.any fun c => c.gid == gid && c.team == t.team && c.phase != .queued then
        some { t with phase := .removed }
      else none
    cmds := s.cmds.filter fun c => c.gid != gid || c.phase != .queued
    barriers := s.barriers.filter fun b => b.inst.gid != gid }

/-- R398: no access of the grid is outstanding: a started command, a line or store on its way to a peer, a multicast,
a `red.init`. [log DEDUCED 40] -/
def gridQuiet (s : State) (gid : Nat) : Bool :=
  !(s.cmds.any fun c => c.gid == gid) && !(s.rwc.any fun r => r.gid == gid) &&
    !(s.mcFlights.any fun f => f.reply.isNone && f.gid == gid) && !(s.redReqs.any fun q => q.gid == gid) &&
    !(s.reqs.any fun r => match r.kind with
      | .store g _ _ => g == gid
      | .atomic _ _ g _ _ _ _ _ _ => g == gid
      | .load _ _ _ _ _ _ _ => false
      | .loadS _ _ _ _ _ _ => false
      | .multicast _ => false
      | .frag => false
      | .token _ _ _ _ => false
      | .cmd _ _ => false
      | .desc _ _ _ => false)

/-- R398: a grid whose outcome stands has ended once its accesses are over: its completion word is written. [log
DEDUCED 40] -/
def closeGrid (s : State) (gid : Nat) : State :=
  match gridOf s gid with
  | none => s
  | some g =>
    if g.phase = .ending && gridQuiet s gid then
      let g' := { g with phase := .ended }
      writeCompletion (modGrid { s with teams := s.teams.filter fun t => t.gid != gid } gid fun _ => g') g'
    else s

/-- R398: a grid ends, once, with an outcome and a cause, as soon as its accesses are over. [log DEDUCED 40] -/
def endGrid (s : State) (gid : Nat) (outcome : BitVec 2) (cause : BitVec 8) : State :=
  match gridOf s gid with
  | none => s
  | some g =>
    if g.phase = .ended || g.phase = .ending then s
    else
      closeGrid (modGrid (clearGrid s gid) gid fun g =>
        { g with phase := .ending, outcome := outcome, cause := cause }) gid

/-- FailGrid: the grid fails with a cause of R398. [log DEDUCED 40] -/
def failGrid (s : State) (gid cause : Nat) : State := endGrid s gid 1 (BitVec.ofNat 8 cause)

/-! ## Taking a precise trap and returning (R245, R248) -/

/-- R230: a trap-return entry. -/
def trapReturn (resume : Dword) : Dword := resume ||| 0x8000_0000_0000_0001#64

/-- The OR of lst over some lanes. -/
def stickyOr (g : Group) (lanes : Mask) : BitVec 5 := (lanesIn lanes).foldl (fun f l => f ||| vget g.lst l 0) 0

/-- lst with the given lanes cleared. -/
def clearSticky (g : Group) (lanes : Mask) : Group :=
  { g with lst := ⟨((List.range 32).map fun l => if lanes.getLsbD l then 0 else vget g.lst l 0).toArray, by simp⟩ }

/-- R245: the trap frame. [log DEDUCED 41] -/
def frameBytes (s : State) (t : Trp) (pcf resume : Dword) (mask : Mask) (sticky : BitVec 5) : List Byte :=
  bytesOfNat 8 (t.cause + 256 * (t.n % 128)) ++ bytesOfNat 8 pcf.toNat ++ bytesOfNat 8 resume.toNat ++
    bytesOfNat 8 t.info ++ bytesOfNat 4 mask.toNat ++ bytesOfNat 4 t.lanes.toNat ++
    bytesOfNat 8 sticky.toNat ++ bytesOfNat 8 s.time.toNat ++ bytesOfNat 8 0

/-- The bookkeeping of an issue: when the split last issued (R403, R406). -/
def stampSplit (s : State) (p : Split) : Split :=
  { p with lastIssue := some s.clk.toNat, since := s.time.toNat, lostPort := false, idle := none, fifo := none }

/-- R245: EnterTrap for the split of an entry, after the group's region has committed (R269). [log DEDUCED 41] -/
def enterTrapAt (s : State) (who : Issuer) (pcf next : Dword) (t : Trp) : State :=
  match groupAt s who.core who.gslot with
  | none => s
  | some g =>
    let p := splitAt g who.entry
    let part := partOf s g
    let resume := if t.after then next else pcf
    let handler := match gridOf s g.gid with
      | some gr => gr.record.handler
      | none => 0
    let fa := (vget g.s 55 0).toNat + 64 * lowestLane p.arch.mask
    let tlb := coreTlb g.core
    if handler = 0 then failGrid s g.gid (0x10 + t.cause)
    else if 4 ≤ p.arch.link.length then failGrid s g.gid 0x1F
    else if !fetchable s tlb part g.gid handler.toNat then
      failGrid (errParts s part (if handler.toNat < 2 ^ 56 then
        deniedErrs (access s tlb part g.gid handler.toNat false true) else [])) g.gid 0x1F
    else if fa % 64 ≠ 0 then failGrid s g.gid 0x1F
    else
      match writablePa s tlb part g.gid fa with
      | none => failGrid (errParts s part (if fa < 2 ^ 56 then
          deniedErrs (access s tlb part g.gid fa true false) else [])) g.gid 0x1F
      | some pa =>
        let s' := pushTick (writeBytes s pa (frameBytes s t pcf resume p.arch.mask (stickyOr g t.lanes)))
          g.core g.gslot
        let s' := tap s' (8 * g.core + 3) 0 part (t.cause + 256 * g.gslot)
        let g := if t.cause = causeSticky then clearSticky g t.lanes else g
        let p := { stampSplit s p with
          arch := { p.arch with pc := handler, link := p.arch.link ++ [trapReturn resume] }
          chain := 0, latches := [], waitsIn := none }
        putGroup s' (putSplit g who.entry p)

/-- A descriptor read of the split with these lanes of a group slot. -/
def DescRead.isOf (core gslot : Nat) (lanes : Mask) (d : DescRead) : Bool :=
  d.core == core && d.gslot == gslot && d.lanes == lanes

/-- R245, R269, R381: an instruction's precise trap: its error-queue entries and residency requests, the commit of
the open region, and the entry to the handler or the failure of the grid. A descriptor read it had asked for is done
with. -/
def enterTrap (s : State) (c : Cur) (t : Trp) : State :=
  match groupAt s c.who.core c.who.gslot with
  | none => s
  | some g =>
    let part := partOf s g
    let s := errParts s part t.errs
    let s := t.posts.foldl (fun s (src, va) => postRes s part src g.gid va)
      (keepTlb s (coreTlb g.core) part g.gid (t.posts.map Prod.snd))
    let s := { s with
      descs := s.descs.filter fun d => !DescRead.isOf g.core g.gslot (splitAt g c.who.entry).arch.mask d }
    enterTrapAt (commitRegion s g) c.who c.pcf c.next t

/-- R248: the split after sys.rte: the top entry, a trap return, popped. -/
def returnFromTrap (p : SplitRec) : Option SplitRec :=
  match p.link.getLast? with
  | none => none
  | some e =>
    if e.getLsbD 63 && e.getLsbD 0 && e.extractLsb' 56 7 == 0#7 then
      some { p with pc := (e &&& 0x00FF_FFFF_FFFF_FFFE#64), link := p.link.dropLast }
    else none

/-! ## Carrying out a program instruction -/

/-- What an instruction of a split works on. -/
structure Ctx where
  cur : Cur
  g : Group
  p : Split
  part : Nat
  deriving DecidableEq, Repr

/-- The mask of the issuing split. -/
def Ctx.mask (c : Ctx) : Mask := c.p.arch.mask

/-- The split of the current instruction, or the fault noIssuer. -/
def withCtx (s : State) (k : Ctx → Host.Outcome State Fault Refusal) : Host.Outcome State Fault Refusal :=
  match s.cur with
  | none => .fault .noIssuer
  | some cur =>
    match groupAt s cur.who.core cur.who.gslot with
    | none => .fault .noIssuer
    | some g =>
      let p := splitAt g cur.who.entry
      if p.live then k ⟨cur, g, p, partOf s g⟩ else .fault .noIssuer

/-- R403, R406: the issuing split's instruction waits for what it needs: it has not issued. -/
def stalled (s : State) (c : Ctx) : State :=
  modGroup s c.cur.who.core c.cur.who.gslot fun g =>
    let p := splitAt g c.cur.who.entry
    putSplit g c.cur.who.entry { p with idle := some (p.idle.getD s.time.toNat) }

/-- The end of an instruction: its effect, its trap once the region has committed, or a stall. [log DESIGN CHOICE 8] -/
def finish (s : State) (c : Ctx) (r : Ex State) : Host.Outcome State Fault Refusal :=
  match r with
  | .ok t => .next { t with freeCtr := s.freeCtr + 1024 }
  | .error .stall => .next (stalled s c)
  | .error (.held t) => .next (stalled { t with freeCtr := s.freeCtr + 1024 } c)
  | .error (.trap t) =>
    if commitReady s c.g then .next { enterTrap s c.cur t with freeCtr := s.freeCtr + 1024 }
    else .next (stalled { commitRegion s c.g with freeCtr := s.freeCtr + 1024 } c)

/-- A program instruction: its context, its body, its end; while the group's region is committing, that goes first
(R268). -/
def runInstr (s : State) (body : Ctx → Ex State) : Host.Outcome State Fault Refusal :=
  withCtx s fun c => finish s c (if c.g.closing then .error (.held (commitRegion s c.g)) else body c)

/-- R35, R133: the issuing split after an instruction that falls through: the next pc, and its chain and latches. -/
def advance (s : State) (c : Ctx) (chain : Bool) (latch : Option Latch) (p : Split) : Split :=
  { stampSplit s p with
    arch := { p.arch with pc := c.cur.next }
    chain := if chain then p.chain + 1 else 0
    latches := if chain then (latch :: p.latches).take 9 else [] }

/-- The group with its issuing split advanced. -/
def advanceGroup (s : State) (c : Ctx) (chain : Bool) (latch : Option Latch) (g : Group) : Group :=
  putSplit g c.cur.who.entry (advance s c chain latch (splitAt g c.cur.who.entry))

/-- A state in which the issuing split has fallen through to the next instruction. -/
def retire (s : State) (c : Ctx) : State :=
  modGroup s c.cur.who.core c.cur.who.gslot (advanceGroup s c false none)

/-- R238: the issuing split waits in a state, to issue the same instruction again, or, with done, past it. An instruction
that issues again is still the same member of its chain (R36). -/
def waitSplit (s : State) (c : Ctx) (st : SplitState) (why : Option Instr) (done : Bool) : State :=
  modGroup s c.cur.who.core c.cur.who.gslot fun g =>
    let p := splitAt g c.cur.who.entry
    putSplit g c.cur.who.entry { stampSplit s p with
      arch := { p.arch with pc := if done then c.cur.next else c.cur.pcf, state := st }
      chain := if done then 0 else p.chain
      latches := if done then [] else p.latches
      waitsIn := why }

/-- A waiting split, at a place of its group, becomes Ready. -/
def wakeSplit (s : State) (core gslot place : Nat) : State :=
  modGroup s core gslot fun g =>
    let p := splitIn g place
    putIn g place { p with arch := { p.arch with state := .ready }, waitsIn := none, since := s.time.toNat }

/-- A group's waiting split with these lanes, resident or parked, becomes Ready. -/
def wakeLanes (s : State) (core gslot : Nat) (lanes : Mask) : State :=
  match groupAt s core gslot with
  | none => s
  | some g =>
    match (placesOf g).find? fun e => (splitIn g e).arch.mask == lanes && (splitIn g e).live with
    | some e => wakeSplit s core gslot e
    | none => s

/-- R269: the body after the group's region has committed; it stalls while the commit cannot be performed. [log
DEDUCED 38, 73] -/
def committed (s : State) (c : Ctx) (k : State → Ctx → Ex State) : Ex State :=
  if commitReady s c.g then
    let s := commitRegion s c.g
    k s { c with g := { c.g with region := none } }
  else .error (.held (commitRegion s c.g))

end Sys2Proof.Machine
end

