-- ==== Sys2Proof/Machine/Flags.lean ====
section
/-! DEFINITION. Machine/Flags.lean: the sticky status (R42, R68, R86, R244, R249), and the flags of an operation on
elements (R73, R86). -/
namespace Sys2Proof.Machine

/-- R68: Sticky, for every lane at once: flags are ORed into lst and never cleared. -/
def addSticky (g : Group) (f : Nat → Flags) : Group :=
  { g with lst := ⟨((List.range 32).map fun l => vget g.lst l 0 ||| f l).toArray, by simp⟩ }

/-- R49: FM in the lst of each active lane. -/
def stickyFM (g : Group) (m : Mask) : Group := addSticky g fun l => if m.getLsbD l then flagFM else 0

/-- R73, R86: NV for a signalling NaN among the operands of a format. -/
def snanFlag (f : Flt) (xs : List Nat) : Flags := if xs.any f.isSNaN then flagNV else 0

/-- R87: the result that is infinite by definition, with DZ. -/
def poleResult (f : Flt) (neg : Bool) : Nat × Flags :=
  let (c, F) := f.infResult neg
  (c, F ||| flagDZ)

/-- R181: a rounded result with the flags of its operands and its operation. -/
def roundWith (f : Flt) (rm : Rm) (ops : List Nat) (r : XVal × Flags) : Nat × Flags :=
  let (c, F) := f.round rm r.1
  (c, F ||| r.2 ||| snanFlag f ops)

/-- R244: the report of sys.stat over a mask. -/
def statReport (g : Group) (m : Mask) : Dword :=
  let lanes := maskOf fun l => m.getLsbD l && vget g.lst l 0 != 0
  BitVec.ofNat 64 ((stickyOr g m).toNat + 2 ^ 32 * lanes.toNat)

/-- R249: whether the sticky report of some lanes enters the grid's handler. -/
def reportTraps (gr : Grid) (bits : BitVec 5) : Bool := gr.record.handler != 0 && (bits &&& gr.record.rmask) != 0

end Sys2Proof.Machine
end

