-- ==== Sys2Proof/Machine/Operands.lean ====
section
/-! DEFINITION. Machine/Operands.lean: reading and writing registers, the operand forms of an instruction's fields,
guards, and the checks of R146 and R147 (R24 to R45, R63 to R67, R122 to R132). -/
namespace Sys2Proof.Machine

/-! ## Vector registers -/

/-- An empty register: U32 zeros (R57). -/
def VReg.zero : VReg := ⟨0, Vector.replicate 32 0⟩

/-- Register vn. -/
def vreg (g : Group) (n : Nat) : VReg := vget g.v n VReg.zero

/-- Tag(n). -/
def tagOf (g : Group) (n : Nat) : Tag := (vreg g n).tag

/-- R25, R26: the register is of the base block or of a block the group holds. -/
def heldReg (g : Group) (n : Nat) : Bool := n < 32 || (n < 120 && g.held.getLsbD ((n - 32) / 8))

/-- R66 for one register: the lanes of M take x; a retag zeroes the others. -/
def writeLanes (r : VReg) (M : Mask) (x : Lanes) (t : Tag) : VReg :=
  ⟨t, lanesOf fun l => if M.getLsbD l then laneGet x l else if r.tag = t then laneGet r.lane l else 0⟩

/-- R66: WriteV of a 32-bit result to one register. -/
def writeV1 (g : Group) (n : Nat) (M : Mask) (x : Lanes) (t : Tag) : Group :=
  { g with v := vset g.v n (writeLanes (vreg g n) M x t) }

/-- The low words of lane values. -/
def loWords (x : Nat → Dword) : Lanes := lanesOf fun l => (x l).setWidth 32
/-- The high words of lane values. -/
def hiWords (x : Nat → Dword) : Lanes := lanesOf fun l => (x l).extractLsb' 32 32

/-- R28, R66: WriteV; an FP64 result goes to both registers of the pair. -/
def writeV (g : Group) (n : Nat) (M : Mask) (x : Nat → Dword) (t : Tag) : Group :=
  if isF64 t then writeV1 (writeV1 g n M (loWords x) t) (n + 1) M (hiWords x) t
  else writeV1 g n M (loWords x) t

/-! ## Guards (R122, R132) -/

/-- The value of the guard in every lane. -/
def guardMask (g : Group) (o : OperandPfx) (guard : BitVec 2) : Mask :=
  if o.gen then (if o.gneg then ~~~ vget g.q o.gq.toNat 0 else vget g.q o.gq.toNat 0)
  else if guard = 0#2 then BitVec.allOnes 32
  else if guard = 1#2 then vget g.q 0 0
  else if guard = 2#2 then ~~~ vget g.q 0 0
  else vget g.q 1 0

/-- R63: ActiveMask. -/
def activeMask (c : Ctx) (o : OperandPfx) (guard : BitVec 2) : Mask := c.mask &&& guardMask c.g o guard

/-- R37: a predicate written in the lanes of a mask. -/
def writeQ (g : Group) (n : Nat) (M v : Mask) : Group :=
  { g with q := vset g.q n ((vget g.q n 0 &&& ~~~ M) ||| (v &&& M)) }

/-- R129, R262: the residency predicate that x names. -/
def residQ (x : BitVec 6) : Nat := 7 - x.toNat % 8

/-! ## Scalar and special registers (R38 to R47) -/

/-- R41: the writes of one cycle to one register: the highest group slot's stands. [log DESIGN CHOICE 30] -/
def wApply (ws : List WWrite) (reg : Nat) (upTo : Nat) (v : Dword) : Dword :=
  let due := ws.filter fun w => w.reg == reg && w.cycle ≤ upTo
  match due.foldl (fun (b : Option WWrite) w => match b with
    | none => some w
    | some x => if x.cycle < w.cycle || (x.cycle == w.cycle && x.gslot ≤ w.gslot) then some w else some x) none with
  | some w => w.value
  | none => v

/-- R40, R41: a read of wn in the present cycle. One cycle after a write it gives the old value or the new one. [log
DESIGN CHOICE 30] -/
def readW (s : State) (t : Team) (n : Nat) : Dword :=
  let c := s.clk.toNat
  let v := vget t.w n 0
  let old := if c < 2 then v else wApply t.wq n (c - 2) v
  let new := if c < 1 then v else wApply t.wq n (c - 1) v
  if (Config.freeValue (s.freeCtr + n)).getLsbD 0 then new else old

/-- R40: a write of wn; writes two cycles old have reached the register. [log DESIGN CHOICE 30] -/
def writeW (s : State) (gslot : Nat) (n : Nat) (v : Dword) (t : Team) : Team :=
  let c := s.clk.toNat
  let settled : Vector Dword 16 :=
    ⟨((List.range 16).map fun i => if c < 2 then vget t.w i 0 else wApply t.wq i (c - 2) (vget t.w i 0)).toArray,
      by simp⟩
  let pend := if c < 2 then t.wq else t.wq.filter fun w => !(w.cycle ≤ c - 2)
  { t with w := settled, wq := pend ++ [⟨n, v, c, gslot⟩] }

/-- R43 to R47: a special register, read by the split of an entry. -/
def specialReg (s : State) (g : Group) (entry : Nat) (code : Nat) : Dword :=
  let (w, h) := clusterSize s g.gid
  let m := (splitAt g entry).arch.mask
  match code with
  | 80 => BitVec.ofNat 64 g.grpid
  | 81 => BitVec.ofNat 64 (4 * g.gslot + entry)
  | 82 => BitVec.ofNat 64 g.team
  | 83 => BitVec.ofNat 64 (g.team % (w * h) % w + 16 * (g.team % (w * h) / w))
  | 84 => BitVec.ofNat 64 (w + 16 * h)
  | 85 => BitVec.ofNat 64 (g.gid % 2 ^ 32)
  | 86 => s.devid.setWidth 64
  | 87 => g.ctl
  | 88 => Config.capml
  | 89 => Config.capmh
  | 90 => (stickyOr g m).setWidth 64
  | 91 => g.hz
  | 92 => s.time
  | 93 => m.setWidth 64
  | 94 => g.xi.setWidth 64
  | 95 => BitVec.ofNat 64 g.gslot
  | _ => 0

/-- R67: SrcS, for the codes 0 to 95 that a legal field holds. -/
def srcS (s : State) (c : Ctx) (code : BitVec 7) : Dword :=
  let n := code.toNat
  if n < 64 then vget c.g.s n 0
  else if n < 80 then
    match teamOf s c.g.gid c.g.team with
    | some t => readW s t (n - 64)
    | none => 0
  else specialReg s c.g c.cur.who.entry n

/-- R67: WriteS of a code 0 to 79, over the state. -/
def writeS (s : State) (c : Ctx) (code : BitVec 7) (v : Dword) : State :=
  let n := code.toNat
  if n < 64 then
    modGroup s c.cur.who.core c.cur.who.gslot fun g => { g with s := vset g.s n v }
  else if n < 80 then modTeam s c.g.gid c.g.team (writeW s c.g.gslot (n - 64) v)
  else s

/-! ## Sources -/

/-- What a vector field names, after xi indexing (R64, R65). -/
inductive Src where
  /-- no operand: an absent field, or `_` -/
  | none
  | reg (n : Nat)
  | latch (k : Nat)
  | zero
  | lane
  | imm (v : BitVec 22)
  | scalar (v : Dword)
  deriving DecidableEq, Repr

/-- R36: the latch bk of a split. -/
def latchOf (p : Split) (k : Nat) : Option Latch := (p.latches[k]?).join

/-- R65, R123: what a vector source code names; the illegal-operand trap where it names nothing. -/
def srcCode (c : Ctx) (p : Pfx) (code : BitVec 7) (ix : Bool) : Ex Src :=
  let n := code.toNat
  if ix then
    if n ≤ 119 then .ok (.reg (n + c.g.xi.toNat)) else trapOn causeIllegalOperand c.mask
  else if n ≤ 119 then .ok (.reg n)
  else if n ≤ 123 then
    if (latchOf c.p (n - 120)).isSome then .ok (.latch (n - 120)) else trapOn causeIllegalOperand c.mask
  else if n = 124 then .ok .zero
  else if n = 125 then .ok .lane
  else if n = 126 then
    match p.immediate with
    | some v => .ok (.imm v)
    | Option.none => trapOn causeIllegalOperand c.mask
  else trapOn causeIllegalOperand c.mask

/-- R123, R254: a base of a pair or quad must be a register whose code, and number, is a multiple of k. -/
def baseCode (c : Ctx) (code : BitVec 7) (ix : Bool) (k : Nat) : Ex Src :=
  let n := code.toNat
  let m := if ix then n + c.g.xi.toNat else n
  if n ≤ 119 && n % k == 0 && m % k == 0 then .ok (.reg m) else trapOn causeIllegalOperand c.mask

/-- R123, R34, R254: what a vector destination code names: a register, or nothing for `_`, which a quad cannot be. -/
def dstCode (c : Ctx) (code : BitVec 7) (ix : Bool) (k : Nat) : Ex Src :=
  let n := code.toNat
  if n = 127 ∧ k ≠ 4 then (if ix then trapOn causeIllegalOperand c.mask else .ok .none)
  else baseCode c code ix k

/-- R137: what a field of a kind names. -/
def fieldSrc (s : State) (c : Ctx) (p : Pfx) (k : Kind) (ix bs : Bool) (code : BitVec 7) : Ex Src :=
  match k with
  | .src => srcCode c p code ix
  | .srcE => baseCode c code ix 2
  | .srcQ => baseCode c code ix 4
  | .srcS =>
    if bs then (if ix then trapOn causeIllegalOperand c.mask else .ok (.scalar (srcS s c code)))
    else srcCode c p code ix
  | .dst => dstCode c code ix 1
  | .dstE => dstCode c code ix 2
  | .dstQ => dstCode c code ix 4
  | .sSrc => .ok .none
  | .sDst => .ok .none
  | .quad => .ok .none
  | .fixed _ => .ok .none

/-- The vector operands of an instruction. -/
structure Opnds where
  d : Src
  a : Src
  b : Src
  c : Src
  deriving DecidableEq, Repr

/-- R133: a chain bit on a chain's ninth instruction. -/
def ninth (c : Ctx) (chain : Bool) : Bool := chain && 8 ≤ c.p.chain

/-- Rows 2 and 3 of R147 that the encoding and the split alone decide: illegal instruction, then illegal operand. -/
def operands (s : State) (c : Ctx) (p : Pfx) (f : WordF) (u : Use) : Ex Opnds := do
  need (u.legal p f && !ninth c f.chain) causeIllegalInstruction c.mask
  let o := p.operand
  let d ← fieldSrc s c p u.d o.xd false f.d
  let a ← fieldSrc s c p u.a o.xa false f.a
  let b ← fieldSrc s c p u.b o.xb o.bs f.b
  let cc ← if u.c == .req then srcCode c p o.c false else .ok .none
  return ⟨d, a, b, cc⟩

/-- The tag that the format check of R168 sees: a register's or a latch's; every other source passes. [log DEDUCED
25, 26] -/
def srcTag (c : Ctx) : Src → Option Tag
  | .none => Option.none
  | .reg n => some (tagOf c.g n)
  | .latch k => (latchOf c.p k).map fun l => l.tag
  | .zero => Option.none
  | .lane => Option.none
  | .imm _ => Option.none
  | .scalar _ => Option.none

/-- R124: the tag a source is read under; a zero, an immediate and a broadcast scalar take the other source's. -/
def readTag (c : Ctx) : Src → Option Tag
  | .none => Option.none
  | .reg n => some (tagOf c.g n)
  | .latch k => (latchOf c.p k).map fun l => l.tag
  | .zero => Option.none
  | .lane => some 0
  | .imm _ => Option.none
  | .scalar _ => Option.none

/-- R130: the immediate as a 32-bit lane operand. -/
def imm32 (v : BitVec 22) : Word :=
  if v.getLsbD 21 then (v.setWidth 21).setWidth 32 <<< 11 else (v.setWidth 21).signExtend 32

/-- R130: the immediate as a 64-bit operand. -/
def imm64 (v : BitVec 22) : Dword :=
  if v.getLsbD 21 then (v.setWidth 21).setWidth 64 <<< 43 else (v.setWidth 21).signExtend 64

/-- R65: the value of an operand in a lane: 64 bits of a pair when wide, else a word. -/
def srcVal (c : Ctx) (wide : Bool) (x : Src) (l : Nat) : Dword :=
  match x with
  | .none => 0
  | .reg n =>
    if wide then laneGet (vreg c.g (n + 1)).lane l ++ laneGet (vreg c.g n).lane l
    else (laneGet (vreg c.g n).lane l).setWidth 64
  | .latch k =>
    match latchOf c.p k with
    | some r => if wide then laneGet r.hi l ++ laneGet r.lo l else (laneGet r.lo l).setWidth 64
    | Option.none => 0
  | .zero => 0
  | .lane => BitVec.ofNat 64 l
  | .imm v => if wide then imm64 v else (imm32 v).setWidth 64
  | .scalar v => if wide then v else (v.setWidth 32).setWidth 64

/-! ## Checks -/

/-- The registers a field names are all held and none lies above v119 (R26, R34). -/
def heldSpan (g : Group) (x : Src) (n : Nat) : Bool :=
  match x with
  | .reg r => (List.range n).all fun i => heldReg g (r + i)
  | .none => true
  | .latch _ => true
  | .zero => true
  | .lane => true
  | .imm _ => true
  | .scalar _ => true

/-- R28, R169: an operand field that names an odd register of FP64. [log DEDUCED 27] -/
def oddPair (f64 : Bool) (x : Src) : Bool :=
  f64 &&
  match x with
  | .reg r => r % 2 == 1
  | .none => false
  | .latch _ => false
  | .zero => false
  | .lane => false
  | .imm _ => false
  | .scalar _ => false

/-- R28, R32, R49: a register read as an FP64 pair, because the instruction reads FP64 there (wide) or because the
register carries FP64, whose two halves do not both carry it. [log DEDUCED 27] -/
def brokenPair (c : Ctx) (wide : Bool) (x : Src) : Bool :=
  match x with
  | .reg r => (wide || isF64 (tagOf c.g r)) && !(isF64 (tagOf c.g r) && isF64 (tagOf c.g (r + 1)))
  | .none => false
  | .latch _ => false
  | .zero => false
  | .lane => false
  | .imm _ => false
  | .scalar _ => false

/-- An operand that carries FP64. [log DEDUCED 27] -/
def carriesF64 (c : Ctx) (x : Src) : Bool :=
  match srcTag c x with
  | some t => isF64 t
  | Option.none => false

/-- R27, R49: the format check of a lane instruction: accepted, masked, or a trap. -/
inductive FmtCheck where
  | ok | masked
  deriving DecidableEq, Repr

/-- R49: a failed format check of a lane instruction is masked by ctl.fmm. -/
def checkFmt (c : Ctx) (accepted : Bool) (lanes : Mask) : Ex FmtCheck :=
  if accepted then .ok .ok
  else if c.g.ctl.getLsbD 1 then .ok .masked
  else trapOn causeFormatMismatch lanes

/-- R35: the latch of a result: in lanes the instruction did not write, what the destination holds after it, or zero
when there is none. -/
def makeLatch (after : Group) (d : Src) (M : Mask) (x : Nat → Dword) (t : Tag) : Latch :=
  let outside (lo : Bool) (l : Nat) : Word :=
    match d with
    | .reg n => laneGet (vreg after (if lo then n else n + 1)).lane l
    | .none => 0
    | .latch _ => 0
    | .zero => 0
    | .lane => 0
    | .imm _ => 0
    | .scalar _ => 0
  ⟨t, lanesOf fun l => if M.getLsbD l then (x l).setWidth 32 else outside true l,
    lanesOf fun l => if M.getLsbD l then (x l).extractLsb' 32 32 else if isF64 t then outside false l else 0⟩

/-- The write-back of a lane result: the destination register, the flags, the latch, and the next instruction. -/
def writeResult (s : State) (c : Ctx) (chain : Bool) (d : Src) (M : Mask) (x : Nat → Dword) (t : Tag)
    (flags : Nat → Flags) : State :=
  let g := match d with
    | .reg n => writeV c.g n M x t
    | .none => c.g
    | .latch _ => c.g
    | .zero => c.g
    | .lane => c.g
    | .imm _ => c.g
    | .scalar _ => c.g
  let g := addSticky g fun l => if M.getLsbD l then flags l else 0
  putGroup s (advanceGroup s c chain (some (makeLatch g d M x t)) g)

/-- R49: a masked format mismatch: FM in the active lanes, no write and no latch. -/
def writeMasked (s : State) (c : Ctx) (chain : Bool) (M : Mask) : State :=
  putGroup s (advanceGroup s c chain none (stickyFM c.g M))

/-- The write-back of a predicate, which leaves no latch (R170). -/
def writePred (s : State) (c : Ctx) (chain : Bool) (q : Nat) (M v : Mask) (flags : Nat → Flags) : State :=
  let g := addSticky (writeQ c.g q M v) fun l => if M.getLsbD l then flags l else 0
  putGroup s (advanceGroup s c chain none g)

/-! ## Lane instructions (R168 to R170) -/

/-- A tag equal to another, or a source that passes. -/
def sameTag (t : Tag) : Option Tag → Bool
  | Option.none => true
  | some x => x == t

/-- A tag of a class, or a source that passes. -/
def tagIn (p : Tag → Bool) : Option Tag → Bool
  | Option.none => true
  | some x => p x

/-- What sets one lane instruction apart, over the tag of a and the tags of b and c where they carry one. -/
structure LaneSem where
  /-- the Src class of source a (R167) -/
  src : Tag → Bool
  /-- what the tags of register and latch sources b and c must be, beside a's tag -/
  ok : Tag → Option Tag → Option Tag → Bool
  /-- ResultTag, of the tags the sources are read under -/
  res : Tag → Option Tag → Tag
  /-- b is a 64-bit operand when a carries FP64 -/
  wideB : Bool
  /-- a lane's result and flags, of the tags a and b are read under and the three values -/
  fn : Tag → Option Tag → Dword → Dword → Dword → Dword × Flags

/-- R124: the tag of source a, U32 for a code without one. [log DEDUCED 25] -/
def tagA (c : Ctx) (o : Opnds) : Tag := (readTag c o.a).getD 0

/-- R124, R168, R196: source a is of its class, or is no register or latch and so passes the check as U32. -/
def passesA (c : Ctx) (o : Opnds) (src : Tag → Bool) : Bool := src (tagA c o) || (srcTag c o.a).isNone

/-- R124: a lane's result where source a passes the check as U32, of which the instruction states no result: a free
value, with free flags. [log DESIGN CHOICE 131] -/
def openLane (s : State) (l : Nat) : Dword × Flags :=
  (Config.freeValue (s.freeCtr + 512 + l), (Config.freeValue (s.freeCtr + 544 + l)).setWidth 5)

/-- Rows 3, 4 and 6 of R147 for a lane instruction with result tag t: FP64 pairs, held registers, formats; f64 tells
that the instruction reads its sources as FP64. [log DEDUCED 27] -/
def laneChecks (c : Ctx) (o : Opnds) (M : Mask) (t : Tag) (f64 wideB accepted : Bool) : Ex FmtCheck := do
  let wa := isF64 (tagA c o)
  need (!(oddPair (carriesF64 c o.a) o.a || oddPair (carriesF64 c o.b) o.b || oddPair (carriesF64 c o.c) o.c ||
    oddPair (isF64 t) o.d)) causeIllegalOperand c.mask
  need (heldSpan c.g o.d (if isF64 t then 2 else 1) && heldSpan c.g o.a (if wa then 2 else 1) &&
    heldSpan c.g o.b (if wa && wideB then 2 else 1) && heldSpan c.g o.c (if wa then 2 else 1))
    causeRegisterBounds c.mask
  need (!(brokenPair c false o.a || (wideB && brokenPair c f64 o.b) || brokenPair c f64 o.c)) causeFormatMismatch M
  checkFmt c accepted M

/-! ## Entering an instruction -/

/-- The pfx, fields and row of a 32-bit instruction; a 16-bit one has none of its own. -/
def coreView (i : Instr) : Option (Pfx × WordF × Use) :=
  match view i with
  | .core p f u => some (p, f, u)
  | .half _ _ => none
  | .filter _ => none
  | .event => none

/-- A 32-bit program instruction: its operands, and then its body. -/
def runCore (i : Instr) (s : State) (body : Ctx → Pfx → WordF → Opnds → Ex State) :
    Host.Outcome State Fault Refusal :=
  runInstr s fun c =>
    match coreView i with
    | some (p, f, u) => do
      let o ← operands s c p f u
      body c p f o
    | none => trapOn causeIllegalInstruction c.mask

/-- R124, R170: a lane's result and flags: the row's where source a is of its class, else open. -/
def rowValue (s : State) (c : Ctx) (o : Opnds) (sem : LaneSem) (l : Nat) : Dword × Flags :=
  let w := isF64 (tagA c o)
  if sem.src (tagA c o) then
    sem.fn (tagA c o) (readTag c o.b) (srcVal c w o.a l) (srcVal c (w && sem.wideB) o.b l) (srcVal c w o.c l)
  else openLane s l

/-- R170: a lane instruction with a vector result, whose row may depend on the group. -/
def runLaneBy (i : Instr) (sem : Group → LaneSem) (s : State) : Host.Outcome State Fault Refusal :=
  runCore i s fun c p f o => do
    let sem := sem c.g
    let ta := tagA c o
    let M := activeMask c p.operand f.guard
    let t := sem.res ta (readTag c o.c)
    let chk ← laneChecks c o M t (isF64 ta && sem.src ta) sem.wideB
      (passesA c o sem.src && sem.ok ta (srcTag c o.b) (srcTag c o.c))
    match chk with
    | .masked => return writeMasked s c f.chain M
    | .ok =>
      return writeResult s c f.chain o.d M (fun l => (rowValue s c o sem l).1) t (fun l => (rowValue s c o sem l).2)

/-- R170: a lane instruction with a vector result. -/
def runLane (i : Instr) (sem : LaneSem) (s : State) : Host.Outcome State Fault Refusal :=
  runLaneBy i (fun _ => sem) s

/-- R179, R186: a comparison: the predicate of d[2:0] in the active lanes, and no latch. -/
def runCompare (i : Instr) (src : Tag → Bool) (fn : Nat → Tag → Dword → Dword → Bool × Flags)
    (s : State) : Host.Outcome State Fault Refusal :=
  runCore i s fun c p f o => do
    let ta := tagA c o
    let M := activeMask c p.operand f.guard
    let chk ← laneChecks c o M 0 (isF64 ta && src ta) true (passesA c o src && sameTag ta (srcTag c o.b))
    match chk with
    | .masked => return writeMasked s c f.chain M
    | .ok =>
      let w := isF64 ta
      let r (l : Nat) : Bool × Flags :=
        if src ta then fn (f.d.toNat / 8) ta (srcVal c w o.a l) (srcVal c w o.b l)
        else ((openLane s l).1.getLsbD 0, (openLane s l).2)
      return writePred s c f.chain (f.d.toNat % 8) M (maskOf fun l => (r l).1) (fun l => (r l).2)

/-- A lane value built element by element. -/
def mapElems (t : Tag) (f : Nat → Nat → Nat → Nat) (x y z : Dword) : Dword :=
  BitVec.ofNat 64 (joinElems (ewidth t) ((List.range (count t)).map fun e => f (elem t x e) (elem t y e) (elem t z e)))

/-- R170: a lane value built element by element, with the OR of the elements' flags. -/
def mapElemsF (t : Tag) (f : Nat → Nat → Nat → Nat × Flags) (x y z : Dword) : Dword × Flags :=
  let r := (List.range (count t)).map fun e => f (elem t x e) (elem t y e) (elem t z e)
  (BitVec.ofNat 64 (joinElems (ewidth t) (r.map Prod.fst)), r.foldl (fun F x => F ||| x.2) 0)

/-! ## 16-bit forms (R127) -/

/-- The source code a 16-bit field a stands for. -/
def halfSrc (a : BitVec 6) : BitVec 7 := if a.toNat < 60 then a.setWidth 7 else a.setWidth 7 + 60#7

/-- The two-source 32-bit equivalent of a 16-bit instruction. -/
def halfW (w : HalfW) : LaneW := ⟨.none, false, 0, w.d.setWidth 7, w.d.setWidth 7, halfSrc w.a⟩

/-- The one-source 32-bit equivalent of a 16-bit instruction. -/
def halfU (w : HalfW) : LaneU := ⟨.none, false, 0, w.d.setWidth 7, halfSrc w.a⟩

end Sys2Proof.Machine
end

