-- ==== Sys2Proof/Machine/Fetch.lean ====
section
/-! DEFINITION. Machine/Fetch.lean: fetching the instruction at a split's pc (R119, R131, R378). -/
namespace Sys2Proof.Machine

/-- R378: the halfword at an instruction address, or the protection trap of its fetch. [log DEDUCED 23] -/
def fetchHalf (s : State) (core part gid : Nat) (mask : Mask) (va : Nat) : Except Trp (BitVec 16) :=
  let trap (errs : List ErrRec) (posts : List (Nat × Nat)) : Trp :=
    ⟨causeProtection, 0, va, mask, false, errs, posts⟩
  if 2 ^ 56 ≤ va then .error (trap [] [])
  else
    match access s (coreTlb core) part gid va false true with
    | .ok pa _ => if poisoned s pa 2 then .error (trap (poisonErrs s gid pa 2) []) else .ok (BitVec.ofNat 16 (readNat s pa 2))
    | .peer _ _ _ => .error (trap [] [])
    | .nonresident => .error (trap [] [(2, va)])
    | .denied errs => .error (trap errs [])

/-- Up to n halfwords from an address, and the trap of the first that cannot be fetched. [log DEDUCED 22] -/
def fetchHalves (s : State) (core part gid : Nat) (mask : Mask) : Nat → Nat → List (BitVec 16) × Option Trp
  | 0, _ => ([], none)
  | n + 1, va =>
    match fetchHalf s core part gid mask va with
    | .error t => ([], some t)
    | .ok h =>
      let (hs, t) := fetchHalves s core part gid mask n (va + 2)
      (h :: hs, t)

/-- What stands at a pc. -/
inductive FetchOut where
  /-- an instruction, and the address after it -/
  | instr (i : Instr) (next : Dword)
  /-- R119, R120, R131, R146: the trap its pattern or its fetch raises -/
  | trap (t : Trp)
  deriving DecidableEq, Repr

/-- R119, R147: the instruction at an address. A pfx at the end of what can be fetched is illegal (R131). [log
DEDUCED 22, 24] -/
def fetchInstr (s : State) (core part gid : Nat) (mask : Mask) (pc : Dword) : FetchOut :=
  let (hs, t) := fetchHalves s core part gid mask 6 pc.toNat
  let ill : Trp := ⟨causeIllegalInstruction, 0, 0, mask, false, [], []⟩
  match decode hs with
  | .ok (i, rest) => .instr i (pc + BitVec.ofNat 64 (2 * (hs.length - rest.length)))
  | .error .truncated => .trap (t.getD ill)
  | .error .pfxTruncated => .trap ill
  | .error .zeroHalfword => .trap ill
  | .error .pfxBeforeHalf => .trap ill
  | .error .badPfx => .trap ill
  | .error (.badWord _) => .trap ill
  | .error .badFilter => .trap ill

end Sys2Proof.Machine
end

