-- ==== Sys2Proof/Machine/Remote.lean ====
section
/-! DEFINITION. Machine/Remote.lean: ordered channels, requests to peer devices, and the draining of the remote
write-combining buffer (R339, R340, R386, R427, R432, R433). -/
namespace Sys2Proof.Machine

/-- R428: the opcodes. -/
def opRD : BitVec 8 := 0x01#8
/-- WR. -/
def opWR : BitVec 8 := 0x02#8
/-- WRM. -/
def opWRM : BitVec 8 := 0x03#8
/-- ATM. -/
def opATM : BitVec 8 := 0x04#8
/-- FRAG. -/
def opFRAG : BitVec 8 := 0x05#8
/-- MST. -/
def opMST : BitVec 8 := 0x06#8
/-- TOKEN. -/
def opTOKEN : BitVec 8 := 0x07#8
/-- ACK. -/
def opACK : BitVec 8 := 0x10#8
/-- NACK. -/
def opNACK : BitVec 8 := 0x11#8
/-- RDR. -/
def opRDR : BitVec 8 := 0x12#8
/-- ATR. -/
def opATR : BitVec 8 := 0x13#8
/-- MACK. -/
def opMACK : BitVec 8 := 0x14#8
/-- SEQA. -/
def opSEQA : BitVec 8 := 0x15#8
/-- SKIP. -/
def opSKIP : BitVec 8 := 0x16#8

/-! ## The sending end of a channel (R432, R433) -/

/-- A channel of a device and class. -/
def ChanOut.isTo (dev : BitVec 14) (tclass : BitVec 2) (c : ChanOut) : Bool := c.dev == dev && c.tclass == tclass

/-- The sending end of a channel; one nothing was ever sent on starts at 0. -/
def chanOut (s : State) (dev : BitVec 14) (tclass : BitVec 2) : ChanOut :=
  (s.chansOut.find? (ChanOut.isTo dev tclass)).getD ⟨dev, tclass, 0, [], []⟩

/-- A channel's sending end replaced. -/
def putChanOut (s : State) (c : ChanOut) : State :=
  if s.chansOut.any (ChanOut.isTo c.dev c.tclass) then
    { s with chansOut := modify (ChanOut.isTo c.dev c.tclass) (fun _ => c) s.chansOut }
  else { s with chansOut := s.chansOut ++ [c] }

/-- R433: n more packets may be sent: none is more than 512 beyond the lowest number not acknowledged. -/
def chanRoom (s : State) (dev : BitVec 14) (tclass : BitVec 2) (n : Nat) : Bool :=
  let c := chanOut s dev tclass
  match c.kept with
  | [] => n ≤ 512
  | (p, _) :: _ => (c.next - p.seq).toNat + n ≤ 512

/-- R441, R448: a lane group has UALink-standard in effect, and holds its accelerator ID for peer windows. -/
def ualinkBound (s : State) : Bool := s.lgs.toList.any fun g => g.cur == 2#3

/-- R441: a device number is that of an accelerator of the pod. [log DESIGN CHOICE 130] -/
def toPod (s : State) (dev : BitVec 14) : Bool := ualinkBound s && Config.podAccelerator dev

/-- R427, R432: a request on the ordered channel of its class: numbered, kept until it is acknowledged, and handed to
the switch. One to an accelerator of the pod has no ordered channel (R441). -/
def sendRequest (s : State) (p : Packet) : Packet × State :=
  let c := chanOut s p.dst p.tclass
  let p := { p with rank := 0, mark := false, src := s.devid, seq := c.next, tag := s.nextTag }
  if toPod s p.dst then
    ({ p with seq := 0 }, { s with outbox := s.outbox ++ [{ p with seq := 0 }], nextTag := s.nextTag + 1 })
  else
  (p, { putChanOut s { c with next := c.next + 1, kept := c.kept ++ [(p, s.time.toNat)] } with
    outbox := s.outbox ++ [p], nextTag := s.nextTag + 1 })

/-- A request whose response this device waits for (R430, R434). -/
def request (s : State) (kind : ReqKind) (p : Packet) : State :=
  let (p, s) := sendRequest s p
  { s with reqs := s.reqs ++ [⟨p.tag, kind, p.dst, p.tclass, p.seq, s.time.toNat, p, none⟩] }

/-- A packet with the given opcode, class, destination, tenant, window, offset, length, cause and payload. -/
def mkPacket (op : BitVec 8) (cls : Nat) (dst : BitVec 14) (ftid : BitVec 16) (win : BitVec 12) (off len : Nat)
    (cause : Nat) (payload : List Byte) : Packet :=
  ⟨op, 0, BitVec.ofNat 2 cls, 0, false, 0, dst, ftid, 0, 0, win, BitVec.ofNat 38 off, BitVec.ofNat 16 len,
    BitVec.ofNat 8 cause, payload⟩

/-- R427: a response to a request: unordered, matched by the tag; the mark is the request's (R435). -/
def respond (s : State) (q : Packet) (op : BitVec 8) (cause : Nat) (payload : List Byte) : State :=
  { s with outbox := s.outbox ++ [⟨op, 2, q.tclass, 0, q.mark, s.devid, q.src, q.ftid, 0, q.tag, 0, 0,
      BitVec.ofNat 16 payload.length, BitVec.ofNat 8 cause, payload⟩] }

/-! ## The write-combining buffer (R339, R340) -/

/-- The byte a line holds at an offset. -/
def rwcByte (r : RwcLine) (i : Nat) : Option Byte := (r.cells.find? fun c => c.1 == i).map Prod.snd

/-- R428: the 32-byte mask of the bytes a line holds. -/
def rwcMask (r : RwcLine) : List Byte :=
  (List.range 32).map fun k =>
    BitVec.ofNat 8 ((List.range 8).foldl (fun m i => if (rwcByte r (8 * k + i)).isSome then m + 2 ^ i else m) 0)

/-- The packet a line becomes: WR when it is full, WRM otherwise. -/
def rwcPacket (s : State) (r : RwcLine) : Packet :=
  let data := (List.range 256).map fun i => (rwcByte r i).getD 0
  let pay := if r.cells.length = 256 then data else rwcMask r ++ data
  mkPacket (if r.cells.length = 256 then opWR else opWRM) r.cls r.dev (ftidOf s r.part) r.win (256 * r.line)
    pay.length 0 pay

/-- R339, R340: a line leaves the buffer as one write. -/
def drainLine (s : State) (r : RwcLine) : State :=
  countOut (request { s with rwc := s.rwc.filter fun x => !RwcLine.isFor r.core r.gid r.team r.dev r.win r.line x }
    (.store r.gid r.team r.lanes) (rwcPacket s r)) r.gid r.team

/-- R339: a line is due to drain: full, or past its age. -/
def RwcLine.due (now : Nat) (r : RwcLine) : Bool := r.cells.length == 256 || r.entered + r.age < now

end Sys2Proof.Machine
end

