-- ==== Sys2Proof/Machine/MemLane.lean ====
section
/-! DEFINITION. Machine/MemLane.lean: loads, stores, residency requests and atomics (R253 to R266, R268, R320 to
R323, R339, R340). -/
namespace Sys2Proof.Machine

/-! ## Addresses and their checks (R254, R255) -/

/-- The byte offset of a memory instruction (R137). -/
def memOffset (p : Pfx) : Dword :=
  match p.immediate with
  | some v => (v.setWidth 21).signExtend 64
  | none => 0

/-- R254: a pair or a register holds an address: its registers carry U32 or I32. -/
def addrTags (c : Ctx) (x : Src) (n : Nat) : Bool :=
  match x with
  | .reg r => (List.range n).all fun i => isInt32 (tagOf c.g (r + i))
  | .none => true
  | .latch k => tagIn isInt32 (srcTag c (.latch k))
  | .zero => true
  | .lane => true
  | .imm _ => true
  | .scalar _ => true

/-- Where an access goes (R256, R262). -/
inductive Place where
  | here (pa gpa : Nat)
  | peer (dev : BitVec 14) (win : BitVec 12) (off : Nat)
  /-- its page is not resident -/
  | soft
  deriving DecidableEq, Repr

/-- One lane's access. -/
structure LaneAt where
  lane : Nat
  va : Nat
  place : Place
  deriving DecidableEq, Repr

/-- The lanes of a list of accesses. -/
def lanesFrom {α : Type} (xs : List (Nat × α)) : Mask := maskOf fun l => xs.any fun x => x.1 == l

/-- The lanes whose accesses are not performed (R262). -/
def softLanes (xs : List LaneAt) : Mask := maskOf fun l => xs.any fun x => x.lane == l && x.place == .soft

/-- What one address meets (R55, R378, R491): a place, or the error-queue entries of its protection trap. -/
def placeOf (s : State) (c : Ctx) (va n : Nat) (needW reads : Bool) : Except (List ErrRec) Place :=
  if 2 ^ 56 ≤ va then .error []
  else
    match access s (coreTlb c.g.core) c.part c.g.gid va needW false with
    | .ok pa gpa => if reads && poisoned s pa n then .error (poisonErrs s c.g.gid pa n) else .ok (.here pa gpa)
    | .peer dev win off => .ok (.peer dev win off)
    | .nonresident => .ok .soft
    | .denied errs => .error errs

/-- The error-queue entries of failing lanes, those of each page once. -/
def pageErrs : List Nat → List (Nat × Nat × List ErrRec) → List ErrRec
  | _, [] => []
  | seen, (_, va, es) :: t =>
    if seen.contains (va / 4096) then pageErrs seen t else es ++ pageErrs (va / 4096 :: seen) t

/-- R55, R255, R379: every lane's access checked before any takes effect: bits 63:56 of the addresses, alignment, then
translation. [log DEDUCED 29] -/
def checkPlaces (s : State) (c : Ctx) (as : List (Nat × Nat)) (n : Nat) (needW reads : Bool) : Ex (List LaneAt) :=
  match as.filter (fun x => 2 ^ 56 ≤ x.2), as.filter (fun x => x.2 % n != 0) with
  | (l, va) :: t, _ => trapAt causeProtection (lanesFrom ((l, va) :: t)) va [] []
  | [], (l, va) :: t => trapAt causeMisalignment (lanesFrom ((l, va) :: t)) va [] []
  | [], [] =>
    let r := as.map fun (l, va) => (l, va, placeOf s c va n needW reads)
    let bad := r.filterMap fun (l, va, x) => match x with
      | .error es => some (l, va, es)
      | .ok _ => none
    match bad with
    | (_, va, _) :: _ => trapAt causeProtection (lanesFrom bad) va (pageErrs [] bad) []
    | [] =>
      .ok (r.filterMap fun (l, va, x) => match x with
        | .error _ => none
        | .ok p => some ⟨l, va, p⟩)

/-- R489: an access waits for a slice under test. -/
def checkLanes (s : State) (c : Ctx) (as : List (Nat × Nat)) (n : Nat) (needW reads : Bool) : Ex (List LaneAt) :=
  match checkPlaces s c as n needW reads with
  | .error e => .error e
  | .ok good =>
    if good.any fun x => match x.place with
        | .here pa _ => sliceBusy s pa
        | .peer _ _ _ => false
        | .soft => false
    then .error .stall else .ok good

/-- R261: the one access of a scalar load or store, whose failure concerns every lane of the split. [log DEDUCED 29]
-/
def checkScalar (s : State) (c : Ctx) (va n : Nat) (needW reads : Bool) : Ex (List LaneAt) :=
  match checkLanes s c [(lowestLane c.mask, va)] n needW reads with
  | .ok xs => .ok xs
  | .error .stall => .error .stall
  | .error (.held t) => .error (.held t)
  | .error (.trap t) => .error (.trap { t with lanes := c.mask })

/-! ## Remote accesses (R339, R386) -/

/-- The remote accesses of an instruction. -/
def remotes (xs : List LaneAt) : List (Nat × BitVec 14 × BitVec 12 × Nat) :=
  xs.filterMap fun x => match x.place with
    | .peer dev win off => some (x.lane, dev, win, off)
    | .here _ _ => none
    | .soft => none

/-- R339: the lines of a team that hold a byte of some remote accesses of n bytes. -/
def linesHit (s : State) (c : Ctx) (xs : List LaneAt) (n : Nat) : List RwcLine :=
  s.rwc.filter fun r => r.gid == c.g.gid && r.team == c.g.team && (remotes xs).any fun (_, dev, win, off) =>
    r.dev == dev && r.win == win && r.line == off / 256 &&
      (List.range n).any fun i => (rwcByte r ((off + i) % 256)).isSome

/-- R328: a multicast line of the team that covers one of n bytes at a peer is still on its way. -/
def flightAt (s : State) (c : Ctx) (dev : BitVec 14) (win : BitVec 12) (off n : Nat) : Bool :=
  s.mcFlights.any fun f => f.reply.isNone && f.gid == c.g.gid && f.team == c.g.team &&
    decide (f.off < off + n) && decide (off < f.off + 256) &&
    (match s.mcGroups.find? fun g => g.group == f.group with
      | some g => g.members.contains (dev, win)
      | none => true)

/-- R328: some remote access of n bytes has to follow a multicast line on its way. -/
def flightHit (s : State) (c : Ctx) (xs : List LaneAt) (n : Nat) : Bool :=
  (remotes xs).any fun (_, dev, win, off) => flightAt s c dev win off n

/-- The ordered channels have room for the requests of an instruction and the lines that go before them. -/
def requestRoom (s : State) (c : Ctx) (xs : List LaneAt) (lines : List RwcLine) : Bool :=
  let cls := BitVec.ofNat 2 (classOfGrid s c.g.gid)
  (remotes xs).all fun (_, dev, _, _) =>
    chanRoom s dev cls (((remotes xs).filter fun y => y.2.1 == dev).length + (lines.filter fun r => r.dev == dev).length)

/-- Requests to peers, after the lines that hold their bytes have gone (R328, R339); they stall while a channel is full.
Those that write (R340 counts them) wait for the group's remote loads (R330). -/
def sendRequests (s : State) (c : Ctx) (xs : List LaneAt) (n : Nat)
    (mk : Nat → BitVec 14 → BitVec 12 → Nat → ReqKind × Packet) (counted : Bool) : Ex State :=
  let lines := linesHit s c xs n
  if requestRoom s c xs lines && !(counted && !(remotes xs).isEmpty && loadsOut s c.g) && !flightHit s c xs n then
    .ok ((remotes xs).foldl (fun s (l, dev, win, off) =>
      let (k, p) := mk l dev win off
      let s := request s k p
      if counted then countOut s c.g.gid c.g.team else s) (lines.foldl drainLine s))
  else .error .stall

/-- R333, R340: what releases at a scope (an order code of R141) is performed only once the accesses it releases have
been; at scope f it hastens the team's lines. [log DEDUCED 36] -/
def awaitRemote (s : State) (c : Ctx) (ord : Nat) (k : Ex State) : Ex State :=
  if releaseReady s c.g ord then k
  else .error (.held (if ord = 5 then hastenTeam s c.g.gid c.g.team else s))

/-! ## Register placement (R258, R259) -/

/-- R383, R447: what accesses checked in s leave beside their effect t: the core's TLB keeps their translations; and those
to a CXL slot that its lane group is leaving, which fail as those to a page that is not resident do, are recorded, once
for each page. -/
def noteGone (s : State) (c : Ctx) (xs : List LaneAt) (t : State) : State :=
  let tlb := coreTlb c.g.core
  let pages := ((xs.filter fun x => x.place == .soft).map fun x => x.va / 4096 * 4096).eraseDups
  errParts (addTlb t (tlbOf s tlb c.part c.g.gid (xs.map LaneAt.va))) c.part
    (pages.flatMap fun va => goneErrs s tlb c.part c.g.gid va)

/-- Bytes of an access. -/
def widBytes (wid : BitVec 3) : Nat := 2 ^ wid.toNat

/-- Registers of an access. -/
def widRegs (wid : BitVec 3) : Nat := if wid.toNat ≤ 2 then 1 else if wid = 3#3 then 2 else 4

/-- R141, R258: the tag of a load. -/
def loadTag (p : Pfx) : Tag := if p.operand.c = 127#7 then 0 else p.operand.c.setWidth 6

/-- R258: a width allows a tag. -/
def widTag (wid : BitVec 3) (t : Tag) : Bool :=
  if wid.toNat ≤ 1 then isInt32 t else if wid = 2#3 then !isF64 t else true

/-- R258: the words a load places, from the value of n bytes. -/
def loadWord (n : Nat) (t : Tag) (v k : Nat) : Word :=
  if 4 ≤ n then BitVec.ofNat 32 (v / 2 ^ (32 * k))
  else if t = 1#6 then (BitVec.ofNat (8 * n) v).signExtend 32
  else BitVec.ofNat 32 v

/-- The words of a value written to registers from a base up, in the lanes of a mask. [log DEDUCED 17] -/
def placeWords (g : Group) (d : Src) (M : Mask) (regs n : Nat) (t : Tag) (v : Nat → Nat) : Group :=
  match d with
  | .reg r =>
    (List.range regs).foldl (fun g k => writeV1 g (r + k) M (lanesOf fun l => loadWord n t (v l) k) t) g
  | .none => g
  | .latch _ => g
  | .zero => g
  | .lane => g
  | .imm _ => g
  | .scalar _ => g

/-- The base register of a destination, or a number no register has. -/
def regNumber (d : Src) : Nat :=
  match d with
  | .reg r => r
  | .none => 127
  | .latch _ => 127
  | .zero => 127
  | .lane => 127
  | .imm _ => 127
  | .scalar _ => 127

/-- R130, R258: the value a store takes from a lane; where the data field is code 126, the pfx's immediate, which is also
the offset. [log DEDUCED 123] -/
def storeValue (c : Ctx) (d : Src) (wid : BitVec 3) (l : Nat) : Nat :=
  match d with
  | .reg r => natOfBytes ((List.range (widRegs wid)).flatMap fun k =>
      bytesOfNat 4 (laneGet (vreg c.g (r + k)).lane l).toNat) % 2 ^ (8 * widBytes wid)
  | .none => 0
  | .latch k => (srcVal c false (.latch k) l).toNat % 2 ^ (8 * widBytes wid)
  | .zero => 0
  | .lane => (srcVal c false .lane l).toNat % 2 ^ (8 * widBytes wid)
  | .imm v => (srcVal c false (.imm v) l).toNat % 2 ^ (8 * widBytes wid)
  | .scalar v => (srcVal c false (.scalar v) l).toNat % 2 ^ (8 * widBytes wid)

/-- R262: a residency predicate set in the lanes of a mask. [log DEDUCED 48] -/
def setResid (g : Group) (p : Pfx) (lanes : Mask) : Group := writeQ g (residQ p.operand.x) lanes lanes

/-- The value at a local place. -/
def valueAt (s : State) (p : Place) (n : Nat) : Nat :=
  match p with
  | .here pa _ => readNat s pa n
  | .peer _ _ _ => 0
  | .soft => 0

/-- A lane's value among several accesses. -/
def laneValue (xs : List (Nat × Nat)) (l : Nat) : Nat :=
  match xs.find? fun x => x.1 == l with
  | some x => x.2
  | none => 0

/-! ## ld and ldu -/

/-- LD (R258, R259, R262). -/
def execLd (w : MemW) (s : State) : Host.Outcome State Fault Refusal :=
  if !widTag w.wid (loadTag w.pfx) then runInstr s fun c => trapOn causeIllegalInstruction c.mask
  else
  runCore (.ld w) s fun c p f o => do
    let M := activeMask c p.operand f.guard
    let n := widBytes w.wid
    let t := loadTag p
    need (heldSpan c.g o.d (widRegs w.wid) && heldSpan c.g o.a 2) causeRegisterBounds c.mask
    need (addrTags c o.a 2) causeFormatMismatch M
    let xs ← checkLanes s c ((lanesIn M).map fun l => (l, (srcVal c true o.a l + memOffset p).toNat)) n false true
    let s' ← sendRequests s c xs n (fun l dev win off =>
      (.load c.g.core c.g.gslot (regNumber o.d) l n t (BitVec.ofNat 3 (residQ p.operand.x)),
        mkPacket opRD (classOfGrid s c.g.gid) dev (ftidOf s c.part) win off n 0 [])) false
    let s' := noteGone s c xs s'
    let vs := xs.map fun x => (x.lane, valueAt s x.place n)
    let g := setResid (placeWords c.g o.d M (widRegs w.wid) n t (laneValue vs)) p (softLanes xs)
    return putGroup s' (advanceGroup s' c false none g)

/-- LDU (R261). -/
def execLdu (w : MemS) (s : State) : Host.Outcome State Fault Refusal :=
  runCore (.ldu w) s fun c p f _ => do
    let n := widBytes w.wid
    let xs ← checkScalar s c (srcS s c f.a + memOffset p).toNat n false true
    let s' ← sendRequests s c xs n (fun _ dev win off =>
      (.loadS c.g.core c.g.gslot f.d.toNat n c.mask (BitVec.ofNat 3 (residQ p.operand.x)),
        mkPacket opRD (classOfGrid s c.g.gid) dev (ftidOf s c.part) win off n 0 [])) false
    let s' := noteGone s c xs s'
    let v := (xs.map fun x => valueAt s x.place n).headD 0
    let failed := xs.any fun x => x.place == .soft
    let s' := if (remotes xs).isEmpty then writeS s' c f.d (BitVec.ofNat 64 v) else s'
    return modGroup s' c.g.core c.g.gslot fun g =>
      advanceGroup s' c false none (if failed then setResid g p c.mask else g)

/-! ## st and stu -/

/-- One lane's store. -/
structure LaneSt where
  lanes : Mask
  va : Nat
  place : Place
  data : List Byte
  deriving DecidableEq, Repr

/-- R339: the buffer has room for the lines of a store. -/
def storeRoom (s : State) (c : Ctx) (xs : List LaneSt) : Bool :=
  let new := (xs.filterMap fun x => match x.place with
    | .peer dev win off =>
      if s.rwc.any (RwcLine.isFor c.g.core c.g.gid c.g.team dev win (off / 256)) then none
      else some (dev, win, off / 256)
    | .here _ _ => none
    | .soft => none).eraseDups
  (s.rwc.filter fun r => r.core == c.g.core).length + new.length ≤ 64

/-- R257: one lane's bytes stored. -/
def storeLane (c : Ctx) (rq : BitVec 3) (s : State) (x : LaneSt) : State :=
  match x.place with
  | .here pa _ => writeBytes s pa x.data
  | .peer dev win off => rwcPut s c.g.core c.g.gid c.g.team c.part dev win off x.data (x.lanes, c.g.gslot, c.g.grpid, rq)
  | .soft => s

/-- A store that goes to a peer. -/
def LaneSt.remote (x : LaneSt) : Bool :=
  match x.place with
  | .peer _ _ _ => true
  | .here _ _ => false
  | .soft => false

/-- R328: some store to a peer has to follow a multicast line on its way. -/
def storeFlight (s : State) (c : Ctx) (xs : List LaneSt) : Bool :=
  xs.any fun x => match x.place with
    | .peer dev win off => flightAt s c dev win off x.data.length
    | .here _ _ => false
    | .soft => false

/-- R257, R263: the lanes' stores in ascending order, with a completion tick when a local byte was stored; a remote
store's comes back with its acknowledgement. [log DEDUCED 17; DESIGN CHOICE 18] -/
def storeAll (s : State) (c : Ctx) (rq : BitVec 3) (xs : List LaneSt) : State :=
  let s := xs.foldl (storeLane c rq) s
  if xs.any fun x => match x.place with
      | .here _ _ => true
      | .peer _ _ _ => false
      | .soft => false
  then pushTick s c.g.core c.g.gslot else s

/-- R268: a lane's store as an entry of the region store buffer; a failed lane adds none. -/
def regionEntry (rq : BitVec 3) (ord : BitVec 4) (x : LaneSt) : Option RegionEntry :=
  match x.place with
  | .here pa gpa =>
    some (.bytes (x.va / 256) gpa ((List.range x.data.length).zip x.data |>.map fun (i, b) => (pa + i, b)) ord)
  | .peer dev win off => some (.remote (x.va / 256) dev win off x.data x.lanes rq ord)
  | .soft => none

/-- R268, R269: accesses that an open region holds; without room for them it commits, and they are performed. -/
def holdOr (s : State) (c : Ctx) (entries : List RegionEntry) (direct : State → Ctx → Ex State) : Ex State :=
  match c.g.region with
  | none => direct s c
  | some r =>
    let buf := r.buf ++ entries
    let others := ((s.groups.filter fun g => g.core == c.g.core && g.gslot != c.g.gslot).map fun g =>
      match g.region with
      | some x => regionLines x.buf
      | none => 0).sum
    if others + regionLines buf ≤ 64 then
      .ok (modGroup s c.g.core c.g.gslot fun g => { g with region := some { r with buf := buf } })
    else committed s c direct

/-- The stores of an instruction of an order (R141), held or performed: once what they release has been (R333, R340),
the group's loads on path X have taken their values where they use it (R330), and there are lines for them (R339). -/
def storeLanes (s : State) (c : Ctx) (rq : BitVec 3) (ord : BitVec 4) (xs : List LaneSt) : Ex State :=
  holdOr s c (xs.filterMap (regionEntry rq ord)) fun s c => awaitRemote s c ord.toNat <|
    if storeRoom s c xs && !(xs.any LaneSt.remote && loadsOut s c.g) && !storeFlight s c xs then .ok (storeAll s c rq xs)
    else .error (.held s)

/-- ST (R258, R262). -/
def execSt (w : MemW) (s : State) : Host.Outcome State Fault Refusal :=
  runCore (.st w) s fun c p f o => do
    let M := activeMask c p.operand f.guard
    let n := widBytes w.wid
    need (heldSpan c.g o.d (widRegs w.wid) && heldSpan c.g o.a 2) causeRegisterBounds c.mask
    need (addrTags c o.a 2) causeFormatMismatch M
    let xs ← checkLanes s c ((lanesIn M).map fun l => (l, (srcVal c true o.a l + memOffset p).toNat)) n true false
    let t ← storeLanes s c (BitVec.ofNat 3 (residQ p.operand.x)) w.ord (xs.map fun x =>
      ⟨BitVec.ofNat 32 (2 ^ x.lane), x.va, x.place, bytesOfNat n (storeValue c o.d w.wid x.lane)⟩)
    let t := noteGone s c xs t
    return modGroup t c.g.core c.g.gslot fun g => advanceGroup t c false none (setResid g p (softLanes xs))

/-- STU (R261). -/
def execStu (w : MemS) (s : State) : Host.Outcome State Fault Refusal :=
  runCore (.stu w) s fun c p f _ => do
    let n := widBytes w.wid
    let xs ← checkScalar s c (srcS s c f.a + memOffset p).toNat n true false
    let t ← storeLanes s c (BitVec.ofNat 3 (residQ p.operand.x)) w.ord (xs.map fun x =>
      ⟨c.mask, x.va, x.place, bytesOfNat n (srcS s c f.d).toNat⟩)
    let t := noteGone s c xs t
    let failed := xs.any fun x => x.place == .soft
    return modGroup t c.g.core c.g.gslot fun g =>
      advanceGroup t c false none (if failed then setResid g p c.mask else g)

/-! ## lds and sts (R260, R320 to R323) -/

/-- One lane's place in a stage bank. -/
structure StageLane where
  lane : Nat
  team : Nat
  bank : Nat
  off : Nat
  deriving DecidableEq, Repr

/-- The bank a stage access reaches. -/
def stageBank (s : State) (gid : Nat) (team bank : Nat) : Option Bank := (teamOf s gid team).bind fun t => bankOf t bank

/-- R322: the mode an access is checked under: the one the table names, or, for an access that has issued already,
the one the bank is in. [log DESIGN CHOICE 9] -/
def Bank.shown (b : Bank) (issued : Bool) : BitVec 2 :=
  match b.target with
  | some (m, _, _) => if issued then b.mode else m
  | none => b.mode

/-- R494: the block number of a bank. [log DEDUCED 50] -/
def bankBlock (s : State) (gid team : Nat) (b : Bank) : Nat :=
  match teamOf s gid team with
  | some t => 256 + 16 * t.core + b.phys
  | none => 0xFFFF

/-- R491: the poisoned words of a bank in a byte range. -/
def badWords (b : Bank) (off n : Nat) : List Nat := b.bad.filter fun w => w < off + n && off < w + 8

/-- R56, R255, R260, R322: every lane's offset checked: alignment, then the window, the bank and its mode. An access that
has not issued yet waits for a bank that is draining. [log DEDUCED 50] -/
def checkStage (s : State) (c : Ctx) (as : List (Nat × Int)) (n : Nat) (reads : Bool) : Ex (List StageLane) :=
  match as.filter fun x => x.2 % (n : Int) != 0 with
  | (l, a) :: t => trapAt causeMisalignment (lanesFrom ((l, a) :: t)) (a % 2 ^ 64).toNat [] []
  | [] =>
    let r := as.map fun (l, a) => (l, a,
      if a < 0 then none
      else
        match stageAt s c.g.gid c.g.team a.toNat with
        | none => none
        | some (t, b, off) =>
          match stageBank s c.g.gid t b with
          | none => none
          | some k => if k.shown c.p.fifo.isSome = 0#2 then none else some (t, b, off, k))
    let poison (x : Nat × Nat × Nat × Bank) : List ErrRec :=
      if reads && x.2.2.2.shown c.p.fifo.isSome == 1#2 then
        (badWords x.2.2.2 x.2.2.1 n).map fun w => ⟨6, 4, bankBlock s c.g.gid x.1 x.2.2.2, c.g.gid, w⟩
      else []
    let bad := r.filterMap fun (l, a, x) => match x with
      | none => some (l, (a % 2 ^ 64).toNat, ([] : List ErrRec))
      | some k => if (poison k).isEmpty then none else some (l, (a % 2 ^ 64).toNat, poison k)
    match bad with
    | (_, a, _) :: _ => trapAt causeProtection (lanesFrom bad) a (bad.flatMap fun x => x.2.2) []
    | [] =>
      let good := r.filterMap fun (l, _, x) => x.map fun k => (l, k)
      if good.any fun x => (x.2.2.2.2.target.isSome && c.p.fifo.isNone) || underTest s (bankBlock s c.g.gid x.2.1 x.2.2.2.2) then
        .error .stall
      else .ok (good.map fun (l, t, b, off, _) => ⟨l, t, b, off⟩)

/-- A lane's bank is in FIFO mode. -/
def StageLane.fifo (s : State) (gid : Nat) (x : StageLane) : Bool :=
  match stageBank s gid x.team x.bank with
  | some b => b.mode == 2#2
  | none => false

/-- R323: bytes appended to a FIFO bank. -/
def fifoPush (b : Bank) (bs : List Byte) : Bank :=
  { bankPut b b.wr bs with wr := (b.wr + bs.length) % 65536, count := b.count + bs.length }

/-- R323: bytes removed from a FIFO bank. -/
def fifoPop (b : Bank) (n : Nat) : Bank := { b with rd := (b.rd + n) % 65536, count := b.count - n }

/-- R323: the FIFO banks of an access have the room, or hold the bytes, that all of its lanes need. -/
def fifoFits (s : State) (gid : Nat) (xs : List StageLane) (n : Nat) (push : Bool) : Bool :=
  xs.all fun x =>
    !x.fifo s gid ||
    match stageBank s gid x.team x.bank with
    | none => true
    | some b =>
      let need := n * (xs.filter fun y => y.team == x.team && y.bank == x.bank).length
      if push then b.count + need ≤ 65536 else need ≤ b.count

/-- One lane's stage store. -/
def stagePut (gid : Nat) (s : State) (x : StageLane × List Byte) : State :=
  modBank s gid x.1.team x.1.bank fun b => if b.mode = 2#2 then fifoPush b x.2 else bankPut b x.1.off x.2

/-- One lane's stage load: its value, and the state with a FIFO's bytes removed. -/
def stageGet (gid n : Nat) (s : State) (x : StageLane) : Nat × State :=
  match stageBank s gid x.team x.bank with
  | none => (0, s)
  | some b =>
    if b.mode = 2#2 then (natOfBytes (bankBytes b b.rd n), modBank s gid x.team x.bank fun b => fifoPop b n)
    else (natOfBytes (bankBytes b x.off n), s)

/-- The stage loads of a list of lanes, in order. -/
def stageGets (gid n : Nat) : List StageLane → State → List (Nat × Nat) × State
  | [], s => ([], s)
  | x :: t, s =>
    let (v, s) := stageGet gid n s x
    let (vs, s) := stageGets gid n t s
    ((x.lane, v) :: vs, s)

/-- The banks an access reaches, by team and bank. -/
def banksOf (xs : List StageLane) : List (Nat × Nat) := (xs.map fun x => (x.team, x.bank)).eraseDups

/-- R323: no access of the group that issued earlier waits for a bank of this one, in the same direction. -/
def fifoTurn (s : State) (c : Ctx) (xs : List StageLane) (push : Bool) : Bool :=
  match groupAt s c.g.core c.g.gslot with
  | none => true
  | some g => !(placesOf g).any fun e =>
    match (splitIn g e).fifo with
    | none => false
    | some w => (splitIn g e).arch.mask != c.mask && w.push == push && w.banks.any (banksOf xs).contains &&
        (match c.p.fifo with
          | some mine => decide (w.issued < mine.issued)
          | none => true)

/-- R322, R323: the split waits to make a FIFO access, which has issued. -/
def waitFifo (s : State) (c : Ctx) (i : Instr) (xs : List StageLane) (push : Bool) : State :=
  modGroup (waitSplit s c .onEvent (some i) false) c.cur.who.core c.cur.who.gslot fun g =>
    putSplit g c.cur.who.entry { splitAt g c.cur.who.entry with
      fifo := some (c.p.fifo.getD ⟨s.freeCtr, banksOf xs, push⟩) }

/-- R269, R323: an access that reaches a FIFO bank commits the region, and waits until all of it fits and it is its turn
among its group's. -/
def withFifo (s : State) (c : Ctx) (i : Instr) (xs : List StageLane) (n : Nat) (push : Bool)
    (k : State → Ctx → Ex State) : Ex State :=
  if xs.any (StageLane.fifo s c.g.gid) then
    committed s c fun s c =>
      if fifoFits s c.g.gid xs n push && fifoTurn s c xs push then k s c else .ok (waitFifo s c i xs push)
  else k s c

/-- The offset of a lane in the stage window. [log DEDUCED 42] -/
def stageOffset (c : Ctx) (p : Pfx) (a : Src) (l : Nat) : Int :=
  ((srcVal c false a l).toNat : Int) + (memOffset p).toInt

/-- LDS. -/
def execLds (w : MemW) (s : State) : Host.Outcome State Fault Refusal :=
  if !widTag w.wid (loadTag w.pfx) then runInstr s fun c => trapOn causeIllegalInstruction c.mask
  else
  runCore (.lds w) s fun c p f o => do
    let M := activeMask c p.operand f.guard
    let n := widBytes w.wid
    need (heldSpan c.g o.d (widRegs w.wid) && heldSpan c.g o.a 1) causeRegisterBounds c.mask
    need (addrTags c o.a 1) causeFormatMismatch M
    let xs ← checkStage s c ((lanesIn M).map fun l => (l, stageOffset c p o.a l)) n true
    withFifo s c (.lds w) xs n false fun s c =>
      let (vs, s) := stageGets c.g.gid n xs s
      .ok (modGroup s c.g.core c.g.gslot fun g =>
        advanceGroup s c false none (placeWords g o.d M (widRegs w.wid) n (loadTag p) (laneValue vs)))

/-- STS. -/
def execSts (w : MemW) (s : State) : Host.Outcome State Fault Refusal :=
  runCore (.sts w) s fun c p f o => do
    let M := activeMask c p.operand f.guard
    let n := widBytes w.wid
    need (heldSpan c.g o.d (widRegs w.wid) && heldSpan c.g o.a 1) causeRegisterBounds c.mask
    need (addrTags c o.a 1) causeFormatMismatch M
    let xs ← checkStage s c ((lanesIn M).map fun l => (l, stageOffset c p o.a l)) n false
    let ds := xs.map fun x => (x, bytesOfNat n (storeValue c o.d w.wid x.lane))
    withFifo s c (.sts w) xs n true fun s c => do
      let s ← holdOr s c (ds.map fun (x, bs) => .stage x.team x.bank x.off bs w.ord) fun s c =>
        awaitRemote s c w.ord.toNat (.ok (pushTick (ds.foldl (stagePut c.g.gid) s) c.g.core c.g.gslot))
      return modGroup s c.g.core c.g.gslot (advanceGroup s c false none)

/-! ## pgreq (R264) -/

/-- PGREQ. [log DEDUCED 46] -/
def execPgreq (pfx : Pfx) (guard : BitVec 2) (a : BitVec 7) (s : State) : Host.Outcome State Fault Refusal :=
  runCore (.pgreq pfx guard a) s fun c p f o => do
    let M := activeMask c p.operand f.guard
    need (heldSpan c.g o.a 2) causeRegisterBounds c.mask
    need (addrTags c o.a 2) causeFormatMismatch M
    let xs ← checkPlaces s c ((lanesIn M).map fun l => (l, (srcVal c true o.a l).toNat)) 1 false false
    let pages := ((xs.filter fun x => x.place == .soft).map fun x =>
      pageBase s (coreTlb c.g.core) c.part c.g.gid x.va).eraseDups
    let errs := noteGone s c xs
    committed s c fun s c => .ok (retire (pages.foldl (fun s va => postRes s c.part 0 c.g.gid va) (errs s)) c)

/-! ## Atomics (R265, R266) -/

/-- The operations of `atm`. -/
inductive AtmOp where
  | add | min | max | and | or | xor | xchg | cas
  deriving DecidableEq, Repr

/-- R142: the code of an operation. -/
def AtmOp.code : AtmOp → Nat
  | .add => 0
  | .min => 1
  | .max => 2
  | .and => 3
  | .or => 4
  | .xor => 5
  | .xchg => 6
  | .cas => 7

/-- R265: the new value, of n bytes. -/
def atmNew (op : AtmOp) (n : Nat) (signed : Bool) (old y z : Nat) : Nat :=
  let v (x : Nat) : Int := intOf signed (8 * n) x
  match op with
  | .add => (old + y) % 2 ^ (8 * n)
  | .min => if v y < v old then y else old
  | .max => if v old < v y then y else old
  | .and => old &&& y
  | .or => old ||| y
  | .xor => old ^^^ y
  | .xchg => y
  | .cas => if old = y then z else old

/-- The data of a lane: words of 4 bytes, or pairs. -/
def atmData (c : Ctx) (wide : Bool) (x : Src) (l : Nat) : Nat := (srcVal c wide x l).toNat % (if wide then 2 ^ 64 else 2 ^ 32)

/-- The operand after c, which `cas` stores. -/
def afterC (wide : Bool) (x : Src) : Src :=
  match x with
  | .reg r => .reg (r + (if wide then 2 else 1))
  | .none => .none
  | .latch _ => .none
  | .zero => .none
  | .lane => .none
  | .imm _ => .none
  | .scalar _ => .none

/-- R142, R265: c names what its operation and width allow: an even register of a pair, or a code that stands for a
value; for `cas` a register. [log DEDUCED 47] -/
def atmOperand (op : AtmOp) (wide : Bool) (x : Src) : Bool :=
  match x with
  | .reg r => !wide || r % 2 == 0
  | .none => false
  | .latch _ => !wide && op != .cas
  | .zero => op != .cas
  | .lane => op != .cas
  | .imm _ => op != .cas
  | .scalar _ => op != .cas

/-- R265: the tags of the data registers. [log DEDUCED 47] -/
def atmTags (c : Ctx) (x : Src) (k : Nat) : Bool :=
  match x with
  | .reg r => isInt32 (tagOf c.g r) && (List.range k).all fun i => tagOf c.g (r + i) == tagOf c.g r
  | .none => false
  | .latch j => tagIn isInt32 (srcTag c (.latch j))
  | .zero => true
  | .lane => true
  | .imm _ => true
  | .scalar _ => true

/-- One lane's local read-modify-write: its old value and the state after it. -/
def atmLane (op : AtmOp) (n : Nat) (signed : Bool) (c : Ctx) (o : Src) (s : State) (x : LaneAt) : Nat × State :=
  match x.place with
  | .here pa _ =>
    let old := readNat s pa n
    (old, writeNat s pa n (atmNew op n signed old (atmData c (n == 8) o x.lane) (atmData c (n == 8) (afterC (n == 8) o) x.lane)))
  | .peer _ _ _ => (0, s)
  | .soft => (0, s)

/-- The lanes' operations in ascending order. -/
def atmAll (op : AtmOp) (n : Nat) (signed : Bool) (c : Ctx) (o : Src) : List LaneAt → State → List (Nat × Nat) × State
  | [], s => ([], s)
  | x :: t, s =>
    let (v, s) := atmLane op n signed c o s x
    let (vs, s) := atmAll op n signed c o t s
    ((x.lane, v) :: vs, s)

/-- R265: an atomic. [log DESIGN CHOICE 18] -/
def runAtm (i : Instr) (w : AtmW) (op : AtmOp) (s : State) : Host.Outcome State Fault Refusal :=
  runCore i s fun c p f o => do
    let M := activeMask c p.operand f.guard
    let n := if w.wide then 8 else 4
    let k := if w.wide then 2 else 1
    need (atmOperand op w.wide o.c) causeIllegalOperand c.mask
    need (heldSpan c.g o.d k && heldSpan c.g o.a 2 && heldSpan c.g o.c (if op = .cas then 2 * k else k))
      causeRegisterBounds c.mask
    need (addrTags c o.a 2 && atmTags c o.c (if op = .cas then 2 * k else k)) causeFormatMismatch M
    let t : Tag := (readTag c o.c).getD 0
    let xs ← checkLanes s c ((lanesIn M).map fun l => (l, (srcVal c true o.a l).toNat)) n true true
    committed s c fun s c => awaitRemote s c w.ord.toNat do
      let dest := match o.d with
        | .reg r => some r
        | .none => Option.none
        | .latch _ => Option.none
        | .zero => Option.none
        | .lane => Option.none
        | .imm _ => Option.none
        | .scalar _ => Option.none
      let t₀ := s
      let s ← sendRequests s c xs n (fun l dev win off =>
        (.atomic c.g.core c.g.gslot c.g.gid c.g.team dest l n t (BitVec.ofNat 3 (residQ p.operand.x)),
          mkPacket opATM (classOfGrid s c.g.gid) dev (ftidOf s c.part) win off (if op = .cas then 16 else 8)
            (op.code + (if w.wide then 8 else 0) + (if t = 1#6 && (op == .min || op == .max) then 16 else 0))
            (bytesOfNat 8 (atmData c w.wide o.c l) ++
              if op = .cas then bytesOfNat 8 (atmData c w.wide (afterC w.wide o.c) l) else []))) true
      let s := noteGone t₀ c xs s
      let (vs, s) := atmAll op n (t == 1#6) c o.c xs s
      let s := if xs.any fun x => match x.place with
          | .here _ _ => true
          | .peer _ _ _ => false
          | .soft => false
        then pushTick s c.g.core c.g.gslot else s
      return modGroup s c.g.core c.g.gslot fun g =>
        advanceGroup s c false none (setResid (placeWords g o.d M k n t (laneValue vs)) p (softLanes xs))

/-- ATM_ADD. -/
def execAtmAdd (w : AtmW) (s : State) : Host.Outcome State Fault Refusal := runAtm (.atmAdd w) w .add s
/-- ATM_MIN. -/
def execAtmMin (w : AtmW) (s : State) : Host.Outcome State Fault Refusal := runAtm (.atmMin w) w .min s
/-- ATM_MAX. -/
def execAtmMax (w : AtmW) (s : State) : Host.Outcome State Fault Refusal := runAtm (.atmMax w) w .max s
/-- ATM_AND. -/
def execAtmAnd (w : AtmW) (s : State) : Host.Outcome State Fault Refusal := runAtm (.atmAnd w) w .and s
/-- ATM_OR. -/
def execAtmOr (w : AtmW) (s : State) : Host.Outcome State Fault Refusal := runAtm (.atmOr w) w .or s
/-- ATM_XOR. -/
def execAtmXor (w : AtmW) (s : State) : Host.Outcome State Fault Refusal := runAtm (.atmXor w) w .xor s
/-- ATM_XCHG. -/
def execAtmXchg (w : AtmW) (s : State) : Host.Outcome State Fault Refusal := runAtm (.atmXchg w) w .xchg s
/-- ATM_CAS. -/
def execAtmCas (w : AtmW) (s : State) : Host.Outcome State Fault Refusal := runAtm (.atmCas w) w .cas s

end Sys2Proof.Machine
end

