-- ==== Sys2Proof/Machine/Tree.lean ====
section
/-! DEFINITION. Machine/Tree.lean: the reduction tree: its nodes, its identities and its walk (R69, R93 to R100,
R106, R107, R118). -/
namespace Sys2Proof.Machine

/-- R69, R94: the operation of a reduction. -/
inductive RedOp where
  | sum | max | min
  deriving DecidableEq, Repr

/-- R270: the operation of a code. -/
def redOpOf (x : BitVec 2) : RedOp := if x == 0#2 then .sum else if x == 1#2 then .max else .min

/-- R96: a leaf as it enters the tree: every NaN is the canonical one. -/
def leafIn (t : Tag) (x : Nat) : Nat := if isFlt t && (fltOf t).isNaN x then (fltOf t).nanCode else x

/-- R96: the status of a leaf: NV for a signalling NaN. -/
def leafFlag (t : Tag) (x : Nat) : Flags := if isFlt t then snanFlag (fltOf t) [x] else 0

/-- R99: the rounding of a node, with NV of the operation and OF of a finite sum that rounds to an infinity. -/
def nodeRound (f : Flt) (r : XVal × Flags) : Nat × Flags :=
  let (c, F) := f.round .rn r.1
  (c, (r.2 &&& flagNV) ||| (match r.1 with
    | .fin _ _ _ _ => F &&& flagOF
    | .nan => 0
    | .inf _ => 0))

/-- R69, R99, R100: TreeNode of two present children of an element format, with the status it adds. -/
def treeNode (op : RedOp) (t : Tag) (x y : Nat) : Nat × Flags :=
  if isFlt t then
    let f := fltOf t
    match op with
    | .sum => nodeRound f (xadd .rn (f.decode x) (f.decode y))
    | .max =>
      (if f.isNaN x || f.isNaN y then f.nanCode else if xlt true (f.decode x) (f.decode y) then y else x, 0)
    | .min =>
      (if f.isNaN x || f.isNaN y then f.nanCode else if xlt true (f.decode y) (f.decode x) then y else x, 0)
  else
    let w := ewidth t
    let a := intOf (isSigned t) w x
    let b := intOf (isSigned t) w y
    match op with
    | .sum => (patOf w (a + b), if clampInt (isSigned t) w (a + b) = a + b then 0 else flagOF)
    | .max => (patOf w (Max.max a b), 0)
    | .min => (patOf w (Min.min a b), 0)

/-- R95: the identity of an operation in an element format. -/
def redIdentity (op : RedOp) (t : Tag) : Nat :=
  if isFlt t then
    let f := fltOf t
    match op with
    | .sum => 0
    | .max => if f.b8 then (if f.signed then 0xFF else 0x00) else f.withSign true f.infCode
    | .min => if f.b8 then (if f.signed then 0x7F else 0xFE) else f.infCode
  else
    let w := ewidth t
    match op with
    | .sum => 0
    | .max => if isSigned t then 2 ^ (w - 1) else 0
    | .min => if isSigned t then 2 ^ (w - 1) - 1 else 2 ^ w - 1

/-- R94: one level of a tree of present and absent nodes: siblings meet, an absent one passes the other unchanged. -/
def pairUp {α : Type} (node : α → α → α × Flags) : List (Option α) → List (Option α) × Flags
  | [] => ([], 0)
  | [x] => ([x], 0)
  | x :: y :: t =>
    let (r, F) := pairUp node t
    match x, y with
    | none, y => (y :: r, F)
    | x, none => (x :: r, F)
    | some a, some b =>
      let (c, G) := node a b
      (some c :: r, F ||| G)

/-- R93, R94: the root of a tree of the given depth over leaves 0, 1, …; none when every leaf is absent. -/
def treeRoot {α : Type} (node : α → α → α × Flags) : Nat → List (Option α) → Option α × Flags
  | 0, xs => ((xs.head?).join, 0)
  | d + 1, xs =>
    let (ys, F) := pairUp node xs
    let (r, G) := treeRoot node d ys
    (r, F ||| G)

/-- R93: the least depth that covers an extent. -/
def treeDepth (n : Nat) : Nat := if n ≤ 1 then 0 else Nat.log2 (n - 1) + 1

/-- R94 to R100: a reduction of the elements of a row: root and status; the leaves enter under R96. -/
def reduceElems (op : RedOp) (t : Tag) (xs : List (Option Nat)) : Option Nat × Flags :=
  let (r, F) := treeRoot (treeNode op t) (treeDepth xs.length) (xs.map fun x => x.map (leafIn t))
  (r, xs.foldl (fun G x => match x with
    | some v => G ||| leafFlag t v
    | none => G) F)

/-- R118: the triple of a statistics node. -/
structure Stat where
  n : Nat
  mu : Nat
  ss : Nat
  deriving DecidableEq, Repr

/-- R118: StatNode, with its status. -/
def statNode (f : Flt) (A B : Stat) : Stat × Flags :=
  let n := A.n + B.n
  let D := f.decode
  let (d, F1) := nodeRound f (xadd .rn (D B.mu) (D A.mu).negate)
  let (q, F2) := nodeRound f (xdiv (xint B.n) (xint n))
  let (dq, F3) := nodeRound f (xmul (D d) (D q))
  let (mu, F4) := nodeRound f (xadd .rn (D A.mu) (D dq))
  let (w, F5) := nodeRound f (xdiv (xint (A.n * B.n : Nat)) (xint n))
  let (ab, F6) := nodeRound f (xadd .rn (D A.ss) (D B.ss))
  let (dd, F7) := nodeRound f (xmul (D d) (D d))
  let (dw, F8) := nodeRound f (xmul (D dd) (D w))
  let (ss, F9) := nodeRound f (xadd .rn (D ab) (D dw))
  (⟨n, mu, ss⟩, F1 ||| F2 ||| F3 ||| F4 ||| F5 ||| F6 ||| F7 ||| F8 ||| F9)

/-- R106: the level of the largest node that starts at a and ends by b, from a level up. -/
def nodeLevel (a b : Nat) : Nat → Nat → Nat
  | 0, l => l
  | n + 1, l => if a % 2 ^ (l + 1) = 0 ∧ a + 2 ^ (l + 1) ≤ b then nodeLevel a b n (l + 1) else l

/-- R106: Decompose, the nodes that cover the leaves [a, b), level and index, in ascending order; n bounds their
number. -/
def decomposeFrom : Nat → Nat → Nat → List (Nat × Nat)
  | 0, _, _ => []
  | n + 1, a, b =>
    if a < b then
      let l := nodeLevel a b b 0
      (l, a / 2 ^ l) :: decomposeFrom n (a + 2 ^ l) b
    else []

/-- R106: Decompose(a, b). -/
def decompose (a b : Nat) : List (Nat × Nat) := decomposeFrom (b - a) a b

/-- R113: the nodes of the pending levels of a run of c blocks from block a, from level i down: level and index of
each. -/
def pendingNodes (a : Nat) (c : Nat) : Nat → List (Nat × Nat)
  | 0 => if c % 2 = 1 then [(0, a)] else []
  | i + 1 =>
    if c / 2 ^ (i + 1) % 2 = 1 then (i + 1, a / 2 ^ (i + 1)) :: pendingNodes (a + 2 ^ (i + 1)) c i
    else pendingNodes a c i

end Sys2Proof.Machine
end

