-- ==== Sys2Proof/Machine/Pairing.lean ====
section
/-! DEFINITION. Machine/Pairing.lean: reduction descriptors, and the path of a fragment: core pairing buffers, switch
reduction slots, the home slice, its bivouac region, and the root (R101, R102, R270 to R274, R352 to R368, R449 to
R453, R529). -/
namespace Sys2Proof.Machine

/-! ## Labels and fragments (R101, R102, R352) -/

/-- The level of a label. -/
def labelLevel (l : Dword) : Nat := bits l 34 6
/-- The index of a label. -/
def labelIndex (l : Dword) : Nat := bits l 0 34
/-- A label. -/
def mkLabel (id : BitVec 24) (level index : Nat) : Dword :=
  BitVec.ofNat 64 (index % 2 ^ 34 + level % 64 * 2 ^ 34 + id.toNat * 2 ^ 40)
/-- The label of the sibling node. -/
def siblingLabel (l : Dword) : Dword := l ^^^ 1#64
/-- The label of the parent node. -/
def parentLabel (l : Dword) : Dword := mkLabel (labelId l) (labelLevel l + 1) (labelIndex l / 2)

/-- R102: a level and index name a node of a reduction of extent n. -/
def nodeInRange (n level index : Nat) : Bool := decide (level ≤ treeDepth n) && decide (index * 2 ^ level < n)

/-- Bytes of an element of a reduction format. -/
def redBytes (t : Tag) : Nat := ewidth t / 8
/-- R352: elements of a fragment. -/
def fragElems (tile : Bool) (t : Tag) : Nat := if tile then 64 / redBytes t else 1
/-- R352: fragments of a node. -/
def fragCount (tile : Bool) (t : Tag) : Nat := if tile then 64 * redBytes t else 1

/-- The fragment is one of the root node. -/
def Frag.isRoot (f : Frag) : Bool := labelLevel f.label == treeDepth f.n

/-- R354: the sibling's range lies wholly at or beyond the extent. -/
def Frag.siblingAbsent (f : Frag) : Bool :=
  labelIndex f.label % 2 == 0 && decide (f.n ≤ (labelIndex f.label + 1) * 2 ^ labelLevel f.label)

/-- R69: the fragment as its parent's. -/
def Frag.up (f : Frag) : Frag := { f with label := parentLabel f.label }

/-- Two fragments of one reduction. -/
def Frag.sameRed (f g : Frag) : Bool :=
  f.part == g.part && labelId f.label == labelId g.label && f.pa == g.pa &&
    f.remote.map Prod.fst == g.remote.map Prod.fst

/-- The same fragment of the same node. -/
def Frag.same (f g : Frag) : Bool := f.sameRed g && f.label == g.label && f.fno == g.fno
/-- R352: g is the sibling of f. -/
def Frag.sibling (f g : Frag) : Bool := f.sameRed g && siblingLabel f.label == g.label && f.fno == g.fno

/-- Element e of a fragment's data. -/
def fragElem (t : Tag) (d : BitVec 512) (e : Nat) : Nat := d.toNat / 2 ^ (ewidth t * e) % 2 ^ ewidth t

/-- R98: two present children's data, element by element. -/
def pairData (f : Frag) (x y : BitVec 512) : BitVec 512 × Flags :=
  (List.range (fragElems f.tile f.fmt)).foldl (fun (d, F) e =>
    let (v, G) := treeNode (redOpOf f.op) f.fmt (fragElem f.fmt x e) (fragElem f.fmt y e)
    (d ||| BitVec.ofNat 512 (v * 2 ^ (ewidth f.fmt * e)), F ||| G)) (0, 0)

/-- R352, R354: PairFrags: the parent's fragment; the left child is the one of even index, and its header goes on. -/
def pairFrags (x y : Frag) : Frag :=
  let l := if labelIndex x.label % 2 = 0 then x else y
  let r := if labelIndex x.label % 2 = 0 then y else x
  let (d, F) := if l.absent then (r.data, 0) else if r.absent then (l.data, 0) else pairData l l.data r.data
  { l with
    label := parentLabel l.label
    absent := l.absent && r.absent
    nv := l.nv || r.nv || F &&& flagNV != 0
    of := l.of || r.of || F &&& flagOF != 0
    dup := l.dup || r.dup
    orphan := l.orphan || r.orphan
    data := d }

/-- R487: kind 3 in the partition's error queue, with the descriptor's address. -/
def redErr (s : State) (part event pa : Nat) : State := errPart s part ⟨3, event, 0xFFFF, 0, pa⟩

/-! ## The bivouac region (R361 to R364) -/

/-- R361: buckets of a slice's part; none while the region is disabled. -/
def bvBuckets (s : State) (part : Nat) : Option Nat :=
  let lgb := bits (pregs s part).bvcfg 0 5
  if 4 ≤ lgb && lgb ≤ 20 then some (2 ^ lgb) else none

/-- R363: BvHash. -/
def bvHash (l : Dword) (fno : Nat) : Nat := ((l.setWidth 32 : BitVec 32) ^^^ l.extractLsb' 32 32 ^^^
  BitVec.ofNat 32 (fno * 2 ^ 16)).toNat

/-- R363: the addresses of the 32 slots a search covers, in order. -/
def bvSlots (s : State) (part slice : Nat) (l : Dword) (fno : Nat) : List Nat :=
  match bvBuckets s part with
  | none => []
  | some b =>
    let base := bits (pregs s part).bvbase 10 42 * 1024 + slice * b * 1024
    (List.range 4).flatMap fun i => (List.range 8).map fun k => base + (bvHash l fno + i) % b * 1024 + 128 * k

/-- The key of a presence counter. -/
def FilterCount.isAt (part slice idx : Nat) (c : FilterCount) : Bool := c.part == part && c.slice == slice && c.idx == idx

/-- R364: a presence counter. -/
def filterAt (s : State) (part slice : Nat) (l : Dword) (fno : Nat) : Nat :=
  match s.filters.find? (FilterCount.isAt part slice (bvHash l fno % 16384)) with
  | some c => c.count
  | none => 0

/-- A presence counter set; a zero counter is not listed. -/
def putFilter (s : State) (part slice idx v : Nat) : State :=
  let others := s.filters.filter fun c => !FilterCount.isAt part slice idx c
  { s with filters := if v = 0 then others else others ++ [⟨part, slice, idx, v⟩] }

/-- R363: the valid slot of a search that holds a label and fragment number. -/
def bvFind (s : State) (part slice : Nat) (l : Dword) (fno : Nat) : Option Nat :=
  if filterAt s part slice l fno = 0 then none
  else (bvSlots s part slice l fno).find? fun a =>
    (read64 s (a + 8)).getLsbD 16 && bits (read64 s (a + 8)) 0 16 == fno && read64 s a == l

/-- R364: a slot that was valid is emptied: its valid bit, its counter, and every counter of the partition at the
slice when no valid slot is left. -/
def bvClear (s : State) (x : Spilled) : State :=
  let w := read64 s (x.addr + 8)
  let s := write64 s (x.addr + 8) (setBits w 16 1 0)
  let idx := bvHash x.label x.fno % 16384
  let v := filterAt s x.part x.slice x.label x.fno
  let s := if 0 < v && v < 15 then putFilter s x.part x.slice idx (v - 1) else s
  let s := { s with spills := s.spills.filter fun y => !(y.part == x.part && y.addr == x.addr) }
  if s.spills.any fun y => y.part == x.part && y.slice == x.slice then s
  else { s with filters := s.filters.filter fun c => !(c.part == x.part && c.slice == x.slice) }

/-- R362: the fragment a slot holds, with the header of the fragment that takes it. [log DEDUCED 62] -/
def bvFrag (s : State) (f : Frag) (a : Nat) (l : Dword) : Frag :=
  let w := read64 s (a + 8)
  { f with
    label := l
    absent := w.getLsbD 17
    nv := w.getLsbD 18
    of := w.getLsbD 19
    dup := false
    orphan := false
    data := BitVec.ofNat 512 (readNat s (a + 0x40) 64) }

/-- R363: the slots a descriptor may hold. -/
def spillAllotment (s : State) (r : RedOpen) : Nat :=
  let sal := readNat s (r.descPa + 0x18) 4
  if sal = 0 then bits (pregs s r.part).bvcfg 8 32 else sal

/-- R363: the slots a descriptor holds. -/
def spillsOf (s : State) (r : RedOpen) : List Spilled :=
  s.spills.filter fun x => x.part == r.part && x.slice == homeSlice r.descPa && labelId x.label == r.id

/-- R363: where a spill would go; none where it is refused. -/
def spillSlot (s : State) (r : RedOpen) (l : Dword) (fno : Nat) : Option Nat :=
  if spillAllotment s r ≤ (spillsOf s r).length then none
  else (bvSlots s r.part (homeSlice r.descPa) l fno).find? fun a => !(read64 s (a + 8)).getLsbD 16

/-- R362, R363: Spill into a slot. -/
def spillTo (s : State) (r : RedOpen) (f : Frag) (a : Nat) : State :=
  let w := f.fno + 2 ^ 16 + (if f.absent then 2 ^ 17 else 0) + (if f.nv then 2 ^ 18 else 0) + (if f.of then 2 ^ 19 else 0)
  let slice := homeSlice r.descPa
  let s := writeBytes s a (bytesOfNat 8 f.label.toNat ++ bytesOfNat 8 w ++ bytesOfNat 48 0 ++
    bytesOfNat 64 (if f.absent then 0 else f.data.toNat))
  let v := filterAt s r.part slice f.label f.fno
  let s := if v < 15 then putFilter s r.part slice (bvHash f.label f.fno % 16384) (v + 1) else s
  tap { s with spills := s.spills ++ [⟨r.part, slice, a, f.label, f.fno⟩] } (1536 + 2 * slice) 0 r.part r.id.toNat

/-! ## The end of a reduction (R274, R359, R360, R366) -/

/-- R360: the fragments of a descriptor in its home slice's entries and in the bivouac region. -/
def discardHome (s : State) (r : RedOpen) : State :=
  let mine (f : Frag) : Bool := f.pa == r.descPa && f.part == r.part && f.remote.isNone && labelId f.label == r.id
  (spillsOf s r).foldl bvClear { s with sliceHeld := s.sliceHeld.filter fun h => !mine h.frag }

/-- R366: the fragments of a failed descriptor in every unit. -/
def discardAll (s : State) (r : RedOpen) : State :=
  let mine (f : Frag) : Bool := f.pa == r.descPa && f.part == r.part && f.remote.isNone && labelId f.label == r.id
  let s := discardHome s r
  { s with
    coreHeld := s.coreHeld.filter fun h => !mine h.frag
    flights := s.flights.filter fun h => !mine h.frag
    refused := s.refused.filter fun h => h.core == 192 || !mine h.frag }

/-- R360: the state has left open; the id rests. -/
def closeRed (s : State) (r : RedOpen) : State :=
  modRed s r fun r => { r with closedAt := some s.time.toNat, roots := [] }

/-- An open reduction as it stands now. -/
def redNow (s : State) (r : RedOpen) : RedOpen :=
  (s.reds.find? fun x => x.part == r.part && x.id == r.id && x.closedAt.isNone).getD r

/-- R270: software has written the descriptor while it is open; a write that leaves the bytes as they were does not
show. [log DESIGN CHOICE 124] -/
def softWritten (s : State) (r : RedOpen) : Bool :=
  r.written || ((List.range r.image.length).any fun i => read64 s (r.descPa + 8 * i) != r.image.getD i 0)

/-- R270: a write of software is remembered. -/
def noteWritten (s : State) (r : RedOpen) : State :=
  if softWritten s (redNow s r) then modRed s r fun r => { r with written := true } else s

/-- R7, R270: the status flags, bits 8, 9 and 16 to 21, of a descriptor that software has written while it was open
are undefined. -/
def freeStatus (s : State) (r : RedOpen) : State :=
  if r.written then
    let w := read64 s (r.descPa + 0x20)
    let (v, s) := drawFree s
    write64 s (r.descPa + 0x20) (setBits (setBits w 8 2 (bits v 8 2)) 16 6 (bits v 16 6))
  else s

/-- R491, R366: the descriptor fails with its flags as they stand, and one more where a bit is given. -/
def failRed (s : State) (r : RedOpen) (bit : Option Nat) : State :=
  let s := noteWritten (discardAll s r) r
  let s := match bit with
    | some b => setDescFlag s r.descPa b
    | none => s
  let s := freeStatus s (redNow s r)
  let w := read64 s (r.descPa + 0x20)
  closeRed (redErr (write64 s (r.descPa + 0x20) (setBits w 0 3 3)) r.part 31 r.descPa) r

/-- R95, R274: the bytes of a root fragment. -/
def rootBytes (f : Frag) : List Byte :=
  let n := fragElems f.tile f.fmt
  let b := redBytes f.fmt
  if f.absent then (List.range n).flatMap fun _ => bytesOfNat b (redIdentity (redOpOf f.op) f.fmt)
  else bytesOfNat (n * b) f.data.toNat

/-- R380: where a fragment of the root goes. -/
def rootPlace (r : RedOpen) (f : Frag) : Nat :=
  if f.tile then (r.dest[f.fno / 4]?).getD 0 + 64 * (f.fno % 4) else r.dest.headD 0

/-- R104, R368: a node of a reduction whose tree is complete is still on its way in some unit of the device: it overlaps
what has been contributed. -/
def strayNode (s : State) (r : RedOpen) : Bool :=
  let mine (f : Frag) : Bool := f.pa == r.descPa && f.part == r.part && f.remote.isNone && labelId f.label == r.id &&
    !f.format && nodeInRange f.n (labelLevel f.label) (labelIndex f.label)
  s.coreHeld.any (fun h => mine h.frag) || s.flights.any (fun h => mine h.frag) || s.refused.any fun h => mine h.frag

/-- R7: a root fragment with an undefined value. [log DESIGN CHOICE 124] -/
def freeRoot (s : State) (f : Frag) : Frag :=
  let v (i : Nat) : Dword := Config.freeAt s.freeCtr (f.fno * 16 + i)
  { f with
    absent := false
    data := BitVec.ofNat 512 ((List.range 8).foldl (fun d i => d + (v i).toNat * 2 ^ (64 * i)) 0) }

/-- R7, R270, R368: the root fragments as they are written: undefined where contributions overlap, or where software has
written the open descriptor. The overlap counts where the device has found it by then, or a node is still on its way.
[log DESIGN CHOICE 124] -/
def rootsOf (s : State) (r : RedOpen) : List Frag :=
  if r.overlap || r.written then r.roots.map (freeRoot s) else r.roots

/-- R274, R360: the root is complete: what the slice still holds is discarded, dest is written, then tick, and last
the state word. -/
def completeRed (s : State) (r : RedOpen) : State :=
  let late := (s.sliceHeld.any fun h => h.frag.pa == r.descPa && h.frag.part == r.part && labelId h.frag.label == r.id) ||
    !(spillsOf s r).isEmpty
  let s := noteWritten s r
  let s := if late || strayNode s r then modRed s r fun r => { r with overlap := true } else s
  let s := discardHome s r
  let s := if late then setRedFlag s r 18 else s
  let r := redNow s r
  let roots := rootsOf s r
  let s := { s with freeCtr := s.freeCtr + 1 }
  let s := roots.foldl (fun s f => writeBytes s (rootPlace r f) (rootBytes f)) s
  let s := if roots.any fun f => f.nv then setDescFlag s r.descPa 8 else s
  let s := if roots.any fun f => f.of then setDescFlag s r.descPa 9 else s
  let s := freeStatus s r
  let s := write64 s (r.descPa + 0x28) s.time
  let w := read64 s (r.descPa + 0x20)
  closeRed (write64 s (r.descPa + 0x20) (setBits w 0 3 2)) r

/-- R359: RootFragment. -/
def rootFragment (s : State) (r : RedOpen) (f : Frag) : State :=
  if (redNow s r).roots.any fun g => g.fno == f.fno then setRedFlag s r 17
  else
    let s := modRed s r fun r => { r with roots := r.roots ++ [f] }
    if (redNow s r).roots.length = fragCount f.tile f.fmt then completeRed s (redNow s r) else s

/-! ## The home slice (R354, R358, R363, R529) -/

/-- R4, R358, R529: the slice's entries, 8,192 in all, have room for one more fragment of the descriptor. A share
above 8,192, or shares that together exceed it, which software must not set, are taken as they stand, and the first to
come take the entries. [log DESIGN CHOICE 125] -/
def sliceRoom (s : State) (r : RedOpen) : Bool :=
  let pal := bits (read64 s r.descPa) 16 7
  let all := s.sliceHeld.filter fun h => h.slice == homeSlice r.descPa
  let here := all.filter fun h => h.frag.part == r.part
  decide ((here.filter fun h => labelId h.frag.label == r.id).length < (if pal = 0 then 16 else pal)) &&
    decide (here.length < bits (pregs s r.part).slent 0 14) && decide (all.length < 8192) &&
    !fenced s (3328 + homeSlice r.descPa)

/-- R354, R529: ArriveAt at the home slice. occ says that the fragment has an entry already. The answer is whether the
slice takes the fragment in; where it does not, the arrival is refused as a whole and nothing has changed. Of two copies
of a node the one held stays; the root is undefined then (R368, rootsOf). [log DEDUCED 60;
DESIGN CHOICE 124] -/
def arriveSlice : Nat → State → RedOpen → Frag → Bool → State × Bool
  | 0, s, _, _, _ => (s, true)
  | n + 1, s, r, f, occ =>
    let slice := homeSlice r.descPa
    let isSib (h : SliceHeld) : Bool := h.slice == slice && f.sibling h.frag
    if !nodeInRange f.n (labelLevel f.label) (labelIndex f.label) then (setRedFlag s r 18, true)
    else if (s.sliceHeld.any fun h => h.slice == slice && f.same h.frag) ||
        (bvFind s r.part slice f.label f.fno).isSome then
      (setRedFlag s r 17, true)
    else if f.isRoot then (rootFragment s r f, true)
    else if f.siblingAbsent then arriveSlice n s r f.up occ
    else
      match s.sliceHeld.find? isSib with
      | some h =>
        arriveSlice n { s with sliceHeld := s.sliceHeld.filter fun h => !isSib h } r (pairFrags f h.frag) true
      | none =>
        match bvFind s r.part slice (siblingLabel f.label) f.fno with
        | some a =>
          let parentRoom := occ || f.up.isRoot || sliceRoom s r || (spillSlot s r (parentLabel f.label) f.fno).isSome
          if !parentRoom then (s, false)
          else if poisoned s a 128 then (failRed s r none, true)
          else
            let g := bvFrag s f a (siblingLabel f.label)
            let s := tap (bvClear s ⟨r.part, slice, a, g.label, g.fno⟩) (1537 + 2 * slice) 0 r.part r.id.toNat
            arriveSlice n s r (pairFrags f g) occ
        | none =>
          if occ || sliceRoom s r then ({ s with sliceHeld := s.sliceHeld ++ [⟨slice, f⟩] }, true)
          else
            match spillSlot s r f.label f.fno with
            | some a => (spillTo s r f a, true)
            | none => (s, false)

/-- R272, R354, R360, R452: a fragment reaches the home slice: taken in, or refused with nothing changed. [log
DEDUCED 60] -/
def sliceTakes (s : State) (f : Frag) : State × Bool :=
  match openRed s f with
  | none => (redErr s f.part 32 f.pa, true)
  | some r =>
    if f.format then (setRedFlag s r 19, true)
    else
      let s' := noteWritten s r
      let s' := if f.dup then setRedFlag s' r 17 else s'
      let s' := if f.orphan then setRedFlag s' r 18 else s'
      let (t, taken) := arriveSlice 40 s' r { f with dup := false, orphan := false } false
      (if taken then t else s, taken)

/-! ## Towards another device (R449 to R453) -/

/-- R449: the key of a fragment bound for another device. -/
def fragKey (s : State) (f : Frag) (dev : BitVec 14) : SlotKey := ⟨dev, ftidOf s f.part, labelId f.label⟩

/-- R452: the payload of a FRAG. -/
def fragPayload (f : Frag) : List Byte :=
  bytesOfNat 8 f.label.toNat ++
    bytesOfNat 8 (f.fno % 1024 + (if f.absent then 2 ^ 10 else 0) + (if f.nv then 2 ^ 11 else 0) +
      (if f.of then 2 ^ 12 else 0) + (if f.dup then 2 ^ 13 else 0) + (if f.orphan then 2 ^ 14 else 0) +
      f.op.toNat * 2 ^ 15 + (if f.tile then 2 ^ 17 else 0) + f.fmt.toNat * 2 ^ 18 + f.n % 2 ^ 35 * 2 ^ 24 +
      (if f.format then 2 ^ 59 else 0)) ++
    bytesOfNat 64 (if f.absent || f.format then 0 else f.data.toNat)

/-- R452: a header word with a nonzero reserved bit, or the reserved operation, is malformed. -/
def fragMalformed (p : Packet) : Bool :=
  p.payload.length != 80 ||
    (let w := BitVec.ofNat 64 (natOfBytes ((p.payload.drop 8).take 8))
     bits w 60 4 != 0 || bits w 15 2 == 3)

/-- R452: the fragment of a FRAG packet. -/
def fragOf (p : Packet) (part pa : Nat) (remote : Bool) : Frag :=
  let w := BitVec.ofNat 64 (natOfBytes ((p.payload.drop 8).take 8))
  ⟨BitVec.ofNat 64 (natOfBytes (p.payload.take 8)), bits w 0 10, w.getLsbD 10, w.getLsbD 11, w.getLsbD 12,
    w.getLsbD 13, w.getLsbD 14, w.getLsbD 59, BitVec.ofNat 2 (bits w 15 2), w.getLsbD 17,
    BitVec.ofNat 6 (bits w 18 6), bits w 24 35, part, BitVec.ofNat 512 (natOfBytes ((p.payload.drop 16).take 64)),
    pa, (if remote then some (p.dst, p.win, p.off) else none), p.tclass.toNat⟩

/-- R452, R453: a fragment leaves for its home device, with the flags carried for its key. -/
def sendHome (s : State) (key : SlotKey) (forwarded : Bool) (f : Frag) : State :=
  match f.remote with
  | none => s
  | some (dev, win, off) =>
    let c := s.carried.find? fun x => x.key == key
    let f := match c with
      | some x => { f with dup := f.dup || x.dup, orphan := f.orphan || x.orphan }
      | none => f
    let p := mkPacket opFRAG f.cls dev key.ftid win off.toNat 80 0 (fragPayload f)
    let p := { p with mclass := if forwarded then 1 else 0 }
    request { s with carried := s.carried.filter fun x => x.key != key } .frag p

/-- R450: the slot that serves a key. -/
def slotFor (s : State) (key : SlotKey) : Option SwitchSlot := s.slots.find? fun x => x.key == key

/-- R450: slots of a partition's reservation. -/
def slotShare (s : State) (part : Nat) : Nat := if part < 12 then bits (pregs s part).swres 0 10 else 0

/-- R450: the partition has a slot of its reservation free. -/
def ownSlotFree (s : State) (part : Nat) : Bool :=
  decide ((s.slots.filter fun x => x.part == part && !x.pool).length < slotShare s part)

/-- R450: free slots of the shared pool. -/
def poolFree (s : State) : Nat :=
  512 - ((List.range 12).map (slotShare s)).sum - (s.slots.filter fun x => x.pool).length

/-- The lowest of the device's 512 slots that is not in use (R4). -/
def freeSlotIdx (s : State) : Option Nat := (List.range 512).find? fun i => !(s.slots.any fun x => x.idx == i)

/-- R451: the key passes through while it is refused a slot. -/
def isPassing (s : State) (key : SlotKey) : Bool := s.passing.any fun x => x.1 == key

/-- R451: the keys that ask for a pool slot in this cycle, with their partitions: those of the fragments on their way
to the switch, and the one at hand. [log DEDUCED 63] -/
def asking (s : State) (key : SlotKey) (part : Nat) : List (SlotKey × Nat) :=
  let more := s.flights.filterMap fun x =>
    match x.unit, x.frag.remote with
    | .switch, some (dev, _, _) =>
      let k := fragKey s x.frag dev
      if (slotFor s k).isSome || isPassing s k || ownSlotFree s x.frag.part then none else some (k, x.frag.part)
    | .switch, none => none
    | .core, _ => none
    | .slice _, _ => none
  ((key, part) :: more).eraseDups

/-- R451: contention for pool slots is decided: the partitions beyond the free slots, in the order of the fairness
bit, are refused, their keys pass, and the bit turns. [log DEDUCED 63] -/
def settleContention (s : State) (key : SlotKey) (part : Nat) : State :=
  let ask := asking s key part
  let parts := (List.range 13).filter fun p => ask.any fun x => x.2 == p
  if 2 ≤ parts.length && poolFree s < parts.length then
    let order := if s.fairness then parts.reverse else parts
    let losers := order.drop (poolFree s)
    { s with
      passing := s.passing ++ ((ask.filter fun x => losers.contains x.2).map fun x => (x.1, s.time.toNat))
      fairness := !s.fairness }
  else s

/-- R450, R451: a slot for a key, where it gets one. [log DEDUCED 94] -/
def takeSlot (s : State) (key : SlotKey) (part : Nat) : State × Option Nat :=
  match slotFor s key with
  | some x => (s, some x.idx)
  | none =>
    let now := s.time.toNat
    if isPassing s key then
      ({ s with passing := modify (fun x => x.1 == key) (fun x => (x.1, now)) s.passing }, none)
    else
      let grant (s : State) (pool : Bool) : State × Option Nat :=
        match freeSlotIdx s with
        | some i => ({ s with slots := s.slots ++ [⟨i, key, part, pool, [], now⟩] }, some i)
        | none => (s, none)
      if ownSlotFree s part then grant s false
      else
        let s := settleContention s key part
        if isPassing s key || poolFree s = 0 then (s, none) else grant s true

/-- A slot changed. -/
def modSlot (s : State) (i : Nat) (f : SwitchSlot → SwitchSlot) : State :=
  { s with slots := modify (fun x => x.idx == i) f s.slots }

/-- R354, R452: ArriveAt with a slot as the unit; a root fragment goes on towards the home device (R359). -/
def arriveSlot : Nat → State → Nat → SlotKey → Frag → State
  | 0, s, _, _, _ => s
  | n + 1, s, i, key, f =>
    match s.slots.find? fun x => x.idx == i with
    | none => s
    | some x =>
      if f.format then sendHome s key true f
      else if !nodeInRange f.n (labelLevel f.label) (labelIndex f.label) then carryFlags s key false true
      else if x.frags.any f.same then carryFlags s key true false
      else if f.isRoot then sendHome s key true f
      else if f.siblingAbsent then arriveSlot n s i key f.up
      else
        match x.frags.find? f.sibling with
        | some g =>
          arriveSlot n (modSlot s i fun x => { x with frags := x.frags.filter fun h => !f.sibling h }) i key (pairFrags f g)
        | none =>
          if x.frags.length < 64 then modSlot s i fun x => { x with frags := x.frags ++ [f] }
          else sendHome s key true f

/-- R449, R450: a fragment at this device's switch, on its way to another device: a slot handles it, or it passes. -/
def arriveSwitch (s : State) (key : SlotKey) (part : Nat) (f : Frag) (orig : Option Packet) : State :=
  let pass (s : State) : State :=
    match orig with
    | some p => { s with outbox := s.outbox ++ [p] }
    | none => sendHome s key false f
  if f.format then pass s
  else
    match takeSlot s key part with
    | (s, none) => pass s
    | (s, some i) =>
      let s := match orig with
        | some p => respond s p opACK 0 []
        | none => s
      let s := modSlot s i fun x => { x with last := s.time.toNat }
      let s := arriveSlot 40 s i key f
      { s with slots := s.slots.filter fun x => !(x.idx == i && x.frags.isEmpty) }

/-! ## The core pairing buffer (R356, R357) -/

/-- Towards the home slice, or towards the home device through the switch; the split of owner stalls for it (R273). -/
def forwardFrag (s : State) (core : Nat) (owner : Option (Nat × Mask)) (f : Frag) : State :=
  let unit : PairUnit := if f.remote.isSome then .switch else .slice (homeSlice f.pa)
  { s with flights := s.flights ++ [⟨unit, core, f, owner⟩] }

/-- R356, R366: entries of a core's buffer in use, of all partitions or of one: held fragments and refused ones. -/
def coreUsed (s : State) (core : Nat) (part : Option Nat) : Nat :=
  let counts (c : Nat) (f : Frag) : Bool := c == core && part.all fun p => f.part == p
  (s.coreHeld.filter fun h => counts h.core h.frag).length + (s.refused.filter fun h => counts h.core h.frag).length

/-- R356: the core's buffer, of 256 entries, has one free in the partition's share. -/
def coreRoom (s : State) (core part : Nat) : Bool :=
  decide (coreUsed s core (some part) < bits (pregs s part).ppair 0 9) && decide (coreUsed s core none < 256) &&
    !fenced s core

/-- R354, R356, R529: ArriveAt at a core pairing buffer. occ says that the fragment has an entry already, its child's
(R357). -/
def arriveCore : Nat → State → Nat → Option (Nat × Mask) → Frag → Bool → State
  | 0, s, _, _, _, _ => s
  | n + 1, s, core, owner, f, occ =>
    let held := (s.coreHeld.filterMap fun h => if h.core == core then some h.frag else none) ++
      (s.refused.filterMap fun h => if h.core == core then some h.frag else none)
    if f.format then forwardFrag s core owner f
    else if f.remote.isNone && (openRed s f).isNone then redErr s f.part 32 f.pa
    else if held.any f.same then reportFrag s f true false
    else if f.isRoot then forwardFrag s core owner f
    else if f.siblingAbsent then arriveCore n s core owner f.up occ
    else
      match held.find? f.sibling with
      | some g =>
        arriveCore n { s with
          coreHeld := s.coreHeld.filter fun h => !(h.core == core && f.sibling h.frag)
          refused := s.refused.filter fun h => !(h.core == core && f.sibling h.frag) } core owner (pairFrags f g) true
      | none =>
        if occ || coreRoom s core f.part then { s with coreHeld := s.coreHeld ++ [⟨core, f, s.time.toNat⟩] }
        else forwardFrag s core owner f

/-! ## The events of a fragment's path -/

/-- R354, R363, R489: one fragment reaches the unit it is on its way to. -/
def arriveOne (s : State) (x : InFlight) : State :=
  match x.unit with
  | .core => if underTest s x.core then { s with flights := s.flights ++ [x] } else arriveCore 40 s x.core x.owner x.frag false
  | .switch =>
    match x.frag.remote with
    | none => s
    | some (dev, _, _) => arriveSwitch s (fragKey s x.frag dev) x.frag.part x.frag none
  | .slice _ =>
    if sliceBusy s x.frag.pa then { s with flights := s.flights ++ [x] }
    else
      let (t, taken) := sliceTakes s x.frag
      if taken then t else { t with refused := t.refused ++ [⟨x.core, x.frag, t.time.toNat, none, x.owner⟩] }

/-- ARRIVE_AT: the fragment longest on its way arrives. -/
def execArriveAt (s : State) : Host.Outcome State Fault Refusal :=
  match s.flights with
  | [] => .next s
  | x :: rest => .next (arriveOne { s with flights := rest } x)

/-- CORE_BUFFER_FORWARD: the fragment longest held in a core's buffer goes to its home slice. [log DEDUCED 119] -/
def execCoreBufferForward (core : Nat) (s : State) : Host.Outcome State Fault Refusal :=
  match s.coreHeld.find? fun h => h.core == core with
  | none => .next s
  | some h => .next (forwardFrag { s with coreHeld := s.coreHeld.filter fun x => !(x.core == core && h.frag.same x.frag) }
      core none h.frag)

/-- R366, R452: one refused fragment offered again. [log DEDUCED 61] -/
def reoffer (s : State) (x : Refused) : State :=
  if sliceBusy s x.frag.pa || !s.refused.contains x then s
  else
    let mine (y : Refused) : Bool := y.core == x.core && x.frag.same y.frag && y.reply == x.reply
    let (t, taken) := sliceTakes { s with refused := s.refused.filter fun y => !mine y } x.frag
    if taken then
      match x.reply with
      | some p => respond t p opACK 0 []
      | none => t
    else s

/-- FRAGMENT_REOFFER: a core, or the link of number 192, offers its refused fragments again. [log DEDUCED 61] -/
def execFragmentReoffer (core : Nat) (s : State) : Host.Outcome State Fault Refusal :=
  .next ((s.refused.filter fun x => x.core == core).foldl reoffer s)

/-- R366: how long a fragment may be refused, in ns. -/
def stallLimit : Nat := 1000000

/-- R273, R366: since when a refused fragment's contribution has been stalling: its split, where one waits for it,
and else the fragment itself. [log DEDUCED 61] -/
def stalledFrom (s : State) (x : Refused) : Nat :=
  let split := x.owner.bind fun (g, m) => (groupAt s x.core g).bind fun g =>
    ((placesOf g).find? fun p => (splitIn g p).live && (splitIn g p).arch.mask == m).bind fun p => (splitIn g p).idle
  match split with
  | some t => min t x.since
  | none => x.since

/-- SPILL_EXHAUSTED: the descriptors whose fragments of this core have stalled for 1 ms fail. [log DEDUCED 61] -/
def execSpillExhausted (core : Nat) (s : State) : Host.Outcome State Fault Refusal :=
  .next ((s.refused.filter fun x => x.core == core && stalledFrom s x + stallLimit ≤ s.time.toNat).foldl
    (fun s x => match openRed s x.frag with
      | some r => failRed s r (some 16)
      | none => s) s)

/-! ## red.init at the home slice (R270, R271) -/

/-- R270: the formats of a descriptor. -/
def redFormat (t : Tag) : Bool := decide (t.toNat ≤ 5) || isB8 t

/-- R8, R95, R270, R271: a descriptor that breaks its table. [log DEDUCED 62] -/
def descMalformed (s : State) (pa : Nat) : Bool :=
  let w (i : Nat) : Dword := read64 s (pa + 8 * i)
  let fmt := BitVec.ofNat 6 (bits (w 0) 8 6)
  let tile := (w 0).getLsbD 14
  let n := bits (w 1) 0 35
  bits (w 0) 0 2 == 3 || bits (w 0) 2 6 != 0 || (w 0).getLsbD 15 || bits (w 0) 23 41 != 0 ||
    decide (64 < bits (w 0) 16 7) || !redFormat fmt || (bits (w 0) 0 2 == 0 && (fmt == 0#6 || isB8 fmt)) ||
    bits (w 1) 35 29 != 0 || n == 0 || decide (2 ^ 34 < n) ||
    (w 2).toNat % (if tile then 256 else redBytes fmt) != 0 || bits (w 3) 32 32 != 0 ||
    w 6 != 0 || w 7 != 0 || decide (4 ≤ bits (w 4) 0 3) || bits (w 4) 3 5 != 0 || bits (w 4) 10 6 != 0 ||
    bits (w 4) 22 18 != 0

/-- R271, R360: the ids of a partition that may not be assigned: of open descriptors, for 1 ms after they left open,
and while a bivouac slot of theirs is left. [log DESIGN CHOICE 59] -/
def usedIds (s : State) (part : Nat) : List (BitVec 24) :=
  ((s.reds.filterMap fun r =>
    if r.part == part && (match r.closedAt with
        | none => true
        | some t => decide (s.time.toNat < t + 1000000))
    then some r.id else none) ++
    (s.spills.filterMap fun x => if x.part == part then some (labelId x.label) else none)).eraseDups

/-- R271: an id that may be assigned, from a place the manual leaves open; none when all 2^24 − 1 are taken. [log
DESIGN CHOICE 59] -/
def freshId (s : State) (part : Nat) : Option (BitVec 24) :=
  let used := usedIds s part
  let start := (Config.freeValue s.freeCtr).toNat
  ((List.range (used.length + 1)).map fun i => BitVec.ofNat 24 ((start + i) % (2 ^ 24 - 1) + 1)).find?
    fun i => !used.contains i

/-- R270, R271: bytes 0x20 to 0x27 of a descriptor just opened: state 1 and its id. -/
def descWord (id : BitVec 24) : Dword := BitVec.ofNat 64 (1 + id.toNat * 2 ^ 40)

/-- R271: the home slice carries out one red.init. [log DEDUCED 58] -/
def openDescriptor (s : State) (q : RedInitReq) : State :=
  let w := read64 s (q.descPa + 0x20)
  let fail (s : State) (bit : Nat) : State :=
    redErr (write64 s (q.descPa + 0x20) (BitVec.ofNat 64 (3 + 2 ^ bit))) q.part 33 q.descPa
  if bits w 0 3 = 1 then redErr s q.part 34 q.descPa
  else if descMalformed s q.descPa then fail s 20
  else
    match freshId s q.part with
    | none => fail s 21
    | some id =>
      let keep (r : RedOpen) : Bool := match r.closedAt with
        | none => true
        | some t => decide (s.time.toNat < t + 1000000)
      let s := { s with
        freeCtr := s.freeCtr + 1
        reds := s.reds.filter keep ++ [⟨id, q.part, q.descPa, q.dest, [], false,
          (List.range 6).map fun i => if i = 4 then descWord id else read64 s (q.descPa + 8 * i), false, none⟩] }
      write64 s (q.descPa + 0x20) (descWord id)

/-- SLICE_RED_INIT: the red.init longest on its way reaches its slice, unless that slice is under test (R489). -/
def execSliceRedInit (s : State) : Host.Outcome State Fault Refusal :=
  match s.redReqs with
  | [] => .next s
  | q :: rest => .next (if sliceBusy s q.descPa then { s with redReqs := rest ++ [q] }
      else openDescriptor { s with redReqs := rest } q)

/-! ## Slot events (R451, R453) -/

/-- R426, R453: the switch slot timeout in ns. -/
def slotTimeoutNs (s : State) : Nat :=
  let us := bits s.dev.swto 0 10
  1000 * (if 5 ≤ us && us ≤ 1000 then us else 50)

/-- SLOT_TIMEOUT: every fragment of a slot goes on towards its home device unchanged, and the slot is free. -/
def execSlotTimeout (slot : Nat) (s : State) : Host.Outcome State Fault Refusal :=
  match s.slots.find? fun x => x.idx == slot with
  | none => .next s
  | some x =>
    if s.time.toNat < x.last + slotTimeoutNs s then .next s
    else .next (x.frags.foldl (fun s f => sendHome s x.key true f)
      { s with slots := s.slots.filter fun y => y.idx != slot })

/-- KEY_PASS_EXPIRY: a refused key may ask for a slot again. -/
def execKeyPassExpiry (key : SlotKey) (s : State) : Host.Outcome State Fault Refusal :=
  .next { s with passing := s.passing.filter fun x => !(x.1 == key && x.2 + slotTimeoutNs s ≤ s.time.toNat) }

end Sys2Proof.Machine
end

