-- ==== Sys2Proof/Machine/Contrib.lean ====
section
/-! DEFINITION. Machine/Contrib.lean: the instructions of a contributed reduction (R271 to R273, R353, R528). -/
namespace Sys2Proof.Machine

/-! ## The descriptor at issue (R255, R378, R528) -/

/-- A descriptor as an instruction has read it. -/
structure DescAt where
  /-- host physical address, when it is local -/
  pa : Nat
  remote : Option (BitVec 14 × BitVec 12 × BitVec 38)
  bytes : List Byte
  deriving DecidableEq, Repr

/-- The 8-byte value at an offset of a descriptor. -/
def DescAt.word (d : DescAt) (off : Nat) : Dword := BitVec.ofNat 64 (natOfBytes ((d.bytes.drop off).take 8))

/-- What comes of reading a descriptor. -/
inductive DescRes where
  | got (s : State) (d : DescAt)
  /-- the split waits for the peer's answer (R528) -/
  | waits (s : State)
  deriving DecidableEq, Repr

/-- The descriptor reads a split asked for have been used. -/
def dropDesc (s : State) (c : Ctx) : State :=
  { s with descs := s.descs.filter fun d => !DescRead.isOf c.g.core c.g.gslot c.mask d }

/-- R55, R255, R378, R491, R528: a descriptor read for an instruction; a red.init of it still on its way is performed
first (R328). One at a peer is asked for, and read when the answer is back, under the translation it was asked for
with (R379). [log DEDUCED 29, 58] -/
def descAt (s : State) (c : Ctx) (i : Instr) (va : Dword) : Ex DescRes :=
  let a := va.toNat
  let trap (errs : List ErrRec) (posts : List (Nat × Nat)) : Ex DescRes := trapAt causeProtection c.mask a errs posts
  let kept (s : State) : State := keepTlb s (coreTlb c.g.core) c.part c.g.gid [a]
  if 2 ^ 56 ≤ a then trap [] []
  else if a % 64 ≠ 0 then trapAt causeMisalignment c.mask a [] []
  else
    match s.descs.find? (DescRead.isOf c.g.core c.g.gslot c.mask) with
    | some d =>
      match d.data with
      | some bs => .ok (.got s ⟨0, some (d.dev, d.win, BitVec.ofNat 38 d.off), bs⟩)
      | none => trap [] []
    | none =>
      match access s (coreTlb c.g.core) c.part c.g.gid a true false with
      | .denied errs => trap errs []
      | .nonresident => trap [] [(4, a)]
      | .ok pa _ =>
        if sliceBusy s pa || s.redReqs.any (fun q => q.descPa == pa) then .error .stall
        else if poisoned s pa 64 then trap (poisonErrs s c.g.gid pa 64) []
        else .ok (.got (kept s) ⟨pa, none, bytesAt s.mem pa 64⟩)
      | .peer dev win off =>
        let cls := classOfGrid s c.g.gid
        if chanRoom s dev (BitVec.ofNat 2 cls) 1 then
          .ok (.waits (waitSplit (request (kept s) (.desc c.g.core c.g.gslot c.mask)
            (mkPacket opRD cls dev (ftidOf s c.part) win off 64 0 [])) c .onEvent (some i) false))
        else .error .stall

/-- ISSUE_ACCESS_COMPLETE: the read of a waiting split has come back, and its instruction issues again (R528). -/
def execIssueAccessComplete (core gslot entry : Nat) (s : State) : Host.Outcome State Fault Refusal :=
  .next (match groupAt s core gslot with
    | none => s
    | some g =>
      if s.descs.any (DescRead.isOf core gslot (splitIn g entry).arch.mask) then wakeSplit s core gslot entry else s)

/-! ## Nodes (R102, R272, R352, R353) -/

/-- The header a descriptor gives its fragments, for a partition and a traffic class. -/
def descFrag (part cls : Nat) (d : DescAt) (level index : Nat) : Frag :=
  let w := d.word 0
  let n := bits (d.word 8) 0 35
  ⟨mkLabel (BitVec.ofNat 24 (bits (d.word 0x20) 40 24)) level index, 0, false, false, false, false,
    !nodeInRange n level index, false, BitVec.ofNat 2 (bits w 0 2), w.getLsbD 14, BitVec.ofNat 6 (bits w 8 6), n, part,
    0, d.pa, d.remote, cls⟩

/-- The header of an instruction's fragments. -/
def fragOfDesc (s : State) (c : Ctx) (d : DescAt) (level index : Nat) : Frag :=
  descFrag c.part (classOfGrid s c.g.gid) d level index

/-- R96, R272: the fragment of a scalar node with a value of a tag; one that does not match reports FORMAT. -/
def valueFrag (f : Frag) (t : Tag) (v : Nat) : Frag :=
  if t = f.fmt && !f.tile then
    { f with data := BitVec.ofNat 512 (leafIn t v), nv := leafFlag t v &&& flagNV != 0 }
  else { f with format := true, orphan := false }

/-- R103, R352: the fragments of a null node; a node out of range is one report. -/
def nullFrags (f : Frag) : List Frag :=
  if f.orphan then [f]
  else (List.range (fragCount f.tile f.fmt)).map fun k => { f with absent := true, fno := k }

/-- R268, R273: the nodes of an instruction set out for the core pairing buffer, and its split stalls until they have
entered; or the open region holds them. -/
def contribute (s : State) (c : Ctx) (va : Nat) (fs : List Frag) : Ex State :=
  if fs.isEmpty then .ok s
  else
    holdOr s c [.node (va / 256) fs] fun s c =>
      .ok (fs.foldl (fun s f => sendFrag s c.g.core (some (c.g.gslot, c.mask)) f) s)

/-- CTRB (R272). -/
def execCtrb (pfx : Pfx) (guard : BitVec 2) (d a b : BitVec 7) (s : State) : Host.Outcome State Fault Refusal :=
  runCore (.ctrb pfx guard d a b) s fun c p f o => do
    let M := activeMask c p.operand f.guard
    let t := (readTag c o.d).getD 0
    need (!oddPair (isF64 t) o.d) causeIllegalOperand c.mask
    need (heldSpan c.g o.d (if isF64 t then 2 else 1) && heldSpan c.g o.a 1) causeRegisterBounds c.mask
    need (addrTags c o.a 1 && !brokenPair c false o.d && redFormat t) causeFormatMismatch M
    let va := srcS s c b
    match ← descAt s c (.ctrb pfx guard d a b) va with
    | .waits s => return s
    | .got s D =>
      let fs := (lanesIn M).map fun l =>
        valueFrag (fragOfDesc s c D p.operand.x.toNat ((srcVal c false o.a l).toNat % 2 ^ 32)) t
          ((srcVal c (isF64 t) o.d l).toNat % 2 ^ ewidth t)
      return retire (dropDesc (← contribute s c va.toNat fs) c) c

/-- RED_NULL (R103, R271). -/
def execRedNull (pfx : Pfx) (guard : BitVec 2) (d a : BitVec 7) (s : State) : Host.Outcome State Fault Refusal :=
  runCore (.redNull pfx guard d a) s fun c p f o => do
    let M := activeMask c p.operand f.guard
    need (heldSpan c.g o.d 1) causeRegisterBounds c.mask
    need ((readTag c o.d).getD 0 == 0#6) causeFormatMismatch M
    let va := srcS s c a
    match ← descAt s c (.redNull pfx guard d a) va with
    | .waits s => return s
    | .got s D =>
      let fs := (lanesIn M).flatMap fun l =>
        nullFrags (fragOfDesc s c D p.operand.x.toNat ((srcVal c false o.d l).toNat % 2 ^ 32))
      return retire (dropDesc (← contribute s c va.toNat fs) c) c

/-- R378, R380: the host physical addresses of dest: itself for a scalar, each 256-byte line for a tile; or the
protection trap of the page that fails. -/
def destLines (s : State) (c : Ctx) (dest : Nat) (lines : Nat) : Ex (List Nat) :=
  (List.range lines).mapM fun i =>
    let a := dest + 256 * i
    if 2 ^ 56 ≤ a then trapAt causeProtection c.mask a [] []
    else
      match access s (coreTlb c.g.core) c.part c.g.gid a true false with
      | .ok pa _ => .ok pa
      | .peer _ _ _ => trapAt causeProtection c.mask a [] []
      | .nonresident => trapAt causeProtection c.mask a [] [(4, a)]
      | .denied errs => trapAt causeProtection c.mask a errs []

/-- RED_INIT (R271): the descriptor sets out for its home slice. A descriptor at a peer cannot be opened from here.
[log DEDUCED 57] -/
def execRedInit (pfx : Pfx) (a : BitVec 7) (s : State) : Host.Outcome State Fault Refusal :=
  runCore (.redInit pfx a) s fun c _ _ _ => do
    let va := srcS s c a
    let peer := match access s (coreTlb c.g.core) c.part c.g.gid va.toNat true false with
      | .peer _ _ _ => va.toNat % 64 == 0 && decide (va.toNat < 2 ^ 56)
      | .ok _ _ => false
      | .nonresident => false
      | .denied _ => false
    if peer then trapAt causeProtection c.mask va.toNat [] []
    else
      match ← descAt s c (.redInit pfx a) va with
      | .waits s => return s
      | .got s D =>
        let w := D.word 0
        let lines := if w.getLsbD 14 then 16 * redBytes (BitVec.ofNat 6 (bits w 8 6)) else 1
        let dest ← destLines s c (D.word 16).toNat lines
        let s := keepTlb s (coreTlb c.g.core) c.part c.g.gid ((List.range lines).map fun i => (D.word 16).toNat + 256 * i)
        return retire { s with redReqs := s.redReqs ++ [⟨c.part, D.pa, dest, c.g.gid⟩] } c

/-- RED_QUERY (R271). [log DEDUCED 57] -/
def execRedQuery (pfx : Pfx) (d a : BitVec 7) (s : State) : Host.Outcome State Fault Refusal :=
  runCore (.redQuery pfx d a) s fun c _ _ _ => do
    match ← descAt s c (.redQuery pfx d a) (srcS s c a) with
    | .waits s => return s
    | .got s D => return retire (dropDesc (writeS s c d (D.word 0x20)) c) c

end Sys2Proof.Machine
end

