-- ==== Sys2Proof/Machine/Shape.lean ====
section
/-! DEFINITION. Machine/Shape.lean: shape records and the accesses of engine commands (R284 to R287, R308, R312, R320,
R378). -/
namespace Sys2Proof.Machine

/-! ## Accesses of a command -/

/-- What the accesses of a command have met so far. -/
structure CmdIo where
  /-- remote bytes not yet fetched -/
  need : List (BitVec 14 × BitVec 12 × Nat × Nat)
  /-- first cause of R312; 0 none -/
  cause : Nat
  errs : List ErrRec
  /-- pages to request (R312) -/
  posts : List Nat
  /-- a block under test is needed (R489), or a bank that drains (R322) -/
  busy : Bool
  /-- what it has read, place and bytes (R328) -/
  reads : List (ElemLoc × Nat)
  /-- an address in each 4 KiB page it has translated (R378, R383) -/
  vas : List Nat
  deriving DecidableEq, Repr

/-- No access made. -/
def CmdIo.start : CmdIo := ⟨[], 0, [], [], false, [], []⟩

/-- A computation that makes accesses of a command. -/
abbrev CmdM (α : Type) := StateM CmdIo α

/-- A failure with a cause, what it records, and the page it asks for. -/
def ioFail (cause : Nat) (errs : List ErrRec) (post : Option Nat) : CmdM Unit := fun io =>
  ((), { io with
    cause := if io.cause = 0 then cause else io.cause
    errs := io.errs ++ errs
    posts := match post with
      | none => io.posts
      | some va => if io.posts.contains (va / 4096 * 4096) then io.posts else io.posts ++ [va / 4096 * 4096] })

/-- The access has to wait. -/
def ioBusy : CmdM Unit := fun io => ((), { io with busy := true })

/-- Remote bytes the command has to fetch. -/
def ioNeed (dev : BitVec 14) (win : BitVec 12) (off n : Nat) : CmdM Unit := fun io =>
  ((), if io.need.contains (dev, win, off, n) then io else { io with need := io.need ++ [(dev, win, off, n)] })

/-- R378: an address the command translates. -/
def ioSees (a : Nat) : CmdM Unit := fun io =>
  ((), if io.vas.any fun v => v / 4096 == a / 4096 then io else { io with vas := a :: io.vas })

/-- R328: bytes the command reads. -/
def ioReads (x : ElemLoc) (n : Nat) : CmdM Unit := fun io => ((), { io with reads := (x, n) :: io.reads })

/-- R378: where the bytes at a unified virtual address lie, for a command. -/
def locMem (s : State) (k : Cmd) (a : Nat) (needW : Bool) : CmdM ElemLoc :=
  if 2 ^ 56 ≤ a then do
    ioFail 1 [] none
    return .bad
  else do
    ioSees a
    match access s (copyTlb k.core) k.part k.gid a needW false with
    | .ok pa _ => do
      if sliceBusy s pa then ioBusy
      return .mem pa
    | .peer dev win off => return .peer dev win off
    | .nonresident => do
      ioFail 2 (goneErrs s (copyTlb k.core) k.part k.gid a) (some a)
      return .bad
    | .denied errs => do
      ioFail 1 errs none
      return .bad

/-- R308, R320, R322: where a stage window offset lies, for a command. -/
def locStage (s : State) (k : Cmd) (a : Nat) (fifoOk : Bool) : CmdM ElemLoc :=
  match stageAt s k.gid k.team a with
  | none => do
    ioFail 1 [] none
    return .bad
  | some (t, b, off) =>
    match stageBank s k.gid t b with
    | none => do
      ioFail 1 [] none
      return .bad
    | some x => do
      if x.shown false = 0#2 || (x.shown false = 2#2 && !fifoOk) then
        ioFail 6 [] none
        return .bad
      else
        if x.target.isSome || underTest s (bankBlock s k.gid t x) then ioBusy
        return .stage t b off (x.shown false == 2#2)

/-- The n bytes at a place, as a number; none where they cannot be read, or have not come yet. -/
def readLoc (s : State) (k : Cmd) (x : ElemLoc) (n : Nat) : CmdM (Option Nat) := do
  ioReads x n
  match x with
  | .bad => return none
  | .mem pa =>
    if poisoned s pa n then do
      ioFail 1 (poisonErrs s k.gid pa n) none
      return none
    else return some (readNat s pa n)
  | .peer dev win off =>
    match k.fetched.find? fun f => f.dev == dev && f.win == win && f.off == off && f.len == n with
    | none => do
      ioNeed dev win off n
      return none
    | some f =>
      match f.data with
      | none => do
        ioFail 1 [] none
        return none
      | some bs => return some (natOfBytes bs)
  | .stage t b off _ =>
    match stageBank s k.gid t b with
    | none => return none
    | some x =>
      if (badWords x off n).isEmpty then return some (natOfBytes (bankBytes x off n))
      else do
        ioFail 1 ((badWords x off n).map fun w => ⟨6, 4, bankBlock s k.gid t x, k.gid, w⟩) none
        return none

/-- The n bytes at a unified virtual address. -/
def readMem (s : State) (k : Cmd) (a n : Nat) : CmdM (Option Nat) := do
  readLoc s k (← locMem s k a false) n

/-! ## Shape records (R284 to R287) -/

/-- A shape record, with the vectors of its auxiliary block. -/
structure Shape where
  va : Nat
  base : Nat
  space : Bool
  fmt : Tag
  /-- extents, dimension 0 first -/
  ext : Vector Nat 5
  /-- strides, dimension 0 first -/
  str : Vector Int 5
  aux : Nat
  rs : Bool
  cs : Bool
  zp : Bool
  gen : BitVec 16
  reserved : Bool
  rowScale : Nat
  colScale : Nat
  zero : Nat
  deriving DecidableEq, Repr

/-- The fields of 64 bytes. -/
def shapeOf (va : Nat) (x : Nat) : Shape :=
  let f (lo n : Nat) : Nat := x / 2 ^ lo % 2 ^ n
  let st (i : Nat) : Int := intOf true 48 (f (192 + 48 * i) 48)
  ⟨va, f 0 56, f 56 1 == 1, BitVec.ofNat 6 (f 58 6),
    #v[f 64 32, f 96 24, f 120 24, f 144 24, f 168 24], #v[st 0, st 1, st 2, st 3, st 4],
    f 432 50 * 64, f 482 1 == 1, f 483 1 == 1, f 484 1 == 1, BitVec.ofNat 16 (f 496 16),
    f 57 1 != 0 || f 485 11 != 0, 0, 0, 0⟩

/-- An extent. -/
def Shape.e (x : Shape) (i : Nat) : Nat := vget x.ext i 0
/-- R285: the outer extent. -/
def Shape.outer (x : Shape) : Nat := x.e 1 * x.e 2 * x.e 3 * x.e 4
/-- The elements are o4. -/
def Shape.o4 (x : Shape) : Bool := x.fmt == 0x0B#6
/-- Bytes of an element; 1 for o4. -/
def Shape.size (x : Shape) : Nat := if x.o4 then 1 else ewidth x.fmt / 8
/-- R284: the format codes of a record. -/
def shapeFormat (t : Tag) : Bool := decide (t.toNat ≤ 0x0B) || isB8 t

/-- R287: the record is malformed. -/
def Shape.malformed (x : Shape) : Bool :=
  x.reserved || !shapeFormat x.fmt || (List.range 5).any (fun i => x.e i == 0) || x.base % x.size != 0 ||
    (x.aux == 0 && (x.rs || x.cs || x.zp)) || ((x.rs || x.cs) && !isFlt x.fmt) ||
    (x.zp && x.fmt != 0x0A#6 && x.fmt != 0x0B#6)

/-- R285: the element offset of K index x0 and outer index r. -/
def Shape.offset (x : Shape) (x0 r : Nat) : Int :=
  let x1 := r % x.e 1
  let x2 := r / x.e 1 % x.e 2
  let x3 := r / (x.e 1 * x.e 2) % x.e 3
  let x4 := r / (x.e 1 * x.e 2 * x.e 3)
  let d (i n : Nat) : Int := (n : Int) * vget x.str i 0
  d 0 x0 + d 1 x1 + d 2 x2 + d 3 x3 + d 4 x4

/-- R285: where the element at an offset lies, and the half of its byte that an o4 element takes. -/
def elemLoc (s : State) (k : Cmd) (x : Shape) (o : Int) (needW fifoOk : Bool) : CmdM (ElemLoc × Option Bool) := do
  let a : Int := if x.o4 then (x.base : Int) + o / 2 else (x.base : Int) + o * (x.size : Int)
  let half : Option Bool := if x.o4 then some (o % 2 == 1) else none
  let loc ← if x.space then locStage s k (a % 2 ^ 64).toNat fifoOk else locMem s k (a % 2 ^ 64).toNat needW
  return (loc, half)

/-- The half of a byte that an o4 element takes. -/
def takeHalf (half : Option Bool) (v : Nat) : Nat :=
  match half with
  | none => v
  | some true => v / 16 % 16
  | some false => v % 16

/-- The encoding of the element at an offset. -/
def readElem (s : State) (k : Cmd) (x : Shape) (o : Int) : CmdM (Option Nat) := do
  let (loc, half) ← elemLoc s k x o false false
  let v ← readLoc s k loc x.size
  return v.map (takeHalf half)

/-- R284, R286, R287: a record and its auxiliary block read and checked; none where the command fails. [log DEDUCED
68] -/
def readShape (s : State) (k : Cmd) (va : Dword) : CmdM (Option Shape) := do
  match ← readMem s k va.toNat 64 with
  | none => return none
  | some v =>
    let x := shapeOf va.toNat v
    if va.toNat % 64 != 0 || x.malformed then
      ioFail 3 [] none
      return none
    else if x.rs || x.cs || x.zp then
      match ← readMem s k x.aux 64 with
      | none => return none
      | some w =>
        if w / 2 ^ 192 ≠ 0 then
          ioFail 3 [] none
          return none
        else return some { x with rowScale := w % 2 ^ 64, colScale := w / 2 ^ 64 % 2 ^ 64, zero := w / 2 ^ 128 % 2 ^ 64 }
    else return some x

end Sys2Proof.Machine
end

