-- ==== Sys2Proof/Machine/Matrix.lean ====
section
/-! DEFINITION. Machine/Matrix.lean: accumulators, and the work of matrix, contraction and accumulator commands (R78,
R80, R81, R107 to R113, R288, R296 to R305). -/
namespace Sys2Proof.Machine

/-! ## Accumulator states (R110, R297) -/

/-- Blocks received. -/
def accC (x : Dword) : Nat := bits x 0 17
/-- The run is folded. -/
def accFolded (x : Dword) : Bool := x.getLsbD 17
/-- Base level; 0 for an empty run. -/
def accBase (x : Dword) : Nat := bits x 18 3
/-- Start block. -/
def accM (x : Dword) : Nat := bits x 21 31
/-- The even register of an FP64 pair. -/
def accPair (x : Dword) : Bool := x.getLsbD 54

/-- R110: a control state of its parts. -/
def mkCtl (c : Nat) (folded : Bool) (base m : Nat) (pair : Bool) : Dword :=
  BitVec.ofNat 64 (c % 2 ^ 17 + (if folded then 2 ^ 17 else 0) + base % 8 * 2 ^ 18 + m % 2 ^ 31 * 2 ^ 21 +
    (if pair then 2 ^ 54 else 0))

/-- R110: a control state as memory holds it. -/
def ctlWord (ctl : Dword) (nv of : Bool) : Dword :=
  ctl ||| (if nv then 0x0010_0000_0000_0000#64 else 0) ||| (if of then 0x0020_0000_0000_0000#64 else 0)

/-- R297: an auxiliary state as memory holds it. -/
def auxWord (fmt : Tag) (fault : Bool) (absent : BitVec 16) : Dword :=
  BitVec.ofNat 64 (fmt.toNat + (if fault then 64 else 0) + absent.toNat * 2 ^ 16)

/-- R110, R297: the control and auxiliary states of an accumulator. -/
def Acc.control (a : Acc) : Dword := ctlWord a.ctl a.nv a.of
/-- The auxiliary state. -/
def Acc.auxiliary (a : Acc) : Dword := auxWord a.fmt a.fault a.absent

/-- R303: an accumulator freshly bound. -/
def Acc.cleared (n : Nat) : Acc :=
  ⟨n, 0, 0, false, false, false, 0, Vector.replicate 16 (Vector.replicate 4096 0)⟩

/-- R51: the accumulator bound to a team. -/
def accOf (t : Team) (n : Nat) : Option Acc := t.accs.find? fun a => a.num == n

/-- An accumulator of a team changed. -/
def modAcc (s : State) (gid team n : Nat) (f : Acc → Acc) : State :=
  modTeam s gid team fun t => { t with accs := modify (fun a => a.num == n) f t.accs }

/-- R302: the odd accumulator of an FP64 run. -/
def Acc.oddOfRun (a : Acc) : Bool := a.fmt == 3#6 && accBase a.ctl != 0 && !accPair a.ctl

/-- R302: the even accumulator of an FP64 run. -/
def Acc.evenOfRun (a : Acc) : Bool := a.fmt == 3#6 && accBase a.ctl != 0 && accPair a.ctl

/-- R109: the span of a run that starts at block m. -/
def accSpan (m : Nat) : Nat :=
  if m = 0 then 2 ^ 16 else ((List.range 17).filter fun i => m % 2 ^ i == 0).foldl (fun b i => max b (2 ^ i)) 1

/-- R111, R296: AccInsert at issue: the control state with one more block, and the count before it; none where a
check fails. -/
def accInsert (a : Acc) (j base : Nat) (fmt : Tag) : Option (Dword × Nat) :=
  if accBase a.ctl = 0 then some (mkCtl 1 false base j (fmt == 3#6), 0)
  else if accBase a.ctl ≠ base || accFolded a.ctl || j ≠ accM a.ctl + accC a.ctl || a.fmt ≠ fmt ||
      accC a.ctl = accSpan (accM a.ctl) then none
  else some (mkCtl (accC a.ctl + 1) false base (accM a.ctl) (fmt == 3#6), accC a.ctl)

/-! ## Words (R109) -/

/-- The word that holds pending level i. -/
def levelWord (i : Nat) : Nat := if i ≤ 14 then i + 1 else 0

/-- Word n of element e, of an accumulator or of a pair. -/
def accWord (a : Acc) (hi : Option Acc) (n e : Nat) : Nat :=
  let w (x : Acc) : Nat := (vget (vget x.words n (Vector.replicate 4096 0)) e 0).toNat
  w a + (match hi with
    | some b => 2 ^ 32 * w b
    | none => 0)

/-- The node pending at level i in element e; none where it is absent. -/
def accPend (a : Acc) (hi : Option Acc) (i e : Nat) : Option Nat :=
  if a.absent.getLsbD (levelWord i) then none else some (accWord a hi (levelWord i) e)

/-- Word n of every element written; half picks the word of a pair. An absent node leaves zero words. -/
def Acc.putWord (n : Nat) (x : Vector (Option Nat) 4096) (half : Nat) (a : Acc) : Acc :=
  let word (v : Option Nat) : Word := BitVec.ofNat 32 ((v.getD 0) / 2 ^ (32 * half))
  { a with
    words := vset a.words n (x.map word)
    absent := if (vget x 0 none).isNone then a.absent ||| BitVec.ofNat 16 (2 ^ n)
      else a.absent &&& ~~~BitVec.ofNat 16 (2 ^ n) }

/-- A node written to word n of an accumulator, or of a pair, with the status of its formation. -/
def putNode (s : State) (k : Cmd) (num : Nat) (pair : Bool) (n : Nat) (x : Vector (Option Nat) 4096) (F : Flags) :
    State :=
  let mark (a : Acc) : Acc := { a with nv := a.nv || F &&& flagNV != 0, of := a.of || F &&& flagOF != 0 }
  let s := modAcc s k.gid k.team num fun a => mark (a.putWord n x 0)
  if pair then modAcc s k.gid k.team (num + 1) fun a => mark (a.putWord n x 1) else s

/-- R69: a sum node of two children, either of them absent. -/
def sumNode (t : Tag) (x y : Option Nat) : Option Nat × Flags :=
  match x, y with
  | none, y => (y, 0)
  | x, none => (x, 0)
  | some a, some b =>
    let (c, F) := treeNode .sum t a b
    (some c, F)

/-- How many low bits of a count are 1. -/
def trailingOnes (c : Nat) : Nat := ((List.range 17).find? fun i => c / 2 ^ i % 2 == 0).getD 17

/-- R111: the node a delivered node becomes in one element, after c blocks. -/
def carryNode (a : Acc) (hi : Option Acc) (t : Tag) (c e : Nat) (x : Option Nat) : Option Nat × Flags :=
  (List.range (trailingOnes c)).foldl (fun (y, F) i =>
    let (z, G) := sumNode t (accPend a hi i e) y
    (z, F ||| G)) (x, 0)

/-- The flags of every element. -/
def allFlags (x : Vector (Option Nat × Flags) 4096) : Flags := x.toList.foldl (fun F v => F ||| v.2) 0

/-- The second accumulator of a pair. -/
def mateOf (t : Team) (num : Nat) (pair : Bool) : Option Acc := if pair then accOf t (num + 1) else none

/-- R111, R296: a node delivered to an accumulator. -/
def deliver (s : State) (k : Cmd) (num : Nat) (run : Tag) (c : Nat) (x : Vector (Option Nat) 4096) (F : Flags) : State :=
  let pair := run == 3#6
  match teamOf s k.gid k.team with
  | none => s
  | some t =>
    match accOf t num with
    | none => s
    | some a =>
      let y := Vector.ofFn fun e : Fin 4096 => carryNode a (mateOf t num pair) run c e.val (vget x e.val none)
      putNode s k num pair (levelWord (trailingOnes c)) (y.map Prod.fst) (F ||| allFlags y)

/-- R107, R112: Fold of the pending levels of one element. [log DEDUCED 64] -/
def foldElem (a : Acc) (hi : Option Acc) (t : Tag) (c e : Nat) : Option Nat × Flags :=
  ((List.range 17).filter fun i => c / 2 ^ i % 2 == 1).foldl (fun (y, F) i =>
    let (z, G) := sumNode t (accPend a hi i e) y
    (z, F ||| G)) (none, 0)

/-! ## Operands (R78, R80, R81, R288, R298) -/

/-- R298: the run format of two operand formats. -/
def runFormat (a b : Tag) : Option Tag :=
  if a = b && decide (2 ≤ a.toNat && a.toNat ≤ 5) then some (if a = 3#6 then 3#6 else 2#6)
  else if isB8 a && isB8 b then some 2#6
  else if decide (0x0A ≤ a.toNat && a.toNat ≤ 0x0B) && decide (0x0A ≤ b.toNat && b.toNat ≤ 0x0B) then some 1#6
  else none

/-- An operand element: its encoding, and its scale exponents (row in bits 7:0, column in bits 15:8) or zero point.
None is the Zero of R299. -/
abbrev OpElem := Option (Dword × Dword)

/-- One byte of a vector of an auxiliary block, or a default where the vector is absent. -/
def auxByte (s : State) (k : Cmd) (present : Bool) (a d : Nat) : CmdM Nat :=
  if present then do return (← readMem s k (a % 2 ^ 64) 1).getD 0 else return d

/-- R286, R299: the element at outer index r and K index kk of an operand. -/
def operandAt (s : State) (k : Cmd) (x : Shape) (r kk : Nat) : CmdM OpElem := do
  if x.outer ≤ r then return none
  else
    let v ← readElem s k x (x.offset kk r)
    let rs ← auxByte s k x.rs (x.rowScale + r) 0x7F
    let cs ← auxByte s k x.cs (x.colScale + kk) 0x7F
    let z ← auxByte s k x.zp (x.zero + r * ((x.e 0 + 31) / 32) + kk / 32) 0
    let aux := if isFlt x.fmt then rs + 256 * cs else if x.o4 then z % 16 else z
    return some (BitVec.ofNat 64 (v.getD 0), BitVec.ofNat 64 aux)

/-- R288, R325: the tile of an operand: rows rows from row0, nk K indices from k0. The operand cache may serve a tile it
holds; which of the two happens is open. [log DESIGN CHOICE 65] -/
def operandTile (s : State) (k : Cmd) (x : Shape) (draw row0 rows k0 nk : Nat) : CmdM (List OpElem) :=
  match s.opCache.find? fun t => t.core == k.core && t.part == k.part && t.addr.toNat == x.va && t.gen == x.gen &&
      t.row == row0 && t.k0 == k0 && t.rows == rows && t.nk == nk with
  | some t =>
    if (Config.freeValue (s.freeCtr + draw)).getLsbD 0 then return t.vals
    else (List.range rows).flatMapM fun i => (List.range nk).mapM fun n => operandAt s k x (row0 + i) (k0 + n)
  | none => (List.range rows).flatMapM fun i => (List.range nk).mapM fun n => operandAt s k x (row0 + i) (k0 + n)

/-- R288: a fetched tile enters the core's operand cache. [log DESIGN CHOICE 65] -/
def cacheTile (s : State) (k : Cmd) (x : Shape) (row0 rows k0 nk : Nat) (vals : List OpElem) : State :=
  { s with opCache := (s.opCache.filter fun t => !(t.core == k.core && t.part == k.part && t.addr.toNat == x.va &&
      t.row == row0 && t.k0 == k0 && t.rows == rows && t.nk == nk)) ++
      [⟨k.core, k.part, BitVec.ofNat 64 x.va, x.gen, row0, k0, rows, nk, vals⟩] }

/-- R80: the exponent of an element's scale; none for a NaN scale. -/
def scaleExp (aux : Dword) : Option Int :=
  let r := bits aux 0 8
  let c := bits aux 8 8
  if r = 0xFF || c = 0xFF then none else some ((r : Int) + (c : Int) - 254)

/-- A value times a power of two. -/
def xscale (x : XVal) (e : Int) : XVal :=
  match x with
  | .nan => .nan
  | .inf n => .inf n
  | .fin n m f st => .fin n m (f + e) st

/-- The value, encoding and scale of an operand element of a floating-point format; Zero has the scale 2^0. -/
def floatOperand (t : Tag) (x : OpElem) : XVal × Flags × Option Int :=
  match x with
  | none => (xzero false, 0, some 0)
  | some (v, aux) => ((fltOf t).decode v.toNat, snanFlag (fltOf t) [v.toNat], scaleExp aux)

/-- R81, R300: ScaledProduct, with the status it adds. -/
def scaledProduct (run ta tb : Tag) (x y : OpElem) : Nat × Flags :=
  let f := fltOf run
  let (a, F, ea) := floatOperand ta x
  let (b, G, eb) := floatOperand tb y
  match ea, eb with
  | some i, some j =>
    let (p, H) := xmul a b
    let (c, K) := f.round .rn (xscale p (i + j))
    (c, F ||| G ||| (H &&& flagNV) ||| (if p.isNaN then 0 else K &&& flagOF))
  | _, _ => (f.nanCode, F ||| G ||| (if a.isNaN || b.isNaN then 0 else flagNV))

/-- R78: Val of an offset code. -/
def offsetVal (x : OpElem) : Int :=
  match x with
  | none => 0
  | some (v, z) => (v.toNat : Int) - (z.toNat : Int)

/-- R299: the leaf of two operand elements. -/
def leafOf (run ta tb : Tag) (x y : OpElem) : Nat × Flags :=
  if run = 1#6 then (patOf 32 (offsetVal x * offsetVal y), 0) else scaledProduct run ta tb x y

/-- R94, R115: a node of leaves, the leaves beyond them absent, with the status of leaves and nodes. -/
def nodeOf (run : Tag) (depth : Nat) (xs : List (Nat × Flags)) : Option Nat × Flags :=
  let leaves := (List.range (2 ^ depth)).map fun n => (xs[n]?).map fun x => leafIn run x.1
  let (r, F) := treeRoot (treeNode .sum run) depth leaves
  (r, xs.foldl (fun G x => G ||| x.2) F)

/-! ## mmt and tcon (R298 to R301) -/

/-- The node of a command, and the state with the tiles it fetched cached; none where the command fails. -/
abbrev NodeRes := Option (State × Vector (Option Nat) 4096 × Flags)

/-- A failure of the whole command. -/
def failNode (cause : Nat) : CmdM NodeRes := do
  ioFail cause [] none
  return none

/-- R298, R299: the node of an `mmt`. -/
def mmtNode (s : State) (k : Cmd) (pa pb sel : Dword) (k0 : Nat) (run : Tag) : CmdM NodeRes := do
  let A ← readShape s k pa
  let B ← readShape s k pb
  match A, B with
  | some A, some B =>
    if A.e 0 ≠ B.e 0 || runFormat A.fmt B.fmt ≠ some run then failNode 4
    else
      let nk := min 64 (A.e 0 - k0)
      let row0 := bits sel 0 32
      let col0 := bits sel 32 32
      let av ← operandTile s k A 200 row0 64 k0 nk
      let bv ← operandTile s k B 201 col0 64 k0 nk
      let s := if nk = 0 then s else cacheTile (cacheTile s k A row0 64 k0 nk av) k B col0 64 k0 nk bv
      let x := Vector.ofFn fun e : Fin 4096 =>
        nodeOf run 6 ((List.range nk).map fun n =>
          leafOf run A.fmt B.fmt ((av[e.val / 64 * nk + n]?).getD none) ((bv[e.val % 64 * nk + n]?).getD none))
      return some (s, x.map Prod.fst, allFlags x)
  | _, _ => return none

/-- R301: the node of a `tcon`. -/
def tconNode (s : State) (k : Cmd) (pa pb sel : Dword) (run : Tag) : CmdM NodeRes := do
  let A ← readShape s k pa
  let B ← readShape s k pb
  match A, B with
  | some A, some B =>
    if A.e 0 ≠ 8 || A.outer < 8 || B.e 0 ≠ 8 || B.e 1 ≠ 8 || B.e 2 ≠ 8 then failNode 3
    else if run = 1#6 || runFormat A.fmt B.fmt ≠ some run then failNode 4
    else if A.rs || A.cs || A.zp || B.rs || B.cs || B.zp then failNode 3
    else
      let cd := bits sel 0 2
      let eorg := bits sel 8 24
      let av ← operandTile s k A 200 0 8 0 8
      -- element n0 of B at outer index n1 + 8 (n2 + 8 g), for the eight g from eorg up
      let bv ← operandTile s k B 201 (64 * eorg) 512 0 8
      let s := cacheTile (cacheTile s k A 0 8 0 8 av) k B (64 * eorg) 512 0 8 bv
      let x := Vector.ofFn fun f : Fin 4096 =>
        let n := f.val % 512
        let nc := n / 8 ^ cd % 8
        nodeOf run 3 ((List.range 8).map fun l =>
          scaledProduct run A.fmt B.fmt ((av[nc * 8 + l]?).getD none)
            ((bv[f.val / 512 * 512 + (n - nc * 8 ^ cd + l * 8 ^ cd)]?).getD none))
      return some (s, x.map Prod.fst, allFlags x)
  | _, _ => return none

/-! ## Accumulator commands (R302 to R305) -/

/-- R304: the bytes of an image. -/
def imageBytes (a : Acc) (hi : Option Acc) (ctl : Dword) (fmt : Tag) : List Byte :=
  let c := ctlWord ctl a.nv a.of
  let x := auxWord fmt a.fault a.absent
  bytesOfNat 8 c.toNat ++ bytesOfNat 8 x.toNat ++
    (match hi with
      | some b => bytesOfNat 8 (ctlWord (setBits ctl 54 1 0) b.nv b.of).toNat ++
          bytesOfNat 8 (auxWord fmt b.fault b.absent).toNat
      | none => bytesOfNat 16 0) ++ bytesOfNat 32 0 ++
    (List.range 65536).flatMap fun i => bytesOfNat (if hi.isSome then 8 else 4) (accWord a hi (i % 16) (i / 16))

/-- R304: the bytes of a dense store. -/
def denseBytes (a : Acc) (hi : Option Acc) : List Byte :=
  (List.range 4096).flatMap fun e => bytesOfNat (if hi.isSome then 8 else 4) (accWord a hi 0 e)

/-- R113, R305: the fragments of a run's pending nodes. -/
def runFrags (a : Acc) (hi : Option Acc) (d : Frag) (ctl : Dword) (fmt : Tag) (nv of : Bool) : List Frag :=
  let wide := if hi.isSome then 64 else 32
  let per := 512 / wide
  (pendingNodes (accM ctl) (accC ctl) 16).flatMap fun (i, j) =>
    let level := accBase ctl + i
    let f : Frag := { d with label := mkLabel (labelId d.label) level j, orphan := !nodeInRange d.n level j }
    if fmt ≠ d.fmt || !d.tile then [{ f with format := true, orphan := false }]
    else if f.orphan then [f]
    else (List.range (fragCount true fmt)).map fun n =>
      let vals := (List.range per).map fun e => accPend a hi i (n * per + e)
      { f with
        fno := n
        absent := (vals.headD none).isNone
        nv := nv
        of := of
        data := BitVec.ofNat 512 (joinElems wide (vals.map fun v => v.getD 0)) }

end Sys2Proof.Machine
end

