-- ==== Sys2Proof/Machine/Copy.lean ====
section
/-! DEFINITION. Machine/Copy.lean: what a copy command moves, and the movement of its elements (R306 to R308, R323). -/
namespace Sys2Proof.Machine

/-- A command of the queues. -/
def cmdOf (s : State) (cid : Nat) : Option Cmd := s.cmds.find? fun k => k.cid == cid

/-- A command changed. -/
def modCmd (s : State) (cid : Nat) (f : Cmd → Cmd) : State :=
  { s with cmds := modify (fun k => k.cid == cid) f s.cmds }

/-! ## Remote accesses of a command -/

/-- A masked write of bytes that do not cross a 256-byte line of a window (R428). -/
def maskedWrite (cls : Nat) (dev : BitVec 14) (ftid : BitVec 16) (win : BitVec 12) (off : Nat) (bs : List Byte) : Packet :=
  let lo := off % 256
  let line := (List.range 256).map fun i => if lo ≤ i && i < lo + bs.length then bs.getD (i - lo) 0 else 0
  let mask := (List.range 32).map fun j => BitVec.ofNat 8
    ((List.range 8).foldl (fun m i => if lo ≤ 8 * j + i && 8 * j + i < lo + bs.length then m + 2 ^ i else m) 0)
  mkPacket opWRM cls dev ftid win (off / 256 * 256) 288 0 (mask ++ line)

/-- The class of a command's packets. -/
def cmdClass (s : State) (k : Cmd) : Nat := classOfGrid s k.gid

/-- A command's request, counted with it. -/
def cmdRequest (s : State) (k : Cmd) (read : Bool) (p : Packet) : State :=
  modCmd (request s (.cmd k.cid read) p) k.cid fun k => { k with remote := k.remote + 1 }

/-- The reads a command needs are sent, as many as their channels have room for. -/
def cmdReads (s : State) (k : Cmd) (need : List (BitVec 14 × BitVec 12 × Nat × Nat)) : State :=
  need.foldl (fun s (dev, win, off, n) =>
    if chanRoom s dev (BitVec.ofNat 2 (cmdClass s k)) 1 then
      cmdRequest s k true (mkPacket opRD (cmdClass s k) dev (ftidOf s k.part) win off n 0 [])
    else s) s

/-! ## The elements of a copy (R306, R307) -/

/-- One element: its destination offset, and its source's offset; none for a value given with it. -/
structure CopyEl where
  dst : Int
  src : Option Int
  val : Nat
  deriving DecidableEq, Repr

/-- R307: every coordinate of a record, as K index and outer index. [log DEDUCED 67] -/
def coords (x : Shape) : List (Nat × Nat) :=
  (List.range x.outer).flatMap fun r => (List.range (x.e 0)).map fun i => (i, r)

/-- R306: a signed offset. -/
def signedOff (q : Dword) : Int := intOf true 64 q.toNat

/-- load, store and xfer. [log DEDUCED 67] -/
def plainEls (src dst : Shape) (q2 q3 : Dword) : List CopyEl :=
  (coords dst).map fun (i, r) => ⟨dst.offset i r + signedOff q3, some (src.offset i r + signedOff q2), 0⟩

/-- R307: an entry of an index vector; none where it cannot be read. -/
def indexAt (s : State) (k : Cmd) (q2 : Dword) (r : Nat) : CmdM (Option Nat) :=
  readMem s k ((q2.toNat + 4 * r) % 2 ^ 64) 4

/-- gather. -/
def gatherEls (s : State) (k : Cmd) (src dst : Shape) (q2 : Dword) : CmdM (List CopyEl) :=
  (List.range dst.outer).flatMapM fun r => do
    match ← indexAt s k q2 r with
    | none => return []
    | some i =>
      if i < src.outer then
        return (List.range (dst.e 0)).map fun x => ⟨dst.offset x r, some (src.offset x i), 0⟩
      else
        ioFail 5 [] none
        return (List.range (dst.e 0)).map fun x => ⟨dst.offset x r, none, 0⟩

/-- scatter. -/
def scatterEls (s : State) (k : Cmd) (src dst : Shape) (q2 : Dword) : CmdM (List CopyEl) :=
  (List.range src.outer).flatMapM fun r => do
    match ← indexAt s k q2 r with
    | none => return []
    | some i =>
      if i < dst.outer then
        return (List.range (dst.e 0)).map fun x => ⟨dst.offset x i, some (src.offset x r), 0⟩
      else
        ioFail 5 [] none
        return []

/-- An element put in its place among those of lower or equal key, after its equals. -/
def insertBy {α : Type} (key : α → Int) (x : α) : List α → List α
  | [] => [x]
  | y :: t => if key x < key y then x :: y :: t else y :: insertBy key x t

/-- A list in ascending order of a key, equal keys in their own order. -/
def sortBy {α : Type} (key : α → Int) (xs : List α) : List α := xs.foldl (fun l x => insertBy key x l) []

/-! ## The plan of a copy -/

/-- What a copy has to do once its records are read. -/
structure CopyPlan where
  takes : List (Nat × ElemLoc)
  moves : List Move
  deriving DecidableEq, Repr

/-- Nothing to move. -/
def CopyPlan.empty : CopyPlan := ⟨[], []⟩

/-- A place in a FIFO bank: its team and bank. -/
def fifoBank (x : ElemLoc) : Option (Nat × Nat) :=
  match x with
  | .stage t b _ true => some (t, b)
  | .stage _ _ _ false => none
  | .mem _ => none
  | .peer _ _ _ => none
  | .bad => none

/-- The place is reachable. -/
def ElemLoc.good (x : ElemLoc) : Bool := x != .bad

/-- The value of an element's source, and the take it needs where the source is a FIFO bank. -/
def sourceOf (s : State) (k : Cmd) (src : Option Shape) (idx : Nat) (e : CopyEl) :
    CmdM (Option Nat × Bool × Option (Nat × Int × ElemLoc)) :=
  match e.src, src with
  | some o, some x => do
    let (loc, half) ← elemLoc s k x o false true
    match fifoBank loc with
    | some _ => return (none, false, some (idx, o, loc))
    | none =>
      let v ← readLoc s k loc x.size
      return (v.map (takeHalf half), v.isNone, none)
  | _, _ => return (some e.val, false, none)

/-- The byte an o4 element at a peer shares cannot be read. -/
def lostHalf (s : State) (k : Cmd) (loc : ElemLoc) (half : Option Bool) : CmdM Bool :=
  match loc, half with
  | .peer _ _ _, some _ => do return (← readLoc s k loc 1).isNone
  | _, _ => return false

/-- R285, R308: one element planned. An o4 element at a peer is written with the other half of its byte, which is
read. -/
def planEl (s : State) (k : Cmd) (src : Option Shape) (dst : Shape) (idx : Nat) (e : CopyEl) :
    CmdM (Option (Nat × Int × ElemLoc) × Move) := do
  let (v, lost, take) ← sourceOf s k src idx e
  let (loc, half) ← elemLoc s k dst e.dst true true
  let lost2 ← lostHalf s k loc half
  return (if loc.good then take else none, ⟨idx, loc, half, dst.size, v, lost || lost2 || !loc.good⟩)

/-- R308: the o4 elements that would pass a FIFO bank are even in number, bank by bank. -/
def evenFifo (takes : List ElemLoc) (moves : List Move) : Bool :=
  let banks := (takes.filterMap fifoBank) ++
    ((moves.filter fun m => !m.skip && m.half.isSome).filterMap fun m => fifoBank m.dst)
  banks.all fun b => (banks.filter fun x => x == b).length % 2 == 0

/-- R307: the elements of a copy in ascending destination offset, planned. -/
def planEls (s : State) (k : Cmd) (src : Option Shape) (dst : Shape) (els : List CopyEl) : CmdM CopyPlan := do
  let els := sortBy CopyEl.dst els
  let ps ← ((List.range els.length).zip els).mapM fun (i, e) => planEl s k src dst i e
  let takes := (sortBy (fun x : Nat × Int × ElemLoc => x.2.1) (ps.filterMap Prod.fst)).map fun x => (x.1, x.2.2)
  let moves := ps.map Prod.snd
  if dst.o4 && !evenFifo (takes.map Prod.snd) moves then
    ioFail 6 [] none
    return CopyPlan.empty
  else return ⟨takes, moves.filter fun m => !m.skip⟩

/-- A record read, or the default that a failed one stands for. -/
def failCopy (cause : Nat) : CmdM CopyPlan := do
  ioFail cause [] none
  return CopyPlan.empty

/-- R306: the space of a record is the one its operation takes. -/
def spacesOk (kind : Nat) (src dst : Shape) : Bool :=
  match kind with
  | 0 => !src.space && dst.space
  | 1 => src.space && !dst.space
  | 2 => !src.space && dst.space
  | 3 => src.space && !dst.space
  | _ => !src.space && !dst.space

/-- R306 to R308: the plan of a copy command. [log DEDUCED 67] -/
def copyPlan (s : State) (k : Cmd) (kind : Nat) (q0 q1 q2 q3 : Dword) : CmdM CopyPlan := do
  if kind = 4 then
    match ← readShape s k q1 with
    | none => return CopyPlan.empty
    | some d =>
      let v := q2.toNat % 2 ^ (if d.o4 then 4 else ewidth d.fmt)
      planEls s k none d ((coords d).map fun (i, r) => ⟨d.offset i r, none, v⟩)
  else if kind = 5 then
    match ← readShape s k q0 with
    | none => return CopyPlan.empty
    | some x => if x.space then failCopy 3 else return CopyPlan.empty
  else
    let a ← readShape s k q0
    let b ← readShape s k q1
    match a, b with
    | some x, some d =>
      let same := if kind = 2 || kind = 3 then x.e 0 == d.e 0 else x.ext == d.ext
      if !spacesOk kind x d || x.fmt ≠ d.fmt || !same then failCopy 3
      else if kind = 2 then planEls s k (some x) d (← gatherEls s k x d q2)
      else if kind = 3 then planEls s k (some x) d (← scatterEls s k x d q2)
      else planEls s k (some x) d (plainEls x d q2 q3)
    | _, _ => return CopyPlan.empty

/-! ## Moving elements (R308, R323) -/

/-- A byte with one half replaced. [log DEDUCED 69] -/
def mergeHalf (half : Option Bool) (old v : Nat) : Nat :=
  match half with
  | none => v
  | some true => old % 16 + 16 * (v % 16)
  | some false => old / 16 * 16 + v % 16

/-- R323: the next element taken from its FIFO bank, once the bank holds it: its value stands in its move. -/
def takeNext (s : State) (k : Cmd) : Option (State × Cmd) :=
  match k.takes with
  | [] => none
  | (idx, loc) :: rest =>
    let give (k : Cmd) (v : Nat) : Cmd :=
      { k with takes := rest, moves := modify (fun m => m.idx == idx) (fun m => { m with val := some v }) k.moves }
    let n := ((k.moves.find? fun m => m.idx == idx).map Move.bytes).getD 1
    let o4 := ((k.moves.find? fun m => m.idx == idx).bind Move.half).isSome
    match loc with
    | .stage t b _ _ =>
      match k.low.find? fun x => x.1 == t && x.2.1 == b with
      | some x => some (s, give { k with low := k.low.filter fun y => y != x } x.2.2)
      | none =>
        match stageBank s k.gid t b with
        | none => some (s, { k with takes := rest, moves := k.moves.filter fun m => m.idx != idx })
        | some x =>
          if x.count < n then none
          else
            let v := natOfBytes (bankBytes x x.rd n)
            let s := modBank s k.gid t b fun x => fifoPop x n
            if o4 then some (s, give { k with low := k.low ++ [(t, b, v / 16)] } (v % 16)) else some (s, give k v)
    | .mem _ => some (s, { k with takes := rest })
    | .peer _ _ _ => some (s, { k with takes := rest })
    | .bad => some (s, { k with takes := rest })

/-- The next element written, once it has its value and its place has room. [log DEDUCED 69] -/
def moveNext (s : State) (k : Cmd) : Option (State × Cmd) :=
  match k.moves with
  | [] => none
  | m :: rest =>
    match m.val with
    | none => none
    | some v =>
      let k' := { k with moves := rest }
      match m.dst with
      | .mem pa =>
        if inRetired s pa then some (s, k')
        else some (writeNat s pa m.bytes (mergeHalf m.half (readNat s pa m.bytes) v), k')
      | .stage t b off fifo =>
        match stageBank s k.gid t b with
        | none => some (s, k')
        | some x =>
          if !fifo then
            let old := natOfBytes (bankBytes x off m.bytes)
            let bs := bytesOfNat m.bytes (mergeHalf m.half old v)
            some (modBank s k.gid t b fun x => bankPut x off bs, k')
          else if m.half.isNone then
            if 65536 < x.count + m.bytes then none
            else some (modBank s k.gid t b fun x => fifoPush x (bytesOfNat m.bytes v), k')
          else
            match k.low.find? fun y => y.1 == t && y.2.1 == b with
            | none => some (s, { k' with low := k.low ++ [(t, b, v)] })
            | some y =>
              if 65536 < x.count + 1 then none
              else some (modBank s k.gid t b fun x => fifoPush x [BitVec.ofNat 8 (y.2.2 + 16 * v)],
                { k' with low := k.low.filter fun z => z != y })
      | .peer dev win off =>
        if chanRoom s dev (BitVec.ofNat 2 (cmdClass s k)) 1 then
          let at' (f : Fetched) : Bool := f.dev == dev && f.win == win && f.off == off && f.len == m.bytes
          let old := match k.fetched.find? at' with
            | some f => natOfBytes (f.data.getD [])
            | none => 0
          let bs := bytesOfNat m.bytes (mergeHalf m.half old v)
          let k' := { k' with remote := k.remote + 1, fetched := modify at' (fun f => { f with data := some bs }) k.fetched }
          some (request s (.cmd k.cid false) (maskedWrite (cmdClass s k) dev (ftidOf s k.part) win off bs), k')
        else none
      | .bad => some (s, k')

/-- The elements of a copy moved in order for as long as none has to wait, at most a number of them. -/
def moveRun : Nat → State → Cmd → State × Cmd
  | 0, s, k => (s, k)
  | n + 1, s, k =>
    match takeNext s k with
    | some (s, k) => moveRun n s k
    | none =>
      match moveNext s k with
      | some (s, k) => moveRun n s k
      | none => (s, k)

/-- A copy goes on as far as it can; with nothing left its work is done. -/
def streamOn (s : State) (k : Cmd) (most : Nat) : State :=
  let (s, k) := moveRun most s k
  let k := if k.takes.isEmpty && k.moves.isEmpty then { k with phase := .worked } else { k with phase := .streaming }
  modCmd s k.cid fun _ => k

/-- CPY_FIFO_ELEMENT: one element taken from a FIFO bank, and one written, where they do not have to wait (R323). -/
def execCpyFifoElement (cid : Nat) (s : State) : Host.Outcome State Fault Refusal :=
  .next (match cmdOf s cid with
    | none => s
    | some k =>
      if k.phase ≠ .streaming then s
      else
        let (s, k) := (takeNext s k).getD (s, k)
        let (s, k) := (moveNext s k).getD (s, k)
        streamOn s k 0)

end Sys2Proof.Machine
end

