-- ==== Sys2Proof/Machine/Launch.lean ====
section
/-! DEFINITION. Machine/Launch.lean: launch records, their checks, and what accepting one makes (R162, R315, R392 to
R396, R399). -/
namespace Sys2Proof.Machine

/-! ## Records (R392 to R394) -/

/-- The n-byte number at an offset of some bytes. -/
def numAt (bs : List Byte) (off n : Nat) : Nat := natOfBytes ((bs.drop off).take n)

/-- R392: a record's fields, without its arguments. -/
def recordOf (bs : List Byte) : LaunchRec where
  entry := BitVec.ofNat 64 (numAt bs 0 8)
  fmask := BitVec.ofNat 128 (numAt bs 8 16)
  deps := ((List.range 4).map fun i => BitVec.ofNat 64 (numAt bs (0x18 + 8 * i) 8)).filter fun h => h != 0
  teams := numAt bs 0x38 4 + 1
  lanes := numAt bs 0x3C 2
  cw := numAt bs 0x3E 1
  chh := numAt bs 0x3F 1
  regs := numAt bs 0x40 1
  accs := numAt bs 0x41 1
  stg := numAt bs 0x42 2
  tags := numAt bs 0x44 1
  cls := numAt bs 0x45 1 % 4
  cores := numAt bs 0x45 1 / 4 % 2 == 1
  aft := numAt bs 0x45 1 / 8 % 2 == 1
  rmask := BitVec.ofNat 5 (numAt bs 0x46 1)
  bound := numAt bs 0x48 4
  drh := numAt bs 0x4C 4
  handler := BitVec.ofNat 64 (numAt bs 0x50 8)
  completion := BitVec.ofNat 64 (numAt bs 0x60 8)
  args := []

/-- R392: argument entries of a record. -/
def recordArgc (bs : List Byte) : Nat := numAt bs 0x47 1
/-- R392: address of its argument block. -/
def recordArgs (bs : List Byte) : Nat := numAt bs 0x58 8

/-- R394: the record is malformed, its argument block apart. -/
def recordBad (s : State) (part : Nat) (bs : List Byte) : Bool :=
  let r := recordOf bs
  numAt bs 0x45 1 / 16 != 0 || numAt bs 0x46 1 / 32 != 0 || numAt bs 0x68 24 != 0 ||
  r.entry.getLsbD 0 || r.entry.extractLsb' 56 8 != 0#8 ||
  r.lanes == 0 || 1024 < r.lanes || r.cw == 0 || 12 < r.cw || r.chh == 0 || 8 < r.chh || 12 < r.cw * r.chh ||
  r.regs < 32 || 120 < r.regs || r.regs % 8 != 0 || 16 < r.accs || 1024 < r.stg || 64 < r.tags ||
  8 < recordArgc bs || r.handler.getLsbD 0 || recordArgs bs % 64 != 0 || r.completion.toNat % 8 != 0 ||
  r.teams % (r.cw * r.chh) != 0 || r.cls < bits (pregs s part).pclass 0 2

/-- R393: the arguments of a block; none where an entry breaks the rule or two name one register. -/
def argsOf (bs : List Byte) (argc : Nat) : Option (List (Nat × Dword)) :=
  let es := (List.range argc).map fun i => (numAt bs (16 * i) 8, BitVec.ofNat 64 (numAt bs (16 * i + 8) 8))
  if es.all (fun e => e.1 < 64) && (es.map Prod.fst).eraseDups.length == argc then some es else none

/-- R162: the feature mask asks for nothing that capm lacks. -/
def featuresOk (m : BitVec 128) : Bool := m &&& ~~~(Config.capmh ++ Config.capml) == 0

/-! ## Acceptance (R315, R395, R396, R399) -/

/-- The launch a handle of a partition names. -/
def gridByHandle (s : State) (part : Nat) (h : Dword) : Option Grid :=
  s.grids.find? fun g => g.part == part && g.handle == h

/-- R399: launches of `eng.launch` accepted and not yet ended. [log DEDUCED 71] -/
def quotaUsed (s : State) (part : Nat) : Nat :=
  (s.grids.filter fun g => g.part == part && g.fromDevice && g.phase != .ended).length

/-- R315: handles of a grid whose launches have not ended. [log DEDUCED 71] -/
def liveHandles (s : State) (g : Grid) : Nat :=
  (g.children.filter fun h => match gridByHandle s g.part h with
    | some x => x.phase != .ended
    | none => false).length

/-- R396: records in a partition's pending set. -/
def pendingCount (s : State) (part : Nat) : Nat :=
  (s.grids.filter fun g => g.part == part && g.phase == .pending && !g.held).length

/-- The identifier of the next grid: no two grids of the device share one. -/
def freshGid (s : State) : Nat := s.grids.length + 1

/-- A record accepted under a handle; held while its guard does not hold yet. -/
def acceptLaunch (s : State) (part : Nat) (handle : Dword) (r : LaunchRec) (fromDevice held : Bool) : State :=
  { s with grids := s.grids ++ [⟨freshGid s, part, handle, r, .pending, 0, 0, 0, false, 0, 0, [], fromDevice, held, []⟩] }

/-- R398: a refused host record ends at once. -/
def refuseLaunch (s : State) (part : Nat) (handle : Dword) (r : LaunchRec) (cause : Nat) : State :=
  let g : Grid := ⟨freshGid s, part, handle, r, .ended, 0, 0, 0, false, 1, BitVec.ofNat 8 cause, [], false, false, []⟩
  writeCompletion { s with grids := s.grids ++ [g] } g

end Sys2Proof.Machine
end

