-- ==== Sys2Proof/Machine/Splits.lean ====
section
/-! DEFINITION. Machine/Splits.lean: the split table: creating, parking, restoring, merging and ending splits, the
link stack, and the sticky report (R229 to R235, R249, R405 to R408). -/
namespace Sys2Proof.Machine

/-! ## Link entries (R230, R231) -/

/-- The address of a rejoin "none". -/
def noRejoin : Dword := BitVec.allOnes 64

/-- R231: what a saved-rejoin entry stands for; none for an entry of another kind. -/
def savedRejoin (e : Dword) : Option Dword :=
  if e = noRejoin then some noRejoin
  else if !e.getLsbD 63 && e.getLsbD 0 then some (e &&& ~~~1#64)
  else none

/-- R230: the entry that saves a rejoin. -/
def saveRejoin (j : Dword) : Dword := if j = noRejoin then noRejoin else j ||| 1#64

/-- R230: a call-return entry. -/
def isCallReturn (e : Dword) : Bool := !e.getLsbD 63 && !e.getLsbD 0

/-- R230: a trap-return entry. -/
def isTrapReturn (e : Dword) : Bool := e.getLsbD 63 && e != noRejoin

/-! ## Parking (R61, R407) -/

/-- R61: the code of a split state. -/
def SplitState.code : SplitState → Nat
  | .free => 0
  | .ready => 1
  | .atRejoin => 2
  | .atBarrier => 3
  | .onEvent => 4
  | .onRegacq => 5

/-- R61: the bytes of a split record. -/
def splitBytes (p : SplitRec) : List Byte :=
  bytesOfNat 8 p.pc.toNat ++ bytesOfNat 8 p.rejoin.toNat ++ bytesOfNat 4 p.mask.toNat ++
    bytesOfNat 4 (p.state.code + 8 * p.link.length) ++
    ((List.range 4).flatMap fun i => bytesOfNat 8 (p.link.getD i 0).toNat) ++ bytesOfNat 8 0

/-- R399, R413: the host physical address of a team's context area. -/
def areaBase (s : State) (part area : Nat) : Nat :=
  bits (pregs s part).ctxbase 16 36 * 2 ^ 16 + area * bits (pregs s part).ctxcfg 0 16 * 2 ^ 16

/-- R59, R60: the host physical address of a group record of a team. -/
def groupBase (s : State) (t : Team) (grpid : Nat) : Nat := areaBase s t.part t.area + 0x1000 + 0x4800 * grpid

/-- R407: the parked records of a group stand in its overflow area. -/
def writeParked (s : State) (g : Group) : State :=
  match teamOf s g.gid g.team with
  | none => s
  | some t =>
    ((List.range g.parked.length).zip g.parked).foldl
      (fun s (k, p) => writeBytes s (groupBase s t g.grpid + 0x4000 + 64 * k) (splitBytes p.arch)) s

/-- R403: how recently a split issued, in cycles; one that never issued counts from when it became Ready. -/
def recency (lastIssue : Option Nat) (since : Nat) : Nat :=
  match lastIssue with
  | some c => c
  | none => 2 * since

/-- The element of a list with the least key, the first of equals. -/
def leastBy {α : Type} (key : α → Nat) : List α → Option α
  | [] => none
  | x :: t =>
    match leastBy key t with
    | none => some x
    | some y => some (if key x ≤ key y then x else y)

/-- R406: a split's age on device time. -/
def ageOf (now : Nat) (since : Nat) (idle : Option Nat) : Nat := idle.getD now - since

/-- R406: the split's age goes on from where it stood. -/
def resumeAge (now : Nat) (p : Split) : Split :=
  match p.idle with
  | none => p
  | some t => { p with since := p.since + (now - t), idle := none }

/-- R407: the entry whose split is parked: the least recent, outside a chain, other than one entry. -/
def victim (g : Group) (except : Nat) : Option Nat :=
  let c := (List.range 4).filter fun i => i != except && (splitAt g i).live
  let key (i : Nat) : Nat := recency (splitAt g i).lastIssue (splitAt g i).since
  match leastBy key (c.filter fun i => (splitAt g i).chain == 0) with
  | some i => some i
  | none => leastBy key c

/-- R229, R407: a new Ready split, in the lowest free entry or in the entry of a split it parks. -/
def newSplit (now except : Nat) (g : Group) (p : SplitRec) : Group :=
  let put (g : Group) (i : Nat) : Group := putSplit g i ⟨p, 0, [], none, now, none, none, false, none, none⟩
  match (List.range 4).find? fun i => !(splitAt g i).live with
  | some i => put g i
  | none =>
    match victim g except with
    | none => g
    | some i => put { g with parked := g.parked ++ [(resumeAge now (splitAt g i)).parked] } i

/-! ## Rejoin classes (R232, R233) -/

/-- R232: a split is a member of class (J, K). -/
def inClass (x : SplitRec) (J : Dword) (K : List Dword) : Bool :=
  x.link.take K.length == K &&
    (match (x.link.drop K.length).findSome? savedRejoin with
      | some a => a == J
      | none => x.rejoin == J)

/-- R232: the split stands at its rejoin and does not issue there. -/
def reachesRejoin (p : Split) : Bool :=
  p.arch.state == .ready && p.chain == 0 && p.arch.rejoin != noRejoin && p.arch.pc == p.arch.rejoin &&
    (match p.arch.link.getLast? with
      | some e => (savedRejoin e).isSome
      | none => false)

/-- The records of a group's live splits: the resident ones by entry, then the parked ones. -/
def liveRecs (g : Group) : List SplitRec := (residents g).map (·.arch) ++ g.parked.map (·.arch)

/-- R233: a waiting split alone in its class pops its saved rejoin. -/
def popRejoin (p : SplitRec) : SplitRec :=
  { p with
    pc := p.rejoin
    state := .ready
    rejoin := match p.link.getLast? with
      | some e => (savedRejoin e).getD noRejoin
      | none => noRejoin
    link := p.link.dropLast }

/-- R233: a waiting split is the only live member of its class. -/
def aloneInClass (g : Group) (p : SplitRec) : Bool :=
  p.state == .atRejoin && ((liveRecs g).filter fun x => inClass x p.rejoin p.link).length == 1

/-- R233: two resident splits waiting in one class, the lower entry first. -/
def mergePair (g : Group) : Option (Nat × Nat) :=
  ((List.range 4).flatMap fun i => (List.range 4).map fun j => (i, j)).find? fun (i, j) =>
    i < j && (splitAt g i).arch.state == .atRejoin && (splitAt g j).arch.state == .atRejoin &&
      (splitAt g i).arch.rejoin == (splitAt g j).arch.rejoin && (splitAt g i).arch.link == (splitAt g j).arch.link

/-- One restore, merge or release, where one is due. -/
def settleOnce (now : Nat) (g : Group) : Option Group :=
  match mergePair g with
  | some (i, j) =>
    let p := splitAt g i
    some (putSplit (putSplit g i { p with arch := { p.arch with mask := p.arch.mask ||| (splitAt g j).arch.mask } }) j
      Split.free)
  | none =>
    match (List.range 4).find? fun i => !(splitAt g i).live, g.parked.getLast? with
    | some i, some p => some { putSplit g i p.split with parked := g.parked.dropLast }
    | _, _ =>
      match (List.range 4).find? fun i => aloneInClass g (splitAt g i).arch with
      | some i =>
        let p := splitAt g i
        some (putSplit g i { p with arch := popRejoin p.arch, since := now })
      | none =>
        if g.parked.any fun p => aloneInClass g p.arch then
          let go (p : Parked) : Parked := { p with arch := popRejoin p.arch, since := now }
          some { g with parked := modify (fun p => aloneInClass g p.arch) go g.parked }
        else none

/-- R233, R407: every merge, release and restore that is due. -/
def settleGo (now : Nat) : Nat → Group → Group
  | 0, g => g
  | n + 1, g =>
    match settleOnce now g with
    | none => g
    | some g' => settleGo now n g'

/-- R233, R407: a group after every merge, release and restore that is due; each ends a wait, empties an entry or
fills one, so the bound is never reached. -/
def settle (s : State) (g : Group) : Group := settleGo s.time.toNat 256 g

/-- R467: a split of the group was parked, for each one more that it has now. -/
def tapParked (s : State) (g : Group) (before : Nat) : State :=
  (List.range (g.parked.length - before)).foldl
    (fun s k => tap s (8 * g.core) 0 (partOf s g) (g.gslot + 256 * (before + k + 1))) s

/-- A group put back after its split table has changed. -/
def putSettled (s : State) (g : Group) : State :=
  let before := match groupAt s g.core g.gslot with
    | some x => x.parked.length
    | none => 0
  let s := tapParked s g before
  let g := settle s g
  writeParked (putGroup s g) g

/-! ## Transfers -/

/-- The issuing split at an address, out of any chain. -/
def jumpTo (s : State) (pc : Dword) (p : Split) : Split :=
  { stampSplit s p with arch := { p.arch with pc := pc }, chain := 0, latches := [] }

/-- The issuing split transferred to an address. -/
def transfer (s : State) (c : Ctx) (pc : Dword) : State :=
  modGroup s c.cur.who.core c.cur.who.gslot fun g =>
    putSplit g c.cur.who.entry (jumpTo s pc (splitAt g c.cur.who.entry))

/-- R225: the targets of some lanes are halfword addresses of the 56-bit space; where both traps are due, misalignment
goes first. [log DEDUCED 24, 37] -/
def checkTargets (targets : List (Nat × Dword)) : Ex Unit :=
  let odd := targets.filter fun t => t.2.getLsbD 0
  let high := targets.filter fun t => t.2.extractLsb' 56 8 != 0#8
  let lanes (ts : List (Nat × Dword)) : Mask := maskOf fun l => ts.any fun t => t.1 == l
  match odd, high with
  | (_, t) :: _, _ => trapAt causeMisalignment (lanes odd) t.toNat [] []
  | [], (_, t) :: _ => trapAt causeProtection (lanes high) t.toNat [] []
  | [], [] => .ok ()

/-- The lanes of a mask with one target. -/
def laneTargets (m : Mask) (t : Dword) : List (Nat × Dword) := (lanesIn m).map fun l => (l, t)

/-- R229: the link stack of a divergence, or the register-bounds trap. -/
def divergeLink (c : Ctx) (J : Dword) : Ex (List Dword) :=
  let p := c.p.arch
  let joins := J == p.rejoin && (match p.link.getLast? with
    | some e => (savedRejoin e).isSome
    | none => false)
  if joins then .ok p.link
  else if 4 ≤ p.link.length then trapOn causeRegisterBounds c.mask
  else .ok (p.link ++ [saveRejoin p.rejoin])

/-- R229, R237: the splits of a divergence: the class the issuing split keeps, and the others in order. -/
def diverge (s : State) (c : Ctx) (J : Dword) (link : List Dword) (keep : Dword × Mask)
    (others : List (Dword × Mask)) : State :=
  match groupAt s c.cur.who.core c.cur.who.gslot with
  | none => s
  | some g =>
    let p := jumpTo s keep.1 (splitAt g c.cur.who.entry)
    let g := putSplit g c.cur.who.entry { p with arch := { p.arch with mask := keep.2, rejoin := J, link := link } }
    putSettled s (others.foldl
      (fun g o => newSplit s.time.toNat c.cur.who.entry g ⟨o.1, J, o.2, .ready, link⟩) g)

/-! ## Ending lanes (R235, R249) -/

/-- R235: a group with no lane left ends: its region closes, its blocks and its slot are free. [log DEDUCED 51] -/
def endGroup (s : State) (core gslot : Nat) : State :=
  forgetGroup { s with groups := s.groups.filter fun g => !Group.isAt core gslot g } core gslot

/-- R235: the lanes end; the issuing split, where lanes are left, goes on at the next instruction. -/
def endLanes (s : State) (c : Ctx) (lanes : Mask) : State :=
  match groupAt s c.cur.who.core c.cur.who.gslot with
  | none => s
  | some g =>
    let p := advance s c false none (splitAt g c.cur.who.entry)
    let left := p.arch.mask &&& ~~~lanes
    let p := if left = 0 then Split.free else { p with arch := { p.arch with mask := left } }
    let g := putSplit (clearSticky g lanes) c.cur.who.entry p
    if liveSplits g = 0 then endGroup s g.core g.gslot else putSettled s g

/-- R249: the report of some lanes to the grid's completion status. -/
def reportSticky (s : State) (gid : Nat) (f : BitVec 5) : State :=
  modGrid s gid fun gr => { gr with sticky := gr.sticky ||| f }

/-- R249: the sticky report of some lanes before a `bar` or `exit`: the handler is entered, or the instruction goes
on with the lanes' lst clear. The region has committed. -/
def withReport (s : State) (c : Ctx) (lanes : Mask) (k : State → Ex State) : Ex State :=
  let f := stickyOr c.g lanes
  let s := reportSticky s c.g.gid f
  let traps := match gridOf s c.g.gid with
    | some gr => reportTraps gr f
    | none => false
  if traps then .ok (enterTrapAt s c.cur.who c.cur.pcf c.cur.next ⟨causeSticky, 0, 0, lanes, false, [], []⟩)
  else k (modGroup s c.cur.who.core c.cur.who.gslot fun g => clearSticky g lanes)

/-! ## Rotation (R408) -/

/-- R408: the parked split to bring in: one 8 µs old, or, while every resident split waits, the lowest that is Ready
or whose class a resident member waits in. -/
def rotateIn (now : Nat) (g : Group) : Option Nat :=
  let idx := (List.range g.parked.length).zip g.parked
  match idx.find? fun (_, p) => p.arch.state == .ready && 8000 ≤ ageOf now p.since p.idle with
  | some (i, _) => some i
  | none =>
    if (residents g).all fun p => p.arch.state != .ready then
      (idx.find? fun (_, p) => p.arch.state == .ready || (p.arch.state == .atRejoin &&
        (residents g).any fun r => r.arch.state == .atRejoin && r.arch.rejoin == p.arch.rejoin &&
          r.arch.link == p.arch.link)).map Prod.fst
    else none

/-- R408: the resident split to take out. -/
def rotateOut (g : Group) : Option Nat :=
  leastBy (fun i => recency (splitAt g i).lastIssue (splitAt g i).since)
    ((List.range 4).filter fun i => (splitAt g i).live && (splitAt g i).chain == 0)

/-- R408: one rotation, where one is due: the outgoing record takes the incoming one's place. -/
def rotate (s : State) (g : Group) : Option State :=
  if s.clk.toNat < g.rotated + 64 then none
  else
    match rotateIn s.time.toNat g, rotateOut g with
    | some i, some e =>
      match g.parked[i]? with
      | some p =>
        let g' := { putSplit g e p.split with
          parked := g.parked.set i (resumeAge s.time.toNat (splitAt g e)).parked, rotated := s.clk.toNat }
        some (putSettled s g')
      | none => none
    | _, _ => none

end Sys2Proof.Machine
end

