-- ==== Sys2Proof/Machine/Engine.lean ====
section
/-! DEFINITION. Machine/Engine.lean: engine instructions at issue (R289 to R291, R295, R296, R302 to R306, R309 to
R311, R313 to R317, R528). -/
namespace Sys2Proof.Machine

/-! ## Shared parts of issue -/

/-- The s register i places above the one a field names. -/
def quadS (c : Ctx) (a : BitVec 7) (i : Nat) : Dword := vget c.g.s (a.toNat + i) 0

/-- R289: the guard slot an operand pfx names. -/
def guardOf (p : Pfx) : Option Nat := if p.operand.x.getLsbD 3 then some (p.operand.x.toNat % 8) else none

/-- R290: the issuing split's mask holds all 32 lanes. -/
def allLanes (c : Ctx) : Ex Unit := need (c.mask == BitVec.allOnes 32) causeIllegalConvergence c.mask

/-- The queued commands of a team. -/
def queued (s : State) (gid team : Nat) : Nat :=
  (s.cmds.filter fun k => k.gid == gid && k.team == team && k.phase == .queued).length

/-- A team's tag bits set. -/
def setTag (s : State) (gid team n : Nat) : State :=
  modTeam s gid team fun t => { t with tags := t.tags ||| BitVec.ofNat 64 (2 ^ n) }

/-- A guard slot of a team. -/
def guardSlotOf (s : State) (gid team n : Nat) : GuardSlot :=
  match teamOf s gid team with
  | some t => vget t.g n ⟨0, 0, 0, 0, 0, false, 0, 0, 0, 0⟩
  | none => ⟨0, 0, 0, 0, 0, false, 0, 0, 0, 0⟩

/-- A guard slot of a team changed. -/
def modGuard (s : State) (gid team n : Nat) (f : GuardSlot → GuardSlot) : State :=
  modTeam s gid team fun t => { t with g := vset t.g n (f (vget t.g n ⟨0, 0, 0, 0, 0, false, 0, 0, 0, 0⟩)) }

/-- R306: the copy tag a command names. -/
def CmdOp.tag : CmdOp → Option Nat
  | .cpy _ t _ _ _ _ => some t
  | .mmt _ _ _ _ _ _ _ => none
  | .tcon _ _ _ _ _ _ _ => none
  | .accZero _ => none
  | .accLoad _ _ _ _ _ => none
  | .accStore _ _ _ _ _ => none
  | .accFold _ _ _ _ => none
  | .accCtrb _ _ _ _ _ => none
  | .plan _ => none
  | .launch _ => none
  | .lnt _ => none

/-- The accumulators a command names. -/
def CmdOp.accs : CmdOp → List Nat
  | .mmt a _ _ _ _ run _ => if run = 3#6 then [a, a + 1] else [a]
  | .tcon a _ _ _ _ run _ => if run = 3#6 then [a, a + 1] else [a]
  | .accZero a => [a]
  | .accLoad a _ _ _ pair => if pair then [a, a + 1] else [a]
  | .accStore a _ _ _ pair => if pair then [a, a + 1] else [a]
  | .accFold a _ _ pair => if pair then [a, a + 1] else [a]
  | .accCtrb a _ _ _ pair => if pair then [a, a + 1] else [a]
  | .cpy _ _ _ _ _ _ => []
  | .plan _ => []
  | .launch _ => []
  | .lnt _ => []

/-- R292, R302: no command of the team that names an accumulator is left: what an instruction makes of its states at
issue is made of them now; while one is left, NV, OF, fault and the absent bits follow in the accumulator's order. [log
DEDUCED 74] -/
def accIdle (s : State) (gid team n : Nat) : Bool :=
  !(s.cmds.any fun k => k.gid == gid && k.team == team && k.op.accs.contains n)

/-- An accumulator of a team changed, where no command that names it is left. -/
def modIdleAcc (s : State) (gid team n : Nat) (f : Acc → Acc) : State :=
  if accIdle s gid team n then modAcc s gid team n f else s

/-- R302: what `acc.zero` makes of the states that commands leave. -/
def zeroStates (a : Acc) : Acc := { a with nv := false, of := false, fault := false, absent := 0 }

/-- R304: what `acc.load` makes of the states that commands leave: those of the header's words. -/
def headStates (ctl aux : Dword) (a : Acc) : Acc :=
  { a with nv := ctl.getLsbD 52, of := ctl.getLsbD 53, fault := aux.getLsbD 6, absent := aux.extractLsb' 16 16 }

/-- R305: what `acc.ctrb` makes of the states that commands leave. -/
def ctrbStates (a : Acc) : Acc := { a with nv := false, of := false }

/-- R291, R306, R310: a command enters the team's queue, its tags set and its guard slot's count raised. -/
def enqueue (s : State) (c : Ctx) (guard : Option Nat) (op : CmdOp) : State :=
  let slot := guard.map fun n => guardSlotOf s c.g.gid c.g.team n
  let dtag := slot.bind fun x => if x.den then some x.dtag.toNat else none
  let s := match guard with
    | some n => modGuard s c.g.gid c.g.team n fun x => { x with issued := x.issued + 1 }
    | none => s
  let s := (dtag.toList ++ op.tag.toList).foldl (fun s n => setTag s c.g.gid c.g.team n) s
  { s with
    cmds := s.cmds ++ [⟨s.nextCid, c.g.core, c.g.gid, c.g.team, c.part, op, guard, dtag, .queued, false, 0, [], [], [],
      [], [], 0, s.clk.toNat, 0⟩]
    nextCid := s.nextCid + 1 }

/-- R291: the effect of an instruction once the region has committed and the queue has room; a full queue makes the
split wait. -/
def issueCmd (s : State) (c : Ctx) (i : Instr) (effect : State → Ctx → Ex State) : Ex State :=
  committed s c fun s c =>
    if Config.queueEntries ≤ queued s c.g.gid c.g.team then .ok (waitSplit s c .onEvent (some i) false)
    else do return retire (← effect s c) c

/-- R528: a local place that an instruction reads or writes at issue, n bytes of one 4 KiB page from an address. [log
DEDUCED 73] -/
def issuePa (s : State) (c : Ctx) (va n : Nat) (needW : Bool) : Ex Nat :=
  if 2 ^ 56 ≤ va then trapAt causeProtection c.mask va [] []
  else
    match access s (coreTlb c.g.core) c.part c.g.gid va needW false with
    | .ok pa _ =>
      if sliceBusy s pa then .error .stall
      else if poisoned s pa n then trapAt causeProtection c.mask va (poisonErrs s c.g.gid pa n) []
      else .ok pa
    | .peer _ _ _ => trapAt causeProtection c.mask va [] []
    | .nonresident => trapAt causeProtection c.mask va [] [(1, va)]
    | .denied errs => trapAt causeProtection c.mask va errs []

/-- R51: the accumulator a field names is bound to the team. -/
def boundAcc (s : State) (c : Ctx) (n : Nat) : Ex Acc :=
  match (teamOf s c.g.gid c.g.team).bind fun t => accOf t n with
  | some a => .ok a
  | none => trapOn causeRegisterBounds c.mask

/-- The accumulator is bound. -/
def isBound (s : State) (c : Ctx) (n : Nat) : Bool := ((teamOf s c.g.gid c.g.team).bind fun t => accOf t n).isSome

/-! ## mmt and tcon (R295, R296) -/

/-- R296: the states an insert leaves at issue, in both accumulators of a pair. -/
def insertAt (s : State) (c : Ctx) (n : Nat) (ctl : Dword) (run : Tag) : State :=
  let s := modAcc s c.g.gid c.g.team n fun a => { a with ctl := ctl, fmt := run }
  if run = 3#6 then modAcc s c.g.gid c.g.team (n + 1) fun a => { a with ctl := setBits ctl 54 1 0, fmt := run } else s

/-- R295, R296: `mmt` and `tcon`, which differ in their quad's checks, their block size and their command. -/
def issueMatrix (i : Instr) (d a : BitVec 7) (unit base : Nat) (selOk runOk : Dword → Bool)
    (mk : (acc : Nat) → (pa pb sel : Dword) → (k0 : Nat) → (run : Tag) → (cnt : Nat) → CmdOp)
    (s : State) : Host.Outcome State Fault Refusal :=
  runCore i s fun c p _ _ => do
    let n := d.toNat
    let w := quadS c a 3
    let run : Tag := w.extractLsb' 58 6
    let k0 := bits w 0 34
    let acc := (teamOf s c.g.gid c.g.team).bind fun t => accOf t n
    let ins := acc.bind fun x => accInsert x (k0 / unit) base run
    need (selOk (quadS c a 2) && runOk w && k0 % unit == 0 && bits w 34 24 == 0 && !(run == 3#6 && n % 2 == 1) &&
      (acc.isNone || ins.isSome)) causeIllegalOperand c.mask
    need (acc.isSome && (run != 3#6 || isBound s c (n + 1))) causeRegisterBounds c.mask
    allLanes c
    let bad := [quadS c a 0, quadS c a 1].filter fun x => x.toNat % 64 != 0
    match bad with
    | x :: _ => trapAt causeMisalignment c.mask x.toNat [] []
    | [] =>
      match ins with
      | none => trapOn causeIllegalOperand c.mask
      | some (ctl, cnt) =>
        issueCmd s c i fun s c =>
          .ok (enqueue (insertAt s c n ctl run) c (guardOf p) (mk n (quadS c a 0) (quadS c a 1) (quadS c a 2) k0 run cnt))

/-- MMT. -/
def execMmt (pfx : Pfx) (d a : BitVec 7) (s : State) : Host.Outcome State Fault Refusal :=
  issueMatrix (.mmt pfx d a) d a 64 6 (fun _ => true) (fun w => 1 ≤ bits w 58 6 && bits w 58 6 ≤ 3)
    (fun n x y z k0 run cnt => .mmt n x y z k0 run cnt) s

/-- TCON. -/
def execTcon (pfx : Pfx) (d a : BitVec 7) (s : State) : Host.Outcome State Fault Refusal :=
  issueMatrix (.tcon pfx d a) d a 8 3 (fun w => bits w 0 2 != 3 && bits w 2 6 == 0 && bits w 32 32 == 0)
    (fun w => 2 ≤ bits w 58 6 && bits w 58 6 ≤ 3) (fun n x y z k0 run cnt => .tcon n x y z k0 run cnt) s

/-! ## acc (R302 to R305) -/

/-- ACC_ZERO. -/
def execAccZero (pfx : Pfx) (d : BitVec 7) (s : State) : Host.Outcome State Fault Refusal :=
  runCore (.accZero pfx d) s fun c p _ _ => do
    let _ ← boundAcc s c d.toNat
    allLanes c
    issueCmd s c (.accZero pfx d) fun s c =>
      let s := modIdleAcc s c.g.gid c.g.team d.toNat zeroStates
      .ok (enqueue (modAcc s c.g.gid c.g.team d.toNat fun a => { a with ctl := 0, fmt := 0 }) c (guardOf p)
        (.accZero d.toNat))

/-- An accumulator put among a team's, in ascending number. -/
def insertAcc (a : Acc) : List Acc → List Acc
  | [] => [a]
  | x :: t => if a.num < x.num then a :: x :: t else x :: insertAcc a t

/-- ACC_BIND (R303, R400). -/
def execAccBind (d : BitVec 7) (s : State) : Host.Outcome State Fault Refusal :=
  runCore (.accBind d) s fun c _ _ _ => do
    let n := d.toNat
    let mine := isBound s c n
    let taken := s.teams.any fun t => t.core == c.g.core && t.phase != .saved && (accOf t n).isSome
    let share := (pregs s c.part).pacc
    let held := match teamOf s c.g.gid c.g.team with
      | some t => t.accs.length
      | none => 0
    let asked := match gridOf s c.g.gid with
      | some g => g.record.accs
      | none => 0
    need (mine || (!taken && bits share 0 4 ≤ n && n < bits share 0 4 + bits share 4 5 && held < asked))
      causeRegisterBounds c.mask
    allLanes c
    committed s c fun s c =>
      let s := if mine then s
        else modTeam s c.g.gid c.g.team fun t => { t with accs := insertAcc (Acc.cleared n) t.accs }
      .ok (retire s c)

/-- R304: the header of an image, as its four words. -/
structure ImageHead where
  ctl : Dword
  aux : Dword
  ctl2 : Dword
  aux2 : Dword
  rest : Nat
  deriving DecidableEq, Repr

/-- R304: the header's words. -/
def imageHead (bs : List Byte) : ImageHead :=
  ⟨BitVec.ofNat 64 (numAt bs 0 8), BitVec.ofNat 64 (numAt bs 8 8), BitVec.ofNat 64 (numAt bs 16 8),
    BitVec.ofNat 64 (numAt bs 24 8), numAt bs 32 32⟩

/-- R110, R297, R304: a header an image may have. One with c above the span of m, or with base 0 and a c or m that is not
0, is taken as it is: the manual does not say. [log DESIGN CHOICE 126] -/
def ImageHead.ok (h : ImageHead) : Bool :=
  let base := accBase h.ctl
  let f64 := bits h.aux 0 6 == 3 && base != 0
  bits h.ctl 55 9 == 0 && (base == 0 || base == 3 || base == 6) && accC h.ctl ≤ 2 ^ 16 && h.rest == 0 &&
  bits h.aux 7 9 == 0 && bits h.aux 32 32 == 0 && (base == 0 || (1 ≤ bits h.aux 0 6 && bits h.aux 0 6 ≤ 3)) &&
  accPair h.ctl == f64 &&
  (if f64 then h.ctl2 == setBits h.ctl 54 1 0 && h.aux2 == h.aux else h.ctl2 == 0 && h.aux2 == 0)

/-- R304: the control state an image leaves at issue, NV and OF apart. -/
def imageCtl (h : Dword) : Dword := setBits h 52 2 0

/-- R304: the header of an image at an address, and the state with its page in the core's TLB. -/
def readHead (s : State) (c : Ctx) (va : Nat) : Ex (State × ImageHead) := do
  let pa ← issuePa s c va 64 false
  return (keepTlb s (coreTlb c.g.core) c.part c.g.gid [va], imageHead (bytesAt s.mem pa 64))

/-- R147, R304: the checks of `acc.load`, its header's among those of their kinds; a header that cannot be read raises its
trap after them. [log DEDUCED 73] -/
def checkHead (s : State) (c : Ctx) (n va : Nat) : Ex (State × ImageHead) :=
  match readHead s c va with
  | .ok (t, h) => do
    let pair := accPair h.ctl
    need (h.ok && !(pair && n % 2 == 1)) causeIllegalOperand c.mask
    need (isBound s c n && (!pair || isBound s c (n + 1))) causeRegisterBounds c.mask
    allLanes c
    return (t, h)
  | .error e => do
    need (isBound s c n) causeRegisterBounds c.mask
    allLanes c
    .error e

/-- R304: the states take a header's values at issue, in both accumulators of a pair. -/
def loadStates (s : State) (c : Ctx) (n : Nat) (h : ImageHead) : State :=
  let s := modIdleAcc s c.g.gid c.g.team n (headStates h.ctl h.aux)
  let s := modAcc s c.g.gid c.g.team n fun x => { x with ctl := imageCtl h.ctl, fmt := h.aux.setWidth 6 }
  if accPair h.ctl then
    let s := modIdleAcc s c.g.gid c.g.team (n + 1) (headStates h.ctl h.aux)
    modAcc s c.g.gid c.g.team (n + 1) fun x => { x with ctl := imageCtl h.ctl2, fmt := h.aux2.setWidth 6 }
  else s

/-- ACC_LOAD: the region commits before the header is read. -/
def execAccLoad (pfx : Pfx) (d a : BitVec 7) (s : State) : Host.Outcome State Fault Refusal :=
  runCore (.accLoad pfx d a) s fun c p _ _ => do
    let n := d.toNat
    let w := srcS s c a
    need (w.getLsbD 0 && bits w 1 7 == 0) causeIllegalOperand c.mask
    let va := w.toNat / 256 * 256
    committed s c fun s c => do
      let (s, h) ← checkHead s c n va
      issueCmd s c (.accLoad pfx d a) fun s c =>
        .ok (enqueue (loadStates s c n h) c (guardOf p) (.accLoad n (BitVec.ofNat 64 va) h.ctl h.aux (accPair h.ctl)))

/-- ACC_STORE. -/
def execAccStore (pfx : Pfx) (d a : BitVec 7) (s : State) : Host.Outcome State Fault Refusal :=
  runCore (.accStore pfx d a) s fun c p _ _ => do
    let n := d.toNat
    let w := srcS s c a
    let acc := (teamOf s c.g.gid c.g.team).bind fun t => accOf t n
    let fine := match acc with
      | some x => !x.oddOfRun && (w.getLsbD 0 || accFolded x.ctl)
      | none => true
    need (bits w 1 7 == 0 && fine) causeIllegalOperand c.mask
    let x ← boundAcc s c n
    need (!x.evenOfRun || isBound s c (n + 1)) causeRegisterBounds c.mask
    allLanes c
    issueCmd s c (.accStore pfx d a) fun s c =>
      .ok (enqueue s c (guardOf p) (.accStore n w x.ctl x.fmt x.evenOfRun))

/-- ACC_FOLD: folded is set at issue; an accumulator already folded stays as it is. [log DEDUCED 74] -/
def execAccFold (pfx : Pfx) (d : BitVec 7) (s : State) : Host.Outcome State Fault Refusal :=
  runCore (.accFold pfx d) s fun c p _ _ => do
    let n := d.toNat
    let odd := match (teamOf s c.g.gid c.g.team).bind fun t => accOf t n with
      | some x => x.oddOfRun
      | none => false
    need (!odd) causeIllegalOperand c.mask
    let x ← boundAcc s c n
    allLanes c
    issueCmd s c (.accFold pfx d) fun s c =>
      let s := modAcc s c.g.gid c.g.team n fun x => { x with ctl := setBits x.ctl 17 1 1 }
      let s := if x.evenOfRun then
          modAcc s c.g.gid c.g.team (n + 1) fun x => { x with ctl := setBits x.ctl 17 1 1 }
        else s
      .ok (enqueue s c (guardOf p) (.accFold n x.ctl x.fmt x.evenOfRun))

/-- R305: the control state of a run as its contribution takes it; with no command left on the accumulator, NV and OF
stand in it, and are cleared at issue. [log DEDUCED 74] -/
def ctrbCtl (s : State) (c : Ctx) (x : Acc) : Dword :=
  if accIdle s c.g.gid c.g.team x.num then x.control else x.ctl

/-- R305: the control state is zero after issue, in both accumulators of a pair; the run format stays. -/
def ctrbAt (s : State) (c : Ctx) (x : Acc) : State :=
  let clear (s : State) (n : Nat) : State :=
    modAcc (modIdleAcc s c.g.gid c.g.team n ctrbStates) c.g.gid c.g.team n fun a => { a with ctl := 0 }
  if x.evenOfRun then clear (clear s x.num) (x.num + 1) else clear s x.num

/-- ACC_CTRB. -/
def execAccCtrb (pfx : Pfx) (d a : BitVec 7) (s : State) : Host.Outcome State Fault Refusal :=
  runCore (.accCtrb pfx d a) s fun c p _ _ => do
    let n := d.toNat
    let fine := match (teamOf s c.g.gid c.g.team).bind fun t => accOf t n with
      | some x => !accFolded x.ctl && !x.oddOfRun
      | none => true
    need fine causeIllegalOperand c.mask
    let x ← boundAcc s c n
    allLanes c
    let va := srcS s c a
    committed s c fun s c => do
      match ← descAt s c (.accCtrb pfx d a) va with
      | .waits s => return s
      | .got s D =>
        issueCmd s c (.accCtrb pfx d a) fun s c =>
          .ok (dropDesc (enqueue (ctrbAt s c x) c (guardOf p)
            (.accCtrb n (fragOfDesc s c D 0 0) (ctrbCtl s c x) x.fmt x.evenOfRun)) c)

/-! ## cpy (R306) -/

/-- R52: a tag lies in the team's range. -/
def tagInRange (s : State) (c : Ctx) (n : Nat) : Bool :=
  match teamOf s c.g.gid c.g.team with
  | some t => t.tagFirst ≤ n && n < t.tagFirst + t.tagCount
  | none => false

/-- A copy command of a kind. -/
def issueCopy (i : Instr) (kind : BitVec 3) (d a : BitVec 7) (s : State) : Host.Outcome State Fault Refusal :=
  runCore i s fun c p _ _ => do
    need (tagInRange s c d.toNat) causeRegisterBounds c.mask
    allLanes c
    issueCmd s c i fun s c =>
      .ok (enqueue s c (guardOf p) (.cpy kind d.toNat (quadS c a 0) (quadS c a 1) (quadS c a 2) (quadS c a 3)))

/-- CPY_LOAD. -/
def execCpyLoad (pfx : Pfx) (d a : BitVec 7) (s : State) : Host.Outcome State Fault Refusal :=
  issueCopy (.cpyLoad pfx d a) 0 d a s
/-- CPY_STORE. -/
def execCpyStore (pfx : Pfx) (d a : BitVec 7) (s : State) : Host.Outcome State Fault Refusal :=
  issueCopy (.cpyStore pfx d a) 1 d a s
/-- CPY_GATHER. -/
def execCpyGather (pfx : Pfx) (d a : BitVec 7) (s : State) : Host.Outcome State Fault Refusal :=
  issueCopy (.cpyGather pfx d a) 2 d a s
/-- CPY_SCATTER. -/
def execCpyScatter (pfx : Pfx) (d a : BitVec 7) (s : State) : Host.Outcome State Fault Refusal :=
  issueCopy (.cpyScatter pfx d a) 3 d a s
/-- CPY_FILL. -/
def execCpyFill (pfx : Pfx) (d a : BitVec 7) (s : State) : Host.Outcome State Fault Refusal :=
  issueCopy (.cpyFill pfx d a) 4 d a s
/-- CPY_L2PF. -/
def execCpyL2pf (pfx : Pfx) (d a : BitVec 7) (s : State) : Host.Outcome State Fault Refusal :=
  issueCopy (.cpyL2pf pfx d a) 5 d a s
/-- CPY_XFER. -/
def execCpyXfer (pfx : Pfx) (d a : BitVec 7) (s : State) : Host.Outcome State Fault Refusal :=
  issueCopy (.cpyXfer pfx d a) 6 d a s

/-! ## wtg (R309) -/

/-- The tags of a team that are 1. -/
def teamTags (s : State) (gid team : Nat) : Dword :=
  match teamOf s gid team with
  | some t => t.tags
  | none => 0

/-- R309: a `wtg.any` or `wtg.first` of a mask is satisfied. -/
def tagsAny (s : State) (gid team : Nat) (m : Dword) : Bool := m == 0 || m &&& ~~~(teamTags s gid team) != 0
/-- R309: a `wtg.all` is satisfied. -/
def tagsAll (s : State) (gid team : Nat) (m : Dword) : Bool := m &&& teamTags s gid team == 0
/-- R309: the lowest tag of a mask that is 0, or 64. -/
def tagsFirst (s : State) (gid team : Nat) (m : Dword) : Nat :=
  ((List.range 64).find? fun i => m.getLsbD i && !(teamTags s gid team).getLsbD i).getD 64

/-- R309: the mask names tags of the team's range only. -/
def tagMaskOk (s : State) (c : Ctx) (m : Dword) : Bool :=
  (List.range 64).all fun i => !m.getLsbD i || tagInRange s c i

/-- A `wtg`: it waits until its condition holds, and then has its effect. -/
def issueWtg (i : Instr) (a : BitVec 7) (ready : State → Nat → Nat → Dword → Bool)
    (effect : State → Ctx → Dword → State) (s : State) : Host.Outcome State Fault Refusal :=
  runCore i s fun c _ _ _ => do
    let m := srcS s c a
    need (tagMaskOk s c m) causeRegisterBounds c.mask
    committed s c fun s c =>
      if ready s c.g.gid c.g.team m then .ok (retire (effect s c m) c)
      else .ok (waitSplit s c .onEvent (some i) false)

/-- WTG_ANY. -/
def execWtgAny (a : BitVec 7) (s : State) : Host.Outcome State Fault Refusal :=
  issueWtg (.wtgAny a) a tagsAny (fun s _ _ => s) s
/-- WTG_ALL. -/
def execWtgAll (a : BitVec 7) (s : State) : Host.Outcome State Fault Refusal :=
  issueWtg (.wtgAll a) a tagsAll (fun s _ _ => s) s
/-- WTG_FIRST. -/
def execWtgFirst (d a : BitVec 7) (s : State) : Host.Outcome State Fault Refusal :=
  issueWtg (.wtgFirst d a) a tagsAny
    (fun s c m => writeS s c d (BitVec.ofNat 64 (tagsFirst s c.g.gid c.g.team m))) s
/-- WTG_TEST. -/
def execWtgTest (d a : BitVec 7) (s : State) : Host.Outcome State Fault Refusal :=
  issueWtg (.wtgTest d a) a (fun _ _ _ _ => true)
    (fun s c m => writeS s c d (m &&& teamTags s c.g.gid c.g.team)) s

/-! ## eng (R311, R313 to R317) -/

/-- R310: the 64 bytes of a guard slot. -/
def guardBytes (x : GuardSlot) : List Byte :=
  bytesOfNat 8 x.wmask.toNat ++ bytesOfNat 8 x.faddr.toNat ++ bytesOfNat 8 x.fval.toNat ++
    bytesOfNat 8 (x.fcond.toNat + 2 ^ 8 * x.dtag.toNat + (if x.den then 2 ^ 14 else 0)) ++
    bytesOfNat 4 x.issued.toNat ++ bytesOfNat 4 x.done.toNat ++
    bytesOfNat 8 (x.fcause.toNat + 2 ^ 8 * x.fcount.toNat) ++ bytesOfNat 16 0

/-- R310: a guard slot's image, its counts zero. -/
def guardImage (bs : List Byte) : GuardSlot :=
  ⟨BitVec.ofNat 64 (numAt bs 0 8), BitVec.ofNat 64 (numAt bs 8 8), BitVec.ofNat 64 (numAt bs 16 8),
    BitVec.ofNat 2 (numAt bs 24 1), BitVec.ofNat 6 (numAt bs 25 1), numAt bs 25 1 / 64 % 2 == 1, 0, 0, 0, 0⟩

/-- R311: an image that `eng.gset` takes. -/
def guardImageOk (s : State) (c : Ctx) (bs : List Byte) : Bool :=
  let x := guardImage bs
  numAt bs 24 1 / 4 == 0 && numAt bs 25 1 / 128 == 0 && numAt bs 26 6 == 0 && numAt bs 45 19 == 0 &&
  tagMaskOk s c x.wmask && (!x.den || tagInRange s c x.dtag.toNat) && !(x.fcond == 3#2 && x.faddr == 0) &&
  x.faddr.toNat % 8 == 0

/-- R147, R311: the checks of an exchange, its image's among those of their kind; an image that cannot be read raises its
trap after them. The image is looked at once the slot's commands have completed. [log DEDUCED 73] -/
def checkImage (s : State) (c : Ctx) (idle : Bool) (va : Nat) : Ex Nat :=
  match issuePa s c va 64 true with
  | .ok pa => do
    need (!idle || guardImageOk s c (bytesAt s.mem pa 64)) causeIllegalOperand c.mask
    allLanes c
    return pa
  | .error e => do
    allLanes c
    .error e

/-- ENG_GSET: the region commits; the split waits until the slot's commands have completed, and then exchanges. -/
def execEngGset (a : BitVec 7) (s : State) : Host.Outcome State Fault Refusal :=
  runCore (.engGset a) s fun c _ _ _ => do
    let w := srcS s c a
    let n := bits w 0 3
    need (bits w 3 3 == 0) causeIllegalOperand c.mask
    committed s c fun s c => do
      let va := w.toNat / 64 * 64
      let x := guardSlotOf s c.g.gid c.g.team n
      let pa ← checkImage s c (x.issued == x.done) va
      let s := keepTlb s (coreTlb c.g.core) c.part c.g.gid [va]
      if x.issued ≠ x.done then return waitSplit s c .onEvent (some (.engGset a)) false
      else
        let bs := bytesAt s.mem pa 64
        return retire (modGuard (writeBytes s pa (guardBytes x)) c.g.gid c.g.team n fun _ => guardImage bs) c

/-- ENG_PLAN. -/
def execEngPlan (pfx : Pfx) (a : BitVec 7) (s : State) : Host.Outcome State Fault Refusal :=
  runCore (.engPlan pfx a) s fun c p _ _ => do
    allLanes c
    issueCmd s c (.engPlan pfx a) fun s c => .ok (enqueue s c (guardOf p) (.plan (srcS s c a)))

/-- ENG_LNT. -/
def execEngLnt (pfx : Pfx) (a : BitVec 7) (s : State) : Host.Outcome State Fault Refusal :=
  runCore (.engLnt pfx a) s fun c p _ _ => do
    let w := srcS s c a
    need (bits w 10 6 == 0) causeIllegalOperand c.mask
    allLanes c
    issueCmd s c (.engLnt pfx a) fun s c => .ok (enqueue s c (guardOf p) (.lnt w))

/-- R315: what comes of a place that `eng.launch` reads. -/
inductive LaunchRead where
  | bytes (bs : List Byte)
  /-- refused with NONRESIDENT: the page to ask for -/
  | absent (va : Nat)
  deriving DecidableEq, Repr

/-- R378: n bytes from an address, at most one 4 KiB page, as the parts of the pages they lie in. -/
def pageParts (va n : Nat) : List (Nat × Nat) :=
  let k := 4096 - va % 4096
  if n ≤ k then [(va, n)] else [(va, k), (va + k, n - k)]

/-- R315, R528: bytes of one page that `eng.launch` reads at issue. -/
def launchPage (s : State) (c : Ctx) (va n : Nat) : Ex LaunchRead :=
  let absent := match access s (coreTlb c.g.core) c.part c.g.gid va false false with
    | .nonresident => decide (va < 2 ^ 56)
    | .ok _ _ => false
    | .peer _ _ _ => false
    | .denied _ => false
  if absent then .ok (.absent va)
  else do return .bytes (bytesAt s.mem (← issuePa s c va n false) n)

/-- R315, R528: bytes that `eng.launch` reads at issue, page by page. -/
def launchRead (s : State) (c : Ctx) (va n : Nat) : Ex LaunchRead :=
  (pageParts va n).foldlM (fun r (a, k) =>
    match r with
    | .absent va => .ok (.absent va)
    | .bytes bs => do
      match ← launchPage s c a k with
      | .absent va => return .absent va
      | .bytes more => return .bytes (bs ++ more)) (.bytes [])

/-- R315, R378: the addresses of the pages that `eng.launch` reads, for the core's TLB. -/
def launchSeen (s : State) (c : Ctx) (va : Nat) : List Nat :=
  match launchRead s c va 128 with
  | .ok (.bytes bs) =>
    va :: (if recordArgc bs = 0 then [] else (pageParts (recordArgs bs) (16 * recordArgc bs)).map Prod.fst)
  | .ok (.absent _) => [va]
  | .error _ => []

/-- R315: the outcome of a launch: a record accepted, or a refusal code, with the page a residency request names. -/
inductive LaunchOut where
  | accepted (r : LaunchRec)
  | refused (code : Nat) (post : Option Nat)
  deriving DecidableEq, Repr

/-- R315: the handles a grid's `eng.launch` returned. -/
def grantedHandles (s : State) (gid : Nat) : List Dword :=
  match gridOf s gid with
  | some g => g.children
  | none => []

/-- R315, R399: no room for another launch. -/
def launchFull (s : State) (c : Ctx) : Bool :=
  bits (pregs s c.part).dlquota 0 13 ≤ quotaUsed s c.part || 1024 ≤ pendingCount s c.part ||
    (match gridOf s c.g.gid with
      | some g => 4096 ≤ liveHandles s g
      | none => false)

/-- R315: the record at an address checked, quota first. [log DEDUCED 71] -/
def launchOutcome (s : State) (c : Ctx) (va : Nat) : Ex LaunchOut := do
  match ← launchRead s c va 128 with
  | .absent va => return .refused 5 (some va)
  | .bytes bs =>
    if launchFull s c then return .refused 1 none
    else if recordBad s c.part bs then return .refused 2 none
    else
      let n := recordArgc bs
      let block ← if n = 0 then pure (LaunchRead.bytes []) else launchRead s c (recordArgs bs) (16 * n)
      match block with
      | .absent va => return .refused 5 (some va)
      | .bytes ab =>
        match argsOf ab n with
        | none => return .refused 2 none
        | some args =>
          let r := { recordOf bs with args := args }
          if !featuresOk r.fmask then return .refused 3 none
          else if !r.deps.all (fun h => (grantedHandles s c.g.gid).contains h) then return .refused 4 none
          else return .accepted r

/-- R315: a launch accepted: its handle, and the state in which sD holds it. [log DEDUCED 71] -/
def launchNow (s : State) (c : Ctx) (d : BitVec 7) (r : LaunchRec) (held : Bool) : Dword × State :=
  let h := BitVec.ofNat 64 ((psched s c.part).nextHandle + 1)
  let s := modSched s c.part fun x => { x with nextHandle := x.nextHandle + 1 }
  let s := modGrid s c.g.gid fun g => { g with children := g.children ++ [h] }
  (h, writeS (acceptLaunch s c.part h r true held) c d h)

/-- R315: the effect of an outcome. -/
def launchEffect (i : Instr) (d : BitVec 7) (guard : Option Nat) (s : State) (c : Ctx) (out : LaunchOut) : Ex State :=
  match out with
  | .refused code post =>
    committed s c fun s c =>
      let s := match post with
        | some va => postRes s c.part 3 c.g.gid va
        | none => s
      .ok (retire (writeS s c d (BitVec.ofNat 64 (2 ^ 63 + code))) c)
  | .accepted r => awaitRemote s c 4 <|
    match guard with
    | none => committed s c fun s c => .ok (retire (launchNow s c d r false).2 c)
    | some n => issueCmd s c i fun s c =>
        let (h, s) := launchNow s c d r true
        .ok (enqueue s c (some n) (.launch h))

/-- ENG_LAUNCH (R315, R333): the launch is accepted or refused at issue, once the group's remote accesses that it
releases have been performed; with a guard a command releases it. [log DEDUCED 29, 36, 72] -/
def execEngLaunch (pfx : Pfx) (d a : BitVec 7) (s : State) : Host.Outcome State Fault Refusal :=
  runCore (.engLaunch pfx d a) s fun c p _ _ => do
    allLanes c
    let va := (srcS s c a).toNat
    if 2 ^ 56 ≤ va then trapAt causeProtection c.mask va [] []
    else if va % 128 ≠ 0 then trapAt causeMisalignment c.mask va [] []
    else committed s c fun s c => do
      let out ← launchOutcome s c va
      launchEffect (.engLaunch pfx d a) d (guardOf p)
        (keepTlb s (coreTlb c.g.core) c.part c.g.gid (launchSeen s c va)) c out

/-- ENG_WAITL (R316). -/
def execEngWaitl (d a : BitVec 7) (s : State) : Host.Outcome State Fault Refusal :=
  runCore (.engWaitl d a) s fun c _ _ _ => do
    let h := srcS s c a
    need ((grantedHandles s c.g.gid).contains h) causeIllegalOperand c.mask
    allLanes c
    committed s c fun s c =>
      match gridByHandle s c.part h with
      | some g =>
        if g.phase = .ended then .ok (retire (writeS s c d (completionWord g)) c)
        else .ok (waitSplit s c .onEvent (some (.engWaitl d a)) false)
      | none => .ok (waitSplit s c .onEvent (some (.engWaitl d a)) false)

/-! ## The ends of waits -/

/-- The instruction a split in state 4 waits in. -/
def waitsOn (s : State) (core gslot place : Nat) : Option (Group × Instr) :=
  match groupAt s core gslot with
  | none => none
  | some g =>
    let p := splitIn g place
    if p.arch.state = .onEvent then p.waitsIn.map fun i => (g, i) else none

/-- R291: the instruction enters the engine queue. -/
def isQueued (i : Instr) : Bool :=
  match coreView i with
  | some (_, f, _) =>
    0x78 ≤ f.major.toNat && f.major.toNat ≤ 0x7D && f.major != 0x7C#7 && !(f.major == 0x7A#7 && f.b == 1#7) &&
      !(f.major == 0x7D#7 && (f.b == 0#7 || f.b == 3#7))
  | none => false

/-- The tag mask a waiting `wtg` reads, and whether it waits for all of it. -/
def wtgWaits (i : Instr) : Option (BitVec 7 × Bool) :=
  match coreView i with
  | some (_, f, _) => if f.major = 0x7C#7 then some (f.a, f.b == 1#7) else none
  | none => none

end Sys2Proof.Machine
end

