-- ==== Sys2Proof/Machine/EngineRun.lean ====
section
/-! DEFINITION. Machine/EngineRun.lean: engine commands from start to completion, guards, failures, and the ends of
engine waits (R292, R293, R299 to R312, R317, R323). -/
namespace Sys2Proof.Machine

/-! ## Starting (R292, R310) -/

/-- R467: the major opcode of a command. -/
def CmdOp.major : CmdOp → Nat
  | .mmt _ _ _ _ _ _ _ => 0x78
  | .tcon _ _ _ _ _ _ _ => 0x79
  | .accZero _ => 0x7A
  | .accLoad _ _ _ _ _ => 0x7A
  | .accStore _ _ _ _ _ => 0x7A
  | .accFold _ _ _ _ => 0x7A
  | .accCtrb _ _ _ _ _ => 0x7A
  | .cpy _ _ _ _ _ _ => 0x7B
  | .plan _ => 0x7D
  | .launch _ => 0x7D
  | .lnt _ => 0x7D

/-- The commands of a team issued before one. -/
def earlier (s : State) (k : Cmd) : List Cmd :=
  s.cmds.filter fun x => x.gid == k.gid && x.team == k.team && decide (x.cid < k.cid)

/-- R310: the guard's tags are all 0. -/
def guardTagsClear (s : State) (k : Cmd) : Bool :=
  match k.guard with
  | none => true
  | some n => (guardSlotOf s k.gid k.team n).wmask &&& teamTags s k.gid k.team == 0

/-- R310: the guard names a flag; an faddr of 0 names none. [log DEDUCED 66] -/
def guardHasFlag (s : State) (k : Cmd) : Bool :=
  match k.guard with
  | none => false
  | some n =>
    let x := guardSlotOf s k.gid k.team n
    x.fcond != 0#2 && x.faddr != 0

/-- R398, R412, R421, R489: the team may start commands: it is neither being saved nor saved nor ended, nor its partition
paused, nor its core under test or throttled. -/
def startsCommands (s : State) (k : Cmd) : Bool :=
  match teamOf s k.gid k.team with
  | some t => (t.phase == .running || t.phase == .draining) && !(psched s k.part).paused && !underTest s k.core && !throttled s k.core
  | none => false

/-- R292: no earlier command of its queue is still queued. -/
def headOfQueue (s : State) (k : Cmd) : Bool :=
  (earlier s k).all fun x => x.guard != k.guard || x.phase != .queued

/-- R421: a slowed partition starts at most one command in four cycles. [log DEDUCED 127] -/
def startRate (s : State) (k : Cmd) : Bool :=
  !(psched s k.part).slowed || (psched s k.part).startedAt.all fun t => t + 4 ≤ s.clk.toNat

/-- R289, R328: the path of a command's accesses: M of the matrix engine, C of the copy engine; none for the others. -/
def CmdOp.path : CmdOp → Option Bool
  | .mmt _ _ _ _ _ _ _ => some false
  | .tcon _ _ _ _ _ _ _ => some false
  | .accZero _ => none
  | .accLoad _ _ _ _ _ => some false
  | .accStore _ _ _ _ _ => some false
  | .accFold _ _ _ _ => none
  | .accCtrb _ _ _ _ _ => none
  | .cpy _ _ _ _ _ _ => some true
  | .plan _ => none
  | .launch _ => none
  | .lnt _ => none

/-- R328: the commands of a team that have started before one and share its path. -/
def startedBefore (s : State) (k : Cmd) : List Cmd :=
  s.cmds.filter fun x => x.gid == k.gid && x.team == k.team && x.cid != k.cid && x.phase != .queued &&
    (k.phase == .queued || x.order < k.order) && x.op.path.isSome && x.op.path == k.op.path

/-- R328: no command that has started before on the same path has still to find out where its accesses go. [log DEDUCED
128] -/
def pathClear (s : State) (k : Cmd) : Bool :=
  (startedBefore s k).all fun x => x.phase != .started && (k.op.path == some true || x.phase == .worked)

/-- R292, R328: a queued command may start. -/
def canStart (s : State) (k : Cmd) : Bool :=
  k.phase == .queued && startsCommands s k && startRate s k && headOfQueue s k && pathClear s k &&
    (earlier s k).all (fun x => x.op.accs.all fun a => !k.op.accs.contains a) &&
    guardTagsClear s k && (!guardHasFlag s k || k.flagMet)

/-! ## Reading spans of memory -/

/-- The pieces of a span that cross no 256-byte boundary. -/
def spanOf : Nat → Nat → Nat → List (Nat × Nat)
  | 0, _, _ => []
  | fuel + 1, a, n =>
    if n = 0 then []
    else
      let m := min n (256 - a % 256)
      (a, m) :: spanOf fuel (a + m) (n - m)

/-- The bytes of a span; none where some cannot be read or have not come yet. -/
def readSpan (s : State) (k : Cmd) (a n : Nat) : CmdM (Option (List Byte)) := do
  let ps ← (spanOf (n / 256 + 2) a n).mapM fun (b, m) => do
    let v ← readMem s k (b % 2 ^ 64) m
    return v.map fun x => bytesOfNat m x
  return if ps.all Option.isSome then some (ps.flatMap fun p => p.getD []) else none

/-! ## Work (R299 to R305, R307, R312) -/

/-- A command whose work is done. -/
def Cmd.done (k : Cmd) : Cmd := { k with phase := .worked }

/-- The accumulator of a command, and its mate in a pair. -/
def cmdAcc (s : State) (k : Cmd) (n : Nat) (pair : Bool) : Option (Acc × Option Acc) :=
  (teamOf s k.gid k.team).bind fun t => (accOf t n).map fun a => (a, mateOf t n pair)

/-- R312: the fault bit of an accumulator or of either of a pair. -/
def accFaulted (x : Acc × Option Acc) : Bool := x.1.fault || (x.2.map Acc.fault).getD false

/-- An accumulator, and its mate in a pair, changed. [log DEDUCED 63] -/
def modAccs (s : State) (k : Cmd) (n : Nat) (pair : Bool) (f : Acc → Acc) : State :=
  let s := modAcc s k.gid k.team n f
  if pair then modAcc s k.gid k.team (n + 1) f else s

/-- R304: the elements of an image, one number for each. -/
def imageElems (s : State) (k : Cmd) (addr : Nat) (pair : Bool) : CmdM (List Nat) :=
  let n := if pair then 2 else 1
  (List.range 4096).mapM fun e => do
    let lo ← readMem s k (addr + 64 + 64 * n * e) 64
    let hi ← if pair then readMem s k (addr + 128 + 128 * e) 64 else pure (some 0)
    return lo.getD 0 + 2 ^ 512 * hi.getD 0

/-- R304: the words of an image's element; half picks a word of a pair. -/
def imageWord (x : Nat) (pair : Bool) (half n : Nat) : Word :=
  BitVec.ofNat 32 (if pair then x / 2 ^ (64 * n + 32 * half) else x / 2 ^ (32 * n))

/-- R304: an image's words and dynamic state loaded. -/
def loadImage (s : State) (k : Cmd) (n : Nat) (ctl aux : Dword) (pair : Bool) (xs : List Nat) : State :=
  let v : Vector Nat 4096 := Vector.ofFn fun e : Fin 4096 => xs.getD e.val 0
  let put (half : Nat) (a : Acc) : Acc := { headStates ctl aux a with
    words := Vector.ofFn fun w : Fin 16 => v.map fun x => imageWord x pair half w.val }
  let s := modAcc s k.gid k.team n (put 0)
  if pair then modAcc s k.gid k.team (n + 1) (put 1) else s

/-- Bytes a command writes from an address up, as moves of 64 bytes. -/
def blockMoves (s : State) (k : Cmd) (addr : Nat) (bs : List Byte) : CmdM (List Move) := do
  let ms ← (List.range (bs.length / 64)).mapM fun i => do
    let loc ← locMem s k (addr + 64 * i) true
    return (⟨i, loc, none, 64, some (natOfBytes ((bs.drop (64 * i)).take 64)), !loc.good⟩ : Move)
  return ms.filter fun m => !m.skip

/-- The work of a command: the state it leaves, and the command. A held launch enters the pending set once that has room
(R396). -/
def workOf (s : State) (k : Cmd) : CmdM (State × Cmd) :=
  match k.op with
  | .mmt acc a b sel k0 run c => do
    match ← mmtNode s k a b sel k0 run with
    | none => return (s, k.done)
    | some (s, x, F) => return (deliver s k acc run c x F, k.done)
  | .tcon acc a b sel _ run c => do
    match ← tconNode s k a b sel run with
    | none => return (s, k.done)
    | some (s, x, F) => return (deliver s k acc run c x F, k.done)
  | .accZero acc =>
    return (modAcc s k.gid k.team acc fun a => { Acc.cleared acc with ctl := a.ctl, fmt := a.fmt }, k.done)
  | .accLoad acc addr ctl aux pair => do
    let xs ← imageElems s k addr.toNat pair
    return (loadImage s k acc ctl aux pair xs, k.done)
  | .accStore acc addr ctl fmt pair =>
    match cmdAcc s k acc pair with
    | none => return (s, k.done)
    | some x => do
      if accFaulted x then
        ioFail 7 [] none
        return (s, k.done)
      else
        let bs := if addr.getLsbD 0 then imageBytes x.1 x.2 ctl fmt else denseBytes x.1 x.2
        let ms ← blockMoves s k (addr.toNat / 256 * 256) bs
        return (s, { k with phase := .streaming, moves := ms })
  | .accFold acc ctl fmt pair =>
    match cmdAcc s k acc pair with
    | none => return (s, k.done)
    | some x => do
      if accFaulted x then
        ioFail 7 [] none
        return (s, k.done)
      else if accFolded ctl then return (s, k.done)
      else
        let y := Vector.ofFn fun e : Fin 4096 => foldElem x.1 x.2 fmt (accC ctl) e.val
        return (putNode s k acc pair 0 (y.map fun v => some (v.1.getD 0)) (allFlags y), k.done)
  | .accCtrb acc d ctl fmt pair =>
    match cmdAcc s k acc pair with
    | none => return (s, k.done)
    | some x => do
      let t := modAccs s k acc pair ctrbStates
      if accFaulted x then
        ioFail 7 [] none
        return (t, k.done)
      else
        let fs := runFrags x.1 x.2 d ctl fmt (x.1.nv || ctl.getLsbD 52) (x.1.of || ctl.getLsbD 53)
        return (fs.foldl (fun s f => sendFrag s k.core (some (64 + k.cid, 0)) f) t, k.done)
  | .cpy kind _ q0 q1 q2 q3 => do
    let plan ← copyPlan s k kind.toNat q0 q1 q2 q3
    return (s, { k with phase := .streaming, takes := plan.takes, moves := plan.moves })
  | .plan a => do
    match ← readSpan s k a.toNat 64 with
    | none => return (s, k.done)
    | some r => return (s, { k with phase := .planning, record := r })
  | .launch h => do
    if 1024 ≤ pendingCount s k.part then ioBusy
    return ({ s with grids := modify (fun g => g.part == k.part && g.handle == h) (fun g => { g with held := false }) s.grids },
      k.done)
  | .lnt v => return (tap s 2047 (bits v 0 10) k.part (bits v 16 48), k.done)

/-- R312: a failure leaves nothing of the command's effect. -/
def CmdOp.allOrNothing : CmdOp → Bool
  | .mmt _ _ _ _ _ _ _ => true
  | .tcon _ _ _ _ _ _ _ => true
  | .accLoad _ _ _ _ _ => true
  | .accZero _ => false
  | .accStore _ _ _ _ _ => false
  | .accFold _ _ _ _ => false
  | .accCtrb _ _ _ _ _ => false
  | .cpy _ _ _ _ _ _ => false
  | .plan _ => false
  | .launch _ => false
  | .lnt _ => false

/-- R307: `cpy.l2pf` fails with cause 3 only, and asks for no page. [log DEDUCED 75] -/
def quietPrefetch (op : CmdOp) (io : CmdIo) : CmdIo :=
  match op with
  | .cpy kind _ _ _ _ _ => if kind = 5#3 && io.cause ≠ 3 then { io with cause := 0, errs := [], posts := [] } else io
  | .mmt _ _ _ _ _ _ _ => io
  | .tcon _ _ _ _ _ _ _ => io
  | .accLoad _ _ _ _ _ => io
  | .accZero _ => io
  | .accStore _ _ _ _ _ => io
  | .accFold _ _ _ _ => io
  | .accCtrb _ _ _ _ _ => io
  | .plan _ => io
  | .launch _ => io
  | .lnt _ => io

/-- How many moves and takes a copy may make at once. -/
def Cmd.most (k : Cmd) : Nat := 2 * (k.takes.length + k.moves.length)

/-- R328: two places of an element's bytes meet; the bytes of a FIFO bank come and go in their own order (R323). -/
def ElemLoc.meets (x : ElemLoc) (n : Nat) (y : ElemLoc) (m : Nat) : Bool :=
  let near (a b : Nat) : Bool := decide (a < b + m) && decide (b < a + n)
  match x, y with
  | .mem a, .mem b => near a b
  | .peer d w a, .peer e v b => d == e && w == v && near a b
  | .stage t i a false, .stage u j b false => t == u && i == j && near a b
  | _, _ => false

/-- R328: a copy that has started before has still to write a byte that this one reads or writes: it goes first. [log
DEDUCED 128] -/
def copyWaits (s : State) (k : Cmd) (reads : List (ElemLoc × Nat)) (moves : List Move) : Bool :=
  (startedBefore s k).any fun x => x.moves.any fun m =>
    reads.any (fun r => m.dst.meets m.bytes r.1 r.2) || moves.any fun w => m.dst.meets m.bytes w.dst w.bytes

/-- R302 to R305: the states of an accumulator that change at issue, as they are in the accumulator's order when the
command starts. -/
def startStates (s : State) (k : Cmd) : State :=
  match k.op with
  | .accZero acc => modAcc s k.gid k.team acc zeroStates
  | .accLoad acc _ ctl aux pair => modAccs s k acc pair (headStates ctl aux)
  | .mmt _ _ _ _ _ _ _ => s
  | .tcon _ _ _ _ _ _ _ => s
  | .accStore _ _ _ _ _ => s
  | .accFold _ _ _ _ => s
  | .accCtrb _ _ _ _ _ => s
  | .cpy _ _ _ _ _ _ => s
  | .plan _ => s
  | .launch _ => s
  | .lnt _ => s

/-- A started command's work, as far as it goes now: it waits for a block under test or for an earlier copy, asks peers
for what it needs, or is carried out. -/
def runWork (s : State) (k : Cmd) : State :=
  let s := startStates s k
  let ((t, k'), io) := (workOf s k).run CmdIo.start
  let started := modCmd (keepTlb s (copyTlb k.core) k.part k.gid io.vas) k.cid fun k => { k with phase := .started }
  if io.busy || copyWaits s k io.reads k'.moves then started
  else if !io.need.isEmpty then cmdReads started k io.need
  else
    let io := quietPrefetch k.op io
    let t := if io.cause ≠ 0 && k.op.allOrNothing then s else t
    let t := keepTlb t (copyTlb k.core) k.part k.gid io.vas
    let t := errParts t k.part io.errs
    let t := io.posts.foldl (fun t va => postRes t k.part 1 k.gid va) t
    let k' := { k' with cause := if k.cause = 0 then io.cause else k.cause }
    let t := modCmd t k.cid fun _ => k'
    if k'.phase = .streaming then streamOn t k' k'.most else t

/-! ## Completion (R293, R306, R310, R312) -/

/-- R306: the tag becomes 0 when no command of the team that is left names it. -/
def dropTag (s : State) (k : Cmd) (n : Nat) : State :=
  if s.cmds.any fun x => x.gid == k.gid && x.team == k.team && (x.dtag == some n || x.op.tag == some n) then s
  else modTeam s k.gid k.team fun t => { t with tags := t.tags &&& ~~~BitVec.ofNat 64 (2 ^ n) }

/-- R312: what a failure records. -/
def recordFailure (s : State) (k : Cmd) : State :=
  if k.cause = 0 then s
  else
    let s := errPart s k.part ⟨4, 40 + k.cause, 0xFFFF, k.gid, 0⟩
    let s := modGrid s k.gid fun g => { g with cfail := true }
    let s := if k.op.allOrNothing then
        k.op.accs.foldl (fun s n => modAcc s k.gid k.team n fun a => { a with fault := true }) s
      else s
    match k.guard with
    | none => s
    | some n => modGuard s k.gid k.team n fun x =>
        { x with
          fcause := if x.fcount = 0 then BitVec.ofNat 8 k.cause else x.fcause
          fcount := x.fcount + 1 }

/-- A command completes. -/
def finishCmd (s : State) (k : Cmd) : State :=
  let s := recordFailure s k
  let s := match k.guard with
    | none => s
    | some n => modGuard s k.gid k.team n fun x => { x with done := x.done + 1 }
  let s := { s with cmds := s.cmds.filter fun x => x.cid != k.cid }
  let s := (k.dtag.toList ++ k.op.tag.toList).foldl (fun s n => dropTag s k n) s
  tap s (8 * k.core + 4) 0 k.part (k.op.major + 256 * (s.clk.toNat - k.issuedAt))

/-- R293, R366, R461: nodes of a command, which go under the number 64 + its own and, of a plan, that of their operation,
that have neither entered a buffer nor been dropped. [log DEDUCED 74] -/
def nodesFlying (s : State) (k : Cmd) (op : Nat) : Bool :=
  let mine (o : Option (Nat × Mask)) : Bool := o == some (64 + k.cid, BitVec.ofNat 32 op)
  s.flights.any (fun x => mine x.owner) || s.refused.any fun x => mine x.owner

/-- An event of the engines: the state after it, free values drawn. [log DESIGN CHOICE 8] -/
def engineNext (s : State) : Host.Outcome State Fault Refusal := .next { s with freeCtr := s.freeCtr + 1024 }

/-- COMMAND_START. [log DEDUCED 103] -/
def execCommandStart (cid : Nat) (s : State) : Host.Outcome State Fault Refusal :=
  engineNext (match cmdOf s cid with
    | none => s
    | some k =>
      if canStart s k then
        let k := { k with order := s.freeCtr }
        let s := modSched (modCmd s cid fun _ => k) k.part fun p => { p with startedAt := some s.clk.toNat }
        runWork s k
      else s)

/-- COMMAND_COMPLETE: a started command goes on once its remote accesses are answered, and completes when its work is
done. -/
def execCommandComplete (cid : Nat) (s : State) : Host.Outcome State Fault Refusal :=
  engineNext (match cmdOf s cid with
    | none => s
    | some k =>
      match k.phase with
      | .queued => s
      | .planning => s
      | .started => if k.remote = 0 then runWork s k else s
      | .streaming => streamOn s k k.most
      | .worked => if k.remote = 0 && !nodesFlying s k 0 then finishCmd s k else s)

/-- R310: the flag meets the slot's condition. -/
def flagHolds (x : GuardSlot) (v : Dword) : Bool :=
  if x.fcond = 1#2 then v == x.fval else if x.fcond = 2#2 then v != x.fval else decide (x.fval.toNat ≤ v.toNat)

/-- R310: a guarded command fails with its guard, and completes. -/
def failGuarded (s : State) (k : Cmd) (cause : Nat) (errs : List ErrRec) (post : Option Nat) : State :=
  let s := errParts s k.part errs
  let s := match post with
    | some va => postRes s k.part 1 k.gid va
    | none => s
  finishCmd s { k with cause := cause }

/-- GUARD_FLAG_READ (R310). -/
def execGuardFlagRead (cid : Nat) (s : State) : Host.Outcome State Fault Refusal :=
  engineNext (match cmdOf s cid with
    | none => s
    | some k =>
      match k.guard with
      | none => s
      | some n =>
        if k.phase = .queued && startsCommands s k && headOfQueue s k && guardTagsClear s k && guardHasFlag s k &&
            !k.flagMet then
          let x := guardSlotOf s k.gid k.team n
          let va := x.faddr.toNat
          if 2 ^ 56 ≤ va then failGuarded s k 1 [] none
          else
            match access s (copyTlb k.core) k.part k.gid va false false with
            | .ok pa _ =>
              let s := keepTlb s (copyTlb k.core) k.part k.gid [va]
              if sliceBusy s pa then s
              else if poisoned s pa 8 then failGuarded s k 1 (poisonErrs s k.gid pa 8) none
              else modCmd s cid fun k => { k with flagMet := flagHolds x (read64 s pa) }
            | .peer _ _ _ => failGuarded s k 1 [] none
            | .nonresident => failGuarded s k 2 [] (some va)
            | .denied errs => failGuarded s k 1 errs none
        else s)

/-! ## Ends of engine waits (R291, R309, R311, R316, R323) -/

/-- A context that reads the s registers of a split. -/
def readCtx (s : State) (g : Group) (place : Nat) : Ctx :=
  ⟨⟨⟨g.core, g.gslot, place⟩, 0, 0⟩, g, splitIn g place, partOf s g⟩

/-- A split that waits in an instruction issues it again where a condition holds. -/
def retryWhen (s : State) (core gslot entry : Nat) (p : Ctx → Instr → Bool) : Host.Outcome State Fault Refusal :=
  .next (match waitsOn s core gslot entry with
    | none => s
    | some (g, i) => if p (readCtx s g entry) i then wakeSplit s core gslot entry else s)

/-- A descriptor read of the split is on its way (R528). -/
def descAsked (s : State) (c : Ctx) : Bool := s.reqs.any fun r => r.kind == .desc c.g.core c.g.gslot c.mask

/-- ENGINE_QUEUE_RETRY. -/
def execEngineQueueRetry (core gslot entry : Nat) (s : State) : Host.Outcome State Fault Refusal :=
  retryWhen s core gslot entry fun c i => isQueued i && !descAsked s c && queued s c.g.gid c.g.team < Config.queueEntries

/-- WTG_WAKE. -/
def execWtgWake (core gslot entry : Nat) (s : State) : Host.Outcome State Fault Refusal :=
  retryWhen s core gslot entry fun c i =>
    match wtgWaits i with
    | some (a, whole) =>
      if whole then tagsAll s c.g.gid c.g.team (srcS s c a) else tagsAny s c.g.gid c.g.team (srcS s c a)
    | none => false

/-- The s register that an `eng` instruction with a sub-operation reads. -/
def engWaits (sub : BitVec 7) (i : Instr) : Option (BitVec 7) :=
  match coreView i with
  | some (_, f, _) => if f.major = 0x7D#7 && f.b = sub then some f.a else none
  | none => none

/-- WAITL_RETURN. -/
def execWaitlReturn (core gslot entry : Nat) (s : State) : Host.Outcome State Fault Refusal :=
  retryWhen s core gslot entry fun c i =>
    match engWaits 3 i with
    | some a =>
      match gridByHandle s c.part (srcS s c a) with
      | some g => g.phase == .ended
      | none => false
    | none => false

/-- GSET_EXCHANGE: the slot's commands have completed. -/
def execGsetExchange (core gslot entry : Nat) (s : State) : Host.Outcome State Fault Refusal :=
  retryWhen s core gslot entry fun c i =>
    match engWaits 0 i with
    | some a =>
      let x := guardSlotOf s c.g.gid c.g.team (bits (srcS s c a) 0 3)
      x.issued == x.done
    | none => false

end Sys2Proof.Machine
end

