-- ==== Sys2Proof/Machine/Barriers.lean ====
section
/-! DEFINITION. Machine/Barriers.lean: barriers: scope instances, arrival unit by unit, completion and release (R279 to
R282). -/
namespace Sys2Proof.Machine

/-! ## Specifications (R279) -/

/-- Barrier number. -/
def specId (x : Dword) : Nat := bits x 0 8
/-- Units expected; 0 for every live unit. -/
def specCount (x : Dword) : Nat := bits x 8 20
/-- Arrive only. -/
def specAo (x : Dword) : Bool := x.getLsbD 28
/-- Hierarchical. -/
def specHier (x : Dword) : Bool := x.getLsbD 40
/-- Parent barrier number. -/
def specPid (x : Dword) : Nat := bits x 32 8
/-- Parent scope. -/
def specPscope (x : Dword) : Nat := bits x 41 3

/-- R279: a specification of a barrier of a scope is legal. -/
def specOk (scope : Nat) (x : Dword) : Bool :=
  bits x 29 3 == 0 && bits x 44 20 == 0 &&
    (!specHier x || (scope ≤ specPscope x && specPscope x ≤ 3 && !(specPscope x == scope && specPid x == specId x)))

/-- R279, R280: what of a specification is compared: pid and pscope count only with hier, and each arrival has its
own ao. [log DEDUCED 55] -/
def specKey (x : Dword) : Dword :=
  setBits (if specHier x then x else setBits (setBits x 32 8 0) 41 3 0) 28 1 0

/-- A generation to which only children have arrived has no specification yet. [log DEDUCED 55] -/
def noSpec : Dword := BitVec.allOnes 64

/-! ## Instances and units -/

/-- The cluster of a team. -/
def clusterOf (s : State) (gid team : Nat) : Nat :=
  let (w, h) := clusterSize s gid
  team / (w * h)

/-- R279: the instance of a scope that a group belongs to. -/
def barInst (s : State) (scope gid team grp : Nat) : BarInst :=
  match scope with
  | 0 => ⟨0, gid, team, grp⟩
  | 1 => ⟨1, gid, team, 0⟩
  | 2 => ⟨2, gid, clusterOf s gid team, 0⟩
  | _ => ⟨3, gid, 0, 0⟩

/-- R281: the enclosing instance at a wider scope. -/
def barParent (s : State) (i : BarInst) (pscope : Nat) : BarInst :=
  match pscope with
  | 0 => i
  | 1 => ⟨1, i.gid, i.unit, 0⟩
  | 2 => if i.scope = 2#3 then i else ⟨2, i.gid, clusterOf s i.gid i.unit, 0⟩
  | _ => ⟨3, i.gid, 0, 0⟩

/-- The groups of a team that are on a core. -/
def groupsOf (s : State) (gid team : Nat) : List Group := s.groups.filter fun g => g.gid == gid && g.team == team

/-- The instance's live teams. -/
def teamsOf (s : State) (i : BarInst) : List Nat :=
  ((s.teams.filter fun t => t.gid == i.gid && (i.scope == 3#3 || clusterOf s i.gid t.team == i.unit)).map fun t => t.team)

/-- R280: how many live units an instance has. -/
def liveUnits (s : State) (i : BarInst) : List Nat :=
  if i.scope = 0#3 then
    match (groupsOf s i.gid i.unit).find? fun g => g.grpid == i.grp with
    | some g => (liveRecs g).map fun p => lowestLane p.mask
    | none => []
  else if i.scope = 1#3 then (groupsOf s i.gid i.unit).map fun g => g.grpid
  else teamsOf s i

/-- R279: every live split of a group has arrived in this generation. -/
def groupArrived (b : Barrier) (g : Group) : Bool :=
  let here := (b.waiting.filter fun w => w.gid == g.gid && w.team == g.team && w.grpid == g.grpid).foldl
    (fun m w => m ||| w.lanes) 0
  liveLanes g &&& ~~~here == 0

/-- R279: the unit a waiter belongs to, where all of it has arrived. -/
def unitArrived (s : State) (b : Barrier) (w : BarWaiter) : Option Nat :=
  if b.inst.scope = 0#3 then some (lowestLane w.lanes)
  else
    let gs := groupsOf s w.gid w.team
    if b.inst.scope = 1#3 then
      match gs.find? fun g => g.grpid == w.grpid with
      | some g => if groupArrived b g then some w.grpid else none
      | none => none
    else if !gs.isEmpty && gs.all (groupArrived b) then some w.team else none

/-- R280: the units that have arrived so far; a unit once counted stays counted. -/
def countArrived (s : State) (b : Barrier) : Barrier :=
  { b with arrived := (b.arrived ++ b.waiting.filterMap (unitArrived s b)).eraseDups }

/-- R281: the number that stands for the arrival of a child barrier. -/
def childArrival (b : Barrier) : Nat := 2 ^ 32 + b.arrived.length

/-- The team of an instance of group or team scope has been saved, so its units stand in memory. -/
def instSaved (s : State) (i : BarInst) : Bool :=
  i.scope.toNat ≤ 1 &&
  match teamOf s i.gid i.unit with
  | some t => t.phase == .saved
  | none => false

/-- R280: the generation is complete. -/
def barComplete (s : State) (b : Barrier) : Bool :=
  if b.spec = noSpec || instSaved s b.inst then false
  else if specCount b.spec ≠ 0 then specCount b.spec ≤ b.arrived.length
  else
    let live := liveUnits s b.inst
    live.length ≤ (b.arrived.filter fun u => 2 ^ 32 ≤ u || live.contains u).length

/-! ## Arrival, completion and release (R280, R281) -/

/-- The key of a barrier. -/
def Barrier.isAt (i : BarInst) (id : Nat) (b : Barrier) : Bool := b.inst == i && b.id == id

/-- The current generation of a barrier. -/
def barAt (s : State) (i : BarInst) (id : Nat) : Option Barrier := s.barriers.find? (Barrier.isAt i id)

/-- The current generation replaced. -/
def putBar (s : State) (b : Barrier) : State :=
  if s.barriers.any (Barrier.isAt b.inst b.id) then
    { s with barriers := modify (Barrier.isAt b.inst b.id) (fun _ => b) s.barriers }
  else { s with barriers := s.barriers ++ [b] }

/-- The waiting splits of a participant go on. -/
def releaseWaiter (s : State) (w : BarWaiter) : State :=
  let wake (p : SplitRec) : SplitRec :=
    if p.state == .atBarrier && p.mask &&& w.lanes != 0 then { p with state := .ready } else p
  let wakeSplit (p : Split) : Split :=
    if p.arch.state == .atBarrier && p.arch.mask &&& w.lanes != 0 then
      { p with arch := wake p.arch, waitsIn := none, since := s.time.toNat }
    else p
  let wakeParked (p : Parked) : Parked :=
    if p.arch.state == .atBarrier && p.arch.mask &&& w.lanes != 0 then
      { p with arch := wake p.arch, waitsIn := none, since := s.time.toNat }
    else p
  let mine (g : Group) : Bool := g.gid == w.gid && g.team == w.team && g.grpid == w.grpid
  let wakeGroup (g : Group) : Group :=
    { g with splits := g.splits.map wakeSplit, parked := g.parked.map wakeParked }
  { s with groups := modify mine wakeGroup s.groups }

/-- A waiting participant of a barrier stands past its `bar`. -/
def passBar (s : State) (w : BarWaiter) (pc : Dword) : State :=
  let hit (p : SplitRec) : Bool := p.state == .atBarrier && p.mask &&& w.lanes != 0
  let mine (g : Group) : Bool := g.gid == w.gid && g.team == w.team && g.grpid == w.grpid
  let go (g : Group) : Group :=
    { g with
      splits := g.splits.map fun p => if hit p.arch then { p with arch := { p.arch with pc := pc } } else p
      parked := g.parked.map fun p => if hit p.arch then { p with arch := { p.arch with pc := pc } } else p }
  { s with groups := modify mine go s.groups }

/-- R280: a barrier's generation with one more arrival. -/
def counted (s : State) (i : BarInst) (spec : Dword) (w : BarWaiter) : Barrier :=
  let b := (barAt s i (specId spec)).getD ⟨i, specId spec, noSpec, [], [], [], []⟩
  countArrived s { b with
    spec := if b.spec = noSpec then specKey spec else b.spec, waiting := b.waiting ++ [w] }

/-- R280: the specification of an arrival is not that of its generation. -/
def specClash (s : State) (i : BarInst) (spec : Dword) : Bool :=
  match barAt s i (specId spec) with
  | some b => b.spec != noSpec && b.spec != specKey spec
  | none => false

/-- R280, R281: a complete generation ends: its participants go on, or wait on for its parent, to which it counts as
one arrival. The units that arrived again are counted in the next generation, in their order; one whose specification
is another's issues its `bar` again, and takes the trap. [log DEDUCED 56] -/
def completeBar : Nat → State → Barrier → State
  | 0, s, _ => s
  | n + 1, s, b =>
    let s := { s with barriers := s.barriers.filter fun x => !Barrier.isAt b.inst b.id x }
    let again (s : State) (x : Dword × BarWaiter × Dword) : State :=
      let (pc, w, spec) := x
      if specClash s b.inst spec then releaseWaiter s w
      else
        let s := passBar s w pc
        let s := if w.ao then releaseWaiter s w else s
        let b := counted s b.inst spec w
        if barComplete s b then completeBar n s b else putBar s b
    let s := b.next.foldl again s
    let waiters := (b.waiting.filter fun w => !w.ao) ++ b.held
    if specHier b.spec then
      let pi := barParent s b.inst (specPscope b.spec)
      let p := (barAt s pi (specPid b.spec)).getD ⟨pi, specPid b.spec, noSpec, [], [], [], []⟩
      let p := { p with arrived := p.arrived ++ [childArrival p], held := p.held ++ waiters }
      if barComplete s p then completeBar n s p else putBar s p
    else waiters.foldl releaseWaiter s

/-- How deep parents can nest: each step widens the scope or names another of 256 barriers. -/
def barDepth : Nat := 1100

/-- R280: the barriers of a grid looked at again after a split, a group or a team has ended. -/
def recheckBars (s : State) (gid : Nat) : State :=
  (s.barriers.filter fun b => b.inst.gid == gid).foldl (fun s b =>
    match barAt s b.inst b.id with
    | none => s
    | some b =>
      let b := countArrived s b
      if barComplete s b then completeBar barDepth s b else putBar s b) s

/-- R280: a participant's arrival; it is counted, and the generation may complete. -/
def arriveBar (s : State) (i : BarInst) (spec : Dword) (w : BarWaiter) : State :=
  let b := counted s i spec w
  if barComplete s b then completeBar barDepth s b else putBar s b

/-- R280: the split has arrived in the current generation already. [log DEDUCED 56] -/
def arrivedAlready (b : Barrier) (w : BarWaiter) : Bool :=
  b.waiting.any fun x => x.gid == w.gid && x.team == w.team && x.grpid == w.grpid && x.lanes &&& w.lanes != 0

end Sys2Proof.Machine
end

