-- ==== Sys2Proof/Machine/Sync.lean ====
section
/-! DEFINITION. Machine/Sync.lean: idempotent regions, fences and `bar` (R267 to R269, R277 to R282). -/
namespace Sys2Proof.Machine

/-! ## Regions (R267) -/

/-- RGN_BEGIN: one live split; an open region commits first. -/
def execRgnBegin (pfx : Pfx) (s : State) : Host.Outcome State Fault Refusal :=
  runCore (.rgnBegin pfx) s fun c _ _ _ => do
    need (liveSplits c.g == 1) causeIllegalConvergence c.mask
    committed s c fun s c =>
      .ok (retire (modGroup s c.g.core c.g.gslot fun g => { g with region := some ⟨c.cur.pcf, [], false⟩ }) c)

/-- RGN_COMMIT. -/
def execRgnCommit (pfx : Pfx) (s : State) : Host.Outcome State Fault Refusal :=
  runCore (.rgnCommit pfx) s fun c _ _ _ => committed s c fun s c => .ok (retire s c)

/-! ## Fences (R277, R278) -/

/-- R278: every completion tick of the group has come back, and device time has passed hz. [log DEDUCED 19] -/
def hzPassed (s : State) (g : Group) : Bool :=
  !(s.ticks.any fun t => t.core == g.core && t.gslot == g.gslot) && decide (g.hz.toNat < s.time.toNat)

/-- R277, R278, R333, R336: the wait of a fence at a scope is over; before tells that path X comes before the fence. At
scopes c and d the group's accesses on path X have then been performed. [log DEDUCED 19] -/
def fenceDone (s : State) (g : Group) (scope : BitVec 3) (before : Bool) : Bool :=
  if scope = 4#3 then hzPassed s g && remoteQuiet s g.gid g.team
  else (scope != 3#3 || hzPassed s g) && (scope.toNat < 2 || !before || !remoteOut s g)

/-- R278: a fence at scope f returns the team's remote-failure count and zeroes it. -/
def takeFailures (s : State) (c : Ctx) (a : BitVec 7) : State :=
  match teamOf s c.g.gid c.g.team with
  | none => s
  | some t =>
    writeS (modTeam s c.g.gid c.g.team fun t => { t with remoteFailures := 0 }) c a t.remoteFailures

/-- A fence at a scope, with path X before it or not: it retires once its wait is over. The model performs the local
accesses of a group in program order, so the orders of R277 among them hold without a wait. [log DEDUCED 43] -/
def fenceAt (s : State) (c : Ctx) (i : Instr) (scope : BitVec 3) (before : Bool) (a : BitVec 7) : Ex State :=
  committed s c fun s c =>
    match groupAt s c.g.core c.g.gslot with
    | none => .ok s
    | some g =>
      if fenceDone s g scope before then .ok (retire (if scope = 4#3 then takeFailures s c a else s) c)
      else
        let s := if scope = 4#3 && before then hastenTeam s g.gid g.team else s
        .ok (waitSplit s c .onEvent (some i) false)

/-- FENCE. [log DEDUCED 43] -/
def execFence (pfx : Pfx) (scope : BitVec 3) (a : BitVec 7) (s : State) : Host.Outcome State Fault Refusal :=
  runCore (.fence pfx scope a) s fun c _ _ _ => fenceAt s c (.fence pfx scope a) scope true a

/-- FENCEX: an X first path drains the team's lines (R339). -/
def execFencex (pfx : Pfx) (path2 path1 scope : BitVec 3) (a : BitVec 7) (s : State) :
    Host.Outcome State Fault Refusal :=
  runCore (.fencex pfx path2 path1 scope a) s fun c _ _ _ =>
    fenceAt s c (.fencex pfx path2 path1 scope a) scope (path1 == 4#3) a

/-- FENCE_S (R278, R325): the core's operand cache is emptied of the partition's tiles. -/
def execFenceS (pfx : Pfx) (s : State) : Host.Outcome State Fault Refusal :=
  runCore (.fenceS pfx) s fun c _ _ _ => committed s c fun s c =>
    .ok (retire { s with opCache := s.opCache.filter fun t => !(t.core == c.g.core && t.part == c.part) } c)

/-! ## bar (R279 to R282) -/

/-- R280: `bar.d` with count 0 in a grid that is not co-resident. -/
def barLoose (s : State) (gid : Nat) (scope : BitVec 3) (spec : Dword) : Bool :=
  scope == 3#3 && specCount spec == 0 &&
    (match gridOf s gid with
      | some g => !g.record.cores
      | none => true)

/-- BAR: the split's lanes report, and it arrives; it waits unless it arrives only. A split that has arrived in the
current generation already waits for that to complete, and is then counted in the next. [log DEDUCED 56] -/
def execBar (pfx : Pfx) (spec : Bool) (scope : BitVec 3) (a : BitVec 7) (s : State) :
    Host.Outcome State Fault Refusal :=
  runCore (.bar pfx spec scope a) s fun c _ _ _ => do
    let x := if spec then srcS s c a else 0
    let i := barInst s scope.toNat c.g.gid c.g.team c.g.grpid
    let w : BarWaiter := ⟨c.g.gid, c.g.team, c.g.grpid, c.mask, specAo x⟩
    let again := match barAt s i (specId x) with
      | some b => arrivedAlready b w
      | none => false
    need (specOk scope.toNat x && !barLoose s c.g.gid scope x && (again || !specClash s i x)) causeIllegalOperand c.mask
    committed s c fun s c => withReport s c c.mask fun s =>
      if again then
        let s := waitSplit s c .atBarrier (some (.bar pfx spec scope a)) false
        match barAt s i (specId x) with
        | some b => .ok (putBar s { b with next := b.next ++ [(c.cur.next, w, x)] })
        | none => .ok s
      else
        let s := if specAo x then retire s c else waitSplit s c .atBarrier (some (.bar pfx spec scope a)) true
        .ok (arriveBar s i x w)

end Sys2Proof.Machine
end

