-- ==== Sys2Proof/Machine/LaneInt.lean ====
section
/-! DEFINITION. Machine/LaneInt.lean: the lane integer, logic, shift, bit-field, selection and immediate instructions
(R172 to R180). -/
namespace Sys2Proof.Machine

/-! ## Arithmetic (R172, R173) -/

/-- An integer operation of tag t on decoded elements, its result reduced modulo 2^w. -/
def intElems (f : Int → Int → Int → Int) (t : Tag) (x y z : Dword) : Dword :=
  mapElems t (fun a b c => patOf (ewidth t)
    (f (intOf (isSigned t) (ewidth t) a) (intOf (isSigned t) (ewidth t) b) (intOf (isSigned t) (ewidth t) c))) x y z

/-- The row of R172 for INT operands: sources of one tag, the result in a's. -/
def intSem (f : Tag → Int → Int → Int → Int) : LaneSem where
  src := isInt
  ok ta tb tc := sameTag ta tb && sameTag ta tc
  res ta _ := ta
  wideB := true
  fn ta _ x y z := (intElems (f ta) ta x y z, 0)

/-- ADD: Mod(x + y). -/
def execAdd (w : LaneW) (s : State) : Host.Outcome State Fault Refusal :=
  runLane (.add w) (intSem fun _ x y _ => x + y) s
/-- SUB: Mod(x − y). -/
def execSub (w : LaneW) (s : State) : Host.Outcome State Fault Refusal :=
  runLane (.sub w) (intSem fun _ x y _ => x - y) s
/-- MUL: Mod(x × y). -/
def execMul (w : LaneW) (s : State) : Host.Outcome State Fault Refusal :=
  runLane (.mul w) (intSem fun _ x y _ => x * y) s
/-- MULH: the high half of the exact product. -/
def execMulh (w : LaneW) (s : State) : Host.Outcome State Fault Refusal :=
  runLane (.mulh w) (intSem fun t x y _ => x * y / 2 ^ ewidth t) s
/-- MAD: Mod(x × y + z). -/
def execMad (w : LaneW) (s : State) : Host.Outcome State Fault Refusal :=
  runLane (.mad w) (intSem fun _ x y z => x * y + z) s
/-- MIN: the lesser, in the tag's signedness. -/
def execMin (w : LaneW) (s : State) : Host.Outcome State Fault Refusal :=
  runLane (.min w) (intSem fun _ x y _ => Min.min x y) s
/-- MAX: the greater, in the tag's signedness. -/
def execMax (w : LaneW) (s : State) : Host.Outcome State Fault Refusal :=
  runLane (.max w) (intSem fun _ x y _ => Max.max x y) s
/-- ADDSAT: Clamp(x + y). -/
def execAddsat (w : LaneW) (s : State) : Host.Outcome State Fault Refusal :=
  runLane (.addsat w) (intSem fun t x y _ => clampInt (isSigned t) (ewidth t) (x + y)) s
/-- SUBSAT: Clamp(x − y). -/
def execSubsat (w : LaneW) (s : State) : Host.Outcome State Fault Refusal :=
  runLane (.subsat w) (intSem fun t x y _ => clampInt (isSigned t) (ewidth t) (x - y)) s

/-- R173: the sum of absolute differences of the elements of two words. -/
def sadWord (t : Tag) (x y z : Dword) : Dword :=
  let d := (List.range (count t)).map fun e =>
    (intOf (isSigned t) (ewidth t) (elem t x e) - intOf (isSigned t) (ewidth t) (elem t y e)).natAbs
  BitVec.ofNat 64 ((z.toNat % 2 ^ 32 + d.sum) % 2 ^ 32)

/-- SAD (R173). -/
def execSad (w : LaneW) (s : State) : Host.Outcome State Fault Refusal :=
  runLane (.sad w)
    { src := isInt
      ok := fun ta tb tc => sameTag ta tb && tagIn isInt32 tc
      res := fun _ _ => 0
      wideB := true
      fn := fun ta _ x y z => (sadWord ta x y z, 0) } s

/-- LSA: Mod(x × 2^N + y), N from the operand pfx. -/
def execLsa (w : LaneW) (s : State) : Host.Outcome State Fault Refusal :=
  runLane (.lsa w)
    { src := isInt32
      ok := fun ta tb _ => sameTag ta tb
      res := fun ta _ => ta
      wideB := true
      fn := fun ta _ x y z => (intElems (fun a b _ => a * 2 ^ w.pfx.operand.x.toNat + b) ta x y z, 0) } s

/-! ## Logic (R174) -/

/-- A bitwise row: any tag but FP64, with b of a's tag or U32. -/
def bitSem (f : Dword → Dword → Dword) : LaneSem where
  src ta := tagOk ta && !isF64 ta
  ok ta tb _ := sameTag ta tb || sameTag 0 tb
  res ta _ := ta
  wideB := true
  fn _ _ x y _ := (f x y, 0)

/-- AND. -/
def execAnd (w : LaneW) (s : State) : Host.Outcome State Fault Refusal :=
  runLane (.and w) (bitSem fun x y => x &&& y) s
/-- OR. -/
def execOr (w : LaneW) (s : State) : Host.Outcome State Fault Refusal :=
  runLane (.or w) (bitSem fun x y => x ||| y) s
/-- XOR. -/
def execXor (w : LaneW) (s : State) : Host.Outcome State Fault Refusal :=
  runLane (.xor w) (bitSem fun x y => x ^^^ y) s
/-- ANDN: a AND NOT b. -/
def execAndn (w : LaneW) (s : State) : Host.Outcome State Fault Refusal :=
  runLane (.andn w) (bitSem fun x y => x &&& ~~~ y) s

/-! ## Shifts (R175) -/

/-- The count of element e: b's element, or b's whole word when b carries U32. -/
def shiftCount (t : Tag) (tb : Option Tag) (y : Dword) (e : Nat) : Nat :=
  if tb = some 0 then y.toNat % 2 ^ 32 else elem t y e

/-- A shift row: INT, with b of a's tag or U32; f takes the width, the pattern and the count. -/
def shiftSem (f : Nat → Nat → Nat → Nat) : LaneSem where
  src := isInt
  ok ta tb _ := sameTag ta tb || sameTag 0 tb
  res ta _ := ta
  wideB := true
  fn ta tb x y _ :=
    (BitVec.ofNat 64 (joinElems (ewidth ta) ((List.range (count ta)).map fun e =>
      f (ewidth ta) (elem ta x e) (shiftCount ta tb y e))), 0)

/-- SHL: 0 for a count of the width or more. -/
def execShl (w : LaneW) (s : State) : Host.Outcome State Fault Refusal :=
  runLane (.shl w) (shiftSem fun w x n => if n < w then x * 2 ^ n % 2 ^ w else 0) s
/-- SHR: zero-filled; 0 for a count of the width or more. -/
def execShr (w : LaneW) (s : State) : Host.Outcome State Fault Refusal :=
  runLane (.shr w) (shiftSem fun w x n => if n < w then x / 2 ^ n else 0) s
/-- SRA: by Min(n, w − 1), filled with the top bit. -/
def execSra (w : LaneW) (s : State) : Host.Outcome State Fault Refusal :=
  runLane (.sra w) (shiftSem fun w x n => patOf w (intOf true w x / 2 ^ Min.min n (w - 1))) s
/-- ROT: rotated left by n mod w. -/
def execRot (w : LaneW) (s : State) : Host.Outcome State Fault Refusal :=
  runLane (.rot w) (shiftSem fun w x n => x * 2 ^ (n % w) % 2 ^ w + x / 2 ^ (w - n % w)) s

/-! ## Single-source operations (R176) -/

/-- An IUN row over the integer elements of a. -/
def iunSem (f : Tag → Nat → Nat) : LaneSem where
  src := isInt
  ok _ _ _ := true
  res ta _ := ta
  wideB := true
  fn ta _ x y z := (mapElems ta (fun a _ _ => f ta a) x y z, 0)

/-- IUN_ABS: the most negative value stays. -/
def execIunAbs (w : LaneU) (s : State) : Host.Outcome State Fault Refusal :=
  runLane (.iunAbs w) (iunSem fun t x => patOf (ewidth t) (intOf (isSigned t) (ewidth t) x).natAbs) s
/-- IUN_NEG. -/
def execIunNeg (w : LaneU) (s : State) : Host.Outcome State Fault Refusal :=
  runLane (.iunNeg w) (iunSem fun t x => patOf (ewidth t) (-(x : Int))) s
/-- IUN_NOT: any tag but FP64, the whole word. -/
def execIunNot (w : LaneU) (s : State) : Host.Outcome State Fault Refusal :=
  runLane (.iunNot w)
    { src := fun ta => tagOk ta && !isF64 ta, ok := fun _ _ _ => true, res := fun ta _ => ta, wideB := true
      fn := fun _ _ x _ _ => (~~~ x, 0) } s
/-- Leading zero bits of a pattern of width w. -/
def clz (w x : Nat) : Nat := if x = 0 then w else w - 1 - Nat.log2 x
/-- Set bits among the w low bits. -/
def popc (w x : Nat) : Nat := ((List.range w).map fun i => x / 2 ^ i % 2).sum
/-- The w low bits in reverse order. -/
def brev (w x : Nat) : Nat := ((List.range w).map fun i => x / 2 ^ i % 2 * 2 ^ (w - 1 - i)).sum
/-- IUN_CLZ. -/
def execIunClz (w : LaneU) (s : State) : Host.Outcome State Fault Refusal :=
  runLane (.iunClz w) (iunSem fun t x => clz (ewidth t) x) s
/-- IUN_POPC. -/
def execIunPopc (w : LaneU) (s : State) : Host.Outcome State Fault Refusal :=
  runLane (.iunPopc w) (iunSem fun t x => popc (ewidth t) x) s
/-- IUN_BREV. -/
def execIunBrev (w : LaneU) (s : State) : Host.Outcome State Fault Refusal :=
  runLane (.iunBrev w) (iunSem fun t x => brev (ewidth t) x) s
/-- A move of any tag, its word or pair unchanged. -/
def moveSem : LaneSem where
  src := tagOk
  ok _ _ _ := true
  res ta _ := ta
  wideB := true
  fn _ _ x _ _ := (x, 0)
/-- IUN_MOV. -/
def execIunMov (w : LaneU) (s : State) : Host.Outcome State Fault Refusal := runLane (.iunMov w) moveSem s

/-! ## Bit fields (R177) -/

/-- bfx of a 32-bit word: position y[4:0], length Min(y[10:5], 32). -/
def bfxWord (signed : Bool) (x y : Nat) : Nat :=
  let p := y % 32
  let n := Min.min (y / 32 % 64) 32
  if n = 0 then 0 else patOf 32 (intOf signed n ((intOf signed 32 x / 2 ^ p % 2 ^ n).toNat))

/-- bfi of 32-bit words: bits p to Min(p + n, 32) − 1 of z replaced by the low bits of x. -/
def bfiWord (x y z : Nat) : Nat :=
  let p := y % 32
  let n := Min.min (p + Min.min (y / 32 % 64) 32) 32 - p
  z - z / 2 ^ p % 2 ^ n * 2 ^ p + x % 2 ^ n * 2 ^ p

/-- BFX. -/
def execBfx (w : LaneW) (s : State) : Host.Outcome State Fault Refusal :=
  runLane (.bfx w)
    { src := isInt32, ok := fun _ tb _ => tagIn isInt32 tb, res := fun ta _ => ta, wideB := true
      fn := fun ta _ x y z => (mapElems ta (fun a b _ => bfxWord (isSigned ta) a b) x y z, 0) } s
/-- BFI: the result carries c's tag. -/
def execBfi (w : LaneW) (s : State) : Host.Outcome State Fault Refusal :=
  runLane (.bfi w)
    { src := isInt32
      ok := fun _ tb tc => tagIn isInt32 tb && tagIn isInt32 tc
      res := fun ta tc => tc.getD ta
      wideB := true
      fn := fun ta _ x y z => (mapElems ta bfiWord x y z, 0) } s

/-! ## Selection, comparison and immediates (R178 to R180) -/

/-- SEL (R178): a where the selecting predicate is 1, b where it is 0. -/
def execSel (w : LaneW) (s : State) : Host.Outcome State Fault Refusal :=
  runCore (.sel w) s fun c p f o => do
    let ta := tagA c o
    let M := activeMask c p.operand f.guard
    let chk ← laneChecks c o M ta (isF64 ta) true (tagOk ta && sameTag ta (srcTag c o.b))
    match chk with
    | .masked => return writeMasked s c f.chain M
    | .ok =>
      let q := vget c.g.q (p.operand.x.toNat % 8) 0
      let x (l : Nat) := if q.getLsbD l then srcVal c (isF64 ta) o.a l else srcVal c (isF64 ta) o.b l
      return writeResult s c f.chain o.d M x ta (fun _ => 0)

/-- R139: a cmp condition on two integers. -/
def cmpCond (k : Nat) (x y : Int) : Bool :=
  match k with
  | 0 => x == y
  | 1 => x != y
  | 2 => decide (x < y)
  | 3 => decide (x ≤ y)
  | 4 => decide (y < x)
  | _ => decide (y ≤ x)

/-- CMP (R179): every element must meet the condition. -/
def execCmp (w : LaneW) (s : State) : Host.Outcome State Fault Refusal :=
  runCompare (.cmp w) isInt
    (fun k t x y => ((List.range (count t)).all fun e =>
      cmpCond k (intOf (isSigned t) (ewidth t) (elem t x e)) (intOf (isSigned t) (ewidth t) (elem t y e)), 0)) s

/-- R137: the value of movi. -/
def moviValue (p : Pfx) (a b : BitVec 7) : Word :=
  match p.immediate with
  | none => (b ++ a).signExtend 32
  | some v => (v.setWidth 18) ++ b ++ a

/-- MOVI (R180): with the FP64 tag the value is the high half of the pair. -/
def execMovi (w : LaneW) (s : State) : Host.Outcome State Fault Refusal :=
  runCore (.movi w) s fun c p f o => do
    let t := p.operand.x
    let M := activeMask c p.operand f.guard
    need (!oddPair (isF64 t) o.d) causeIllegalOperand c.mask
    need (heldSpan c.g o.d (if isF64 t then 2 else 1)) causeRegisterBounds c.mask
    let v := moviValue p w.a w.b
    let x : Dword := if isF64 t then v ++ (0#32) else v.setWidth 64
    return writeResult s c f.chain o.d M (fun _ => x) t (fun _ => 0)

/-! ## 16-bit forms (R127) -/

/-- MOV_C16. The halfword 0x0000 is no move: it raises the illegal-instruction trap (R120). -/
def execMovC16 (w : HalfW) (s : State) : Host.Outcome State Fault Refusal :=
  if w.a == 0#6 && w.d == 0#5 then runInstr s fun c => trapOn causeIllegalInstruction c.mask
  else runLane (.iunMov (halfU w)) moveSem s
/-- ADD_C16. -/
def execAddC16 (w : HalfW) (s : State) : Host.Outcome State Fault Refusal := execAdd (halfW w) s
/-- SUB_C16. -/
def execSubC16 (w : HalfW) (s : State) : Host.Outcome State Fault Refusal := execSub (halfW w) s
/-- MUL_C16. -/
def execMulC16 (w : HalfW) (s : State) : Host.Outcome State Fault Refusal := execMul (halfW w) s
/-- AND_C16. -/
def execAndC16 (w : HalfW) (s : State) : Host.Outcome State Fault Refusal := execAnd (halfW w) s
/-- OR_C16. -/
def execOrC16 (w : HalfW) (s : State) : Host.Outcome State Fault Refusal := execOr (halfW w) s
/-- XOR_C16. -/
def execXorC16 (w : HalfW) (s : State) : Host.Outcome State Fault Refusal := execXor (halfW w) s
/-- SHL_C16. -/
def execShlC16 (w : HalfW) (s : State) : Host.Outcome State Fault Refusal := execShl (halfW w) s
/-- SHR_C16. -/
def execShrC16 (w : HalfW) (s : State) : Host.Outcome State Fault Refusal := execShr (halfW w) s
/-- SRA_C16. -/
def execSraC16 (w : HalfW) (s : State) : Host.Outcome State Fault Refusal := execSra (halfW w) s

end Sys2Proof.Machine
end

