-- ==== Sys2Proof/Machine/Scalar.lean ====
section
/-! DEFINITION. Machine/Scalar.lean: the scalar operations (R220 to R223). -/
namespace Sys2Proof.Machine

/-- A scalar register written, and the split advanced. -/
def writeScalar (s : State) (c : Ctx) (chain : Bool) (d : BitVec 7) (v : Dword) : State :=
  modGroup (writeS s c d v) c.cur.who.core c.cur.who.gslot (advanceGroup s c chain none)

/-- R220: a scalar operation on the 64-bit contents of a, b and d. -/
def runScalar (i : Instr) (fn : Dword → Dword → Dword → Dword) (s : State) : Host.Outcome State Fault Refusal :=
  runCore i s fun c _ f _ => .ok (writeScalar s c f.chain f.d (fn (srcS s c f.a) (srcS s c f.b) (srcS s c f.d)))

/-- SADD. -/
def execSadd (w : ScalarW) (s : State) : Host.Outcome State Fault Refusal := runScalar (.sadd w) (fun x y _ => x + y) s
/-- SSUB. -/
def execSsub (w : ScalarW) (s : State) : Host.Outcome State Fault Refusal := runScalar (.ssub w) (fun x y _ => x - y) s
/-- SMUL. -/
def execSmul (w : ScalarW) (s : State) : Host.Outcome State Fault Refusal := runScalar (.smul w) (fun x y _ => x * y) s
/-- SMAD. -/
def execSmad (w : ScalarW) (s : State) : Host.Outcome State Fault Refusal :=
  runScalar (.smad w) (fun x y z => x * y + z) s
/-- SAND. -/
def execSand (w : ScalarW) (s : State) : Host.Outcome State Fault Refusal :=
  runScalar (.sand w) (fun x y _ => x &&& y) s
/-- SOR. -/
def execSor (w : ScalarW) (s : State) : Host.Outcome State Fault Refusal :=
  runScalar (.sor w) (fun x y _ => x ||| y) s
/-- SXOR. -/
def execSxor (w : ScalarW) (s : State) : Host.Outcome State Fault Refusal :=
  runScalar (.sxor w) (fun x y _ => x ^^^ y) s
/-- A shift whose count is at least 64 gives 0. -/
def shiftBelow64 (f : Dword → Nat → Dword) (x y : Dword) : Dword := if y.toNat < 64 then f x y.toNat else 0
/-- SSHL. -/
def execSshl (w : ScalarW) (s : State) : Host.Outcome State Fault Refusal :=
  runScalar (.sshl w) (fun x y _ => shiftBelow64 (· <<< ·) x y) s
/-- SSHR. -/
def execSshr (w : ScalarW) (s : State) : Host.Outcome State Fault Refusal :=
  runScalar (.sshr w) (fun x y _ => shiftBelow64 (· >>> ·) x y) s
/-- SSRA. -/
def execSsra (w : ScalarW) (s : State) : Host.Outcome State Fault Refusal :=
  runScalar (.ssra w) (fun x y _ => x.sshiftRight (Min.min y.toNat 63)) s
/-- SMIN. -/
def execSmin (w : ScalarW) (s : State) : Host.Outcome State Fault Refusal :=
  runScalar (.smin w) (fun x y _ => if y.slt x then y else x) s
/-- SMAX. -/
def execSmax (w : ScalarW) (s : State) : Host.Outcome State Fault Refusal :=
  runScalar (.smax w) (fun x y _ => if x.slt y then y else x) s
/-- SMOV. -/
def execSmov (w : ScalarU) (s : State) : Host.Outcome State Fault Refusal := runScalar (.smov w) (fun x _ _ => x) s
/-- SLSA: x × 2^N + y. -/
def execSlsa (w : ScalarW) (s : State) : Host.Outcome State Fault Refusal :=
  runScalar (.slsa w) (fun x y _ => (x <<< (w.pfx.operand.x.toNat % 8)) + y) s

/-- R137: the value of sli. -/
def sliValue (p : Pfx) (a b : BitVec 7) : Dword :=
  match p.immediate with
  | none => (b ++ a).signExtend 64
  | some v => (v ++ b ++ a).signExtend 64

/-- SLI. -/
def execSli (w : ScalarW) (s : State) : Host.Outcome State Fault Refusal :=
  runCore (.sli w) s fun c p f _ => .ok (writeScalar s c f.chain f.d (sliValue p f.a f.b))

/-- R139: an scmp condition: signed for eq to ge, unsigned for ltu to geu. -/
def scmpCond (k : Nat) (x y : Dword) : Bool :=
  if k ≤ 5 then cmpCond k x.toInt y.toInt
  else if k = 6 then decide (x.toNat < y.toNat)
  else if k = 7 then decide (x.toNat ≤ y.toNat)
  else if k = 8 then decide (y.toNat < x.toNat)
  else decide (y.toNat ≤ x.toNat)

/-- SCMP (R222): the predicate in every lane of the split's mask. -/
def execScmp (w : ScalarW) (s : State) : Host.Outcome State Fault Refusal :=
  runCore (.scmp w) s fun c _ f _ =>
    let r := scmpCond (f.d.toNat / 8) (srcS s c f.a) (srcS s c f.b)
    .ok (writePred s c f.chain (f.d.toNat % 8) c.mask (if r then BitVec.allOnes 32 else 0) fun _ => 0)

end Sys2Proof.Machine
end

