-- ==== Sys2Proof/Machine/Sys.lean ====
section
/-! DEFINITION. Machine/Sys.lean: register blocks, the index register, and the system operations (R239 to R250,
R499). -/
namespace Sys2Proof.Machine

/-- R269: a system operation other than `nop` and `clk`, which commits the group's region before its effect. -/
def runSys (i : Instr) (s : State) (body : State → Ctx → Ex State) : Host.Outcome State Fault Refusal :=
  runCore i s fun c _ _ _ => committed s c body

/-! ## Register blocks (R239, R240) -/

/-- R240: the blocks a group of a grid is reserved. -/
def reservedBlocks (s : State) (gid : Nat) : Nat :=
  match gridOf s gid with
  | some g => (g.record.regs - 32) / 8
  | none => 0

/-- How many blocks a group holds. -/
def heldBlocks (g : Group) : Nat := ((List.range 11).filter fun k => g.held.getLsbD k).length

/-- R240, R399: the blocks of a partition's part of a core's pool that are neither reserved nor held. -/
def freeBlocks (s : State) (core part : Nat) : Nat :=
  bits (pregs s part).pblk 8 9 -
    (((s.groups.filter fun g => g.core == core && partOf s g == part).map fun g =>
      Max.max (reservedBlocks s g.gid) (heldBlocks g)).sum)

/-- R240: a block request of a group can be granted now. -/
def canGrant (s : State) (g : Group) : Bool :=
  heldBlocks g < reservedBlocks s g.gid || 0 < freeBlocks s g.core (partOf s g)

/-- R57, R239: the registers of a block as they are granted: U32 zeros. [log DEDUCED 31] -/
def clearBlock (g : Group) (k : Nat) : Group :=
  { g with v := (List.range 8).foldl (fun v i => vset v (32 + 8 * k + i) VReg.zero) g.v }

/-- R239: a block held. [log DEDUCED 31] -/
def holdBlock (g : Group) (k : Nat) : Group := { clearBlock g k with held := g.held ||| BitVec.ofNat 11 (2 ^ k) }

/-- R239: a block released; its contents are lost. [log DEDUCED 31] -/
def releaseBlock (g : Group) (k : Nat) : Group :=
  { clearBlock g k with held := g.held &&& ~~~BitVec.ofNat 11 (2 ^ k) }

/-- R240: a waiting request in its place: by cycle, and within one cycle by group slot. -/
def queueBlock (w : RegWait) : List RegWait → List RegWait
  | [] => [w]
  | x :: t => if x.core == w.core && x.cycle == w.cycle && w.gslot < x.gslot then w :: x :: t else x :: queueBlock w t

/-- SYS_REGACQ. -/
def execSysRegacq (a : BitVec 7) (s : State) : Host.Outcome State Fault Refusal :=
  runSys (.sysRegacq a) s fun s c =>
    let k := a.toNat
    let g := c.g
    if g.held.getLsbD k then .ok (retire s c)
    else if canGrant s g then .ok (retire (modGroup s g.core g.gslot fun g => holdBlock g k) c)
    else
      let s := waitSplit s c .onRegacq (some (.sysRegacq a)) false
      .ok { s with regWaits := queueBlock ⟨g.core, g.gslot, c.mask, k, s.clk.toNat⟩ s.regWaits }

/-- SYS_REGREL. -/
def execSysRegrel (a : BitVec 7) (s : State) : Host.Outcome State Fault Refusal :=
  runSys (.sysRegrel a) s fun s c =>
    .ok (retire (modGroup s c.g.core c.g.gslot fun g => if g.held.getLsbD a.toNat then releaseBlock g a.toNat else g) c)

/-- SYS_XISET (R241). -/
def execSysXiset (a : BitVec 7) (s : State) : Host.Outcome State Fault Refusal :=
  runSys (.sysXiset a) s fun s c => do
    let v := srcS s c a
    need (v.toNat ≤ 119) causeRegisterBounds c.mask
    return retire (modGroup s c.g.core c.g.gslot fun g => { g with xi := v.setWidth 7 }) c

/-! ## Special and control registers (R242 to R244) -/

/-- SYS_MOVSR. -/
def execSysMovsr (d a : BitVec 7) (s : State) : Host.Outcome State Fault Refusal :=
  runSys (.sysMovsr d a) s fun s c => .ok (retire (writeS s c d (srcS s c a)) c)

/-- SYS_MOVCR (R243). -/
def execSysMovcr (a : BitVec 7) (s : State) : Host.Outcome State Fault Refusal :=
  runSys (.sysMovcr a) s fun s c => do
    let v := srcS s c a
    need (v.toNat < 4) causeIllegalOperand c.mask
    return retire (modGroup s c.g.core c.g.gslot fun g => { g with ctl := v }) c

/-- SYS_STAT (R244). -/
def execSysStat (d : BitVec 7) (s : State) : Host.Outcome State Fault Refusal :=
  runSys (.sysStat d) s fun s c =>
    let s' := writeS s c d (statReport c.g c.mask)
    .ok (retire (modGroup s' c.g.core c.g.gslot fun g => clearSticky g c.mask) c)

/-- SYS_NOP. -/
def execSysNop (s : State) : Host.Outcome State Fault Refusal := runCore .sysNop s fun c _ _ _ => .ok (retire s c)

/-- SYS_CLK. -/
def execSysClk (d : BitVec 7) (s : State) : Host.Outcome State Fault Refusal :=
  runCore (.sysClk d) s fun c _ _ _ => .ok (retire (writeS s c d s.clk) c)

/-! ## Traps (R245, R247, R248, R499) -/

/-- SYS_TRAP: cause 9, resuming at the next instruction. -/
def execSysTrap (a : BitVec 7) (s : State) : Host.Outcome State Fault Refusal :=
  runCore (.sysTrap a) s fun c _ _ _ => .error (.trap ⟨causeSoftware, a.toNat, 0, c.mask, true, [], []⟩)

/-- SYS_RTE (R248). -/
def execSysRte (s : State) : Host.Outcome State Fault Refusal :=
  runCore .sysRte s fun c _ _ _ =>
    match returnFromTrap c.p.arch with
    | none => trapOn causeIllegalOperand c.mask
    | some _ =>
      committed s c fun s c => .ok (modGroup s c.g.core c.g.gslot fun g =>
        let p := splitAt g c.cur.who.entry
        putSplit g c.cur.who.entry { stampSplit s p with
          arch := (returnFromTrap p.arch).getD p.arch, chain := 0, latches := [] })

/-- R486, R499: dbgsta for a stopped team. -/
def dbgstaOf (gid core gslot : Nat) : Dword :=
  BitVec.ofNat 64 (1 + 256 * (core % 256) + 2 ^ 16 * (gslot % 64) + 2 ^ 32 * (gid % 2 ^ 32))

/-- R499: a stop recorded in dbgsta, with vector 2, or held behind the recorded one. [log DEDUCED 45] -/
def recordStop (s : State) (part : Nat) (stop : Nat × Nat × Nat × Nat) : State :=
  if (pregs s part).dbgsta.getLsbD 0 then modSched s part fun p => { p with stops := p.stops ++ [stop] }
  else
    let (gid, _, core, gslot) := stop
    raiseVector (modPregs s part fun r => { r with dbgsta := dbgstaOf gid core gslot })
      (bits (pregs s part).pctl 8 8) 2

/-- SYS_BRK (R247, R499): with pctl.dbg the team stops; else a trap of cause 10. -/
def execSysBrk (a : BitVec 7) (s : State) : Host.Outcome State Fault Refusal :=
  runCore (.sysBrk a) s fun c _ _ _ =>
    if (pregs s c.part).pctl.getLsbD 1 then
      committed s c fun s c =>
        let s := retire s c
        let s := modTeam s c.g.gid c.g.team fun t => { t with stopped := some (c.g.gslot, c.cur.who.entry) }
        .ok (recordStop s c.part (c.g.gid, c.g.team, c.g.core, c.g.gslot))
    else .error (.trap ⟨causeBreakpoint, a.toNat, 0, c.mask, true, [], []⟩)

/-- ILL (R120): opcode 0x00 raises the illegal-instruction trap, whatever its other bits. -/
def execIll (_raw : BitVec 24) (s : State) : Host.Outcome State Fault Refusal :=
  runInstr s fun c => trapOn causeIllegalInstruction c.mask

/-! ## Bank modes (R250, R322) -/

/-- SYS_MODE: the bank switches once it has drained; the split waits for it. A switch of a bank that is draining waits
for the first, and issues again. [log DEDUCED 44] -/
def execSysMode (d a : BitVec 7) (s : State) : Host.Outcome State Fault Refusal :=
  runCore (.sysMode d a) s fun c _ _ _ =>
    match (teamOf s c.g.gid c.g.team).bind fun t => bankOf t d.toNat with
    | none => trapAt causeProtection c.mask 0 [] []
    | some b =>
      committed s c fun s c =>
        match b.target with
        | some _ => .ok (waitSplit s c .onEvent (some (.sysMode d a)) false)
        | none =>
          if b.mode = a.setWidth 2 then .ok (retire s c)
          else
            let s := waitSplit s c .onEvent (some (.sysMode d a)) true
            .ok (modBank s c.g.gid c.g.team d.toNat fun b =>
              { b with target := some (a.setWidth 2, c.g.gslot, c.mask) })

end Sys2Proof.Machine
end

