-- ==== Sys2Proof/Machine/Waits.lean ====
section
/-! DEFINITION. Machine/Waits.lean: the events that bring waiting splits, banks, stores and invalidations on (R236, R240,
R263, R278, R322, R323, R339, R384, R385, R408). -/
namespace Sys2Proof.Machine

/-- An event: the state after it, its free values drawn. [log DESIGN CHOICE 8] -/
def eventNext (s : State) : Host.Outcome State Fault Refusal := .next { s with freeCtr := s.freeCtr + 1024 }

/-! ## Splits -/

/-- SPLIT_ROTATION (R408). -/
def execSplitRotation (core gslot : Nat) (s : State) : Host.Outcome State Fault Refusal :=
  .next (match groupAt s core gslot with
    | none => s
    | some g =>
      match rotate s g with
      | none => s
      | some s' => tap s' (8 * core + 1) 0 (partOf s g) (gslot + 256 * g.parked.length))

/-- R236: a yielded split may issue again: 256 cycles have passed, or each of the others has issued. -/
def yieldOver (s : State) (p : Split) : Bool :=
  match p.yielded with
  | none => false
  | some (since, others) => others == 0 || since + 256 ≤ s.clk.toNat

/-- YLD_RESUME. -/
def execYldResume (core gslot entry : Nat) (s : State) : Host.Outcome State Fault Refusal :=
  .next (match groupAt s core gslot with
    | none => s
    | some g =>
      let p := splitIn g entry
      if yieldOver s p then putGroup s (putIn g entry { p with yielded := none }) else s)

/-- R240: the first waiting request of its partition, in order, that can be granted now. -/
def grantable (s : State) (core : Nat) : Option RegWait :=
  let part (w : RegWait) : Nat := match groupAt s w.core w.gslot with
    | some g => partOf s g
    | none => 0
  let ws := s.regWaits.filter fun w => w.core == core
  ws.find? fun w =>
    (match ws.find? fun x => part x == part w with
      | some x => x == w
      | none => false) &&
    (match groupAt s core w.gslot with
      | some g => canGrant s g || g.held.getLsbD w.block
      | none => true)

/-- REGACQ_GRANT. -/
def execRegacqGrant (core : Nat) (s : State) : Host.Outcome State Fault Refusal :=
  .next (match grantable s core with
    | none => s
    | some w =>
      let s := { s with regWaits := s.regWaits.filter fun x => x != w }
      let s := modGroup s core w.gslot fun g => if g.held.getLsbD w.block then g else holdBlock g w.block
      wakeLanes s core w.gslot w.lanes)

/-- The scope of a waiting fence, and whether path X comes before it. -/
def fenceScope (i : Instr) : Option (BitVec 3 × Bool) :=
  match coreView i with
  | some (_, f, _) =>
    if f.major = 0x74#7 then some (f.b.setWidth 3, true)
    else if f.major = 0x75#7 then some (f.d.setWidth 3, f.b.setWidth 3 == 4#3)
    else none
  | none => none

/-- FENCE_RETIRE (R278). -/
def execFenceRetire (core gslot entry : Nat) (s : State) : Host.Outcome State Fault Refusal :=
  retryWhen s core gslot entry fun c i =>
    match fenceScope i with
    | some (scope, before) => fenceDone s c.g scope before
    | none => false

/-- R322, R323: a waiting `lds` or `sts` fits, and no earlier one of its group waits; or a `sys.mode` that follows another
of its bank finds that one done. -/
def fifoReady (s : State) (c : Ctx) (i : Instr) : Bool :=
  match coreView i with
  | none => false
  | some (p, f, u) =>
    (f.major == 0x7E#7 &&
      match (teamOf s c.g.gid c.g.team).bind fun t => bankOf t f.d.toNat with
      | some b => b.target.isNone
      | none => true) ||
    (f.major == 0x6A#7 || f.major == 0x6B#7) &&
    match operands s c p f u with
    | .error _ => true
    | .ok o =>
      let n := widBytes (f.b.setWidth 3)
      match checkStage s c ((lanesIn (activeMask c p.operand f.guard)).map fun l => (l, stageOffset c p o.a l)) n
          (f.major == 0x6A#7) with
      | .error _ => true
      | .ok xs => fifoFits s c.g.gid xs n (f.major == 0x6B#7) && fifoTurn s c xs (f.major == 0x6B#7)

/-- FIFO_ACCESS_RESUME. -/
def execFifoAccessResume (core gslot entry : Nat) (s : State) : Host.Outcome State Fault Refusal :=
  retryWhen s core gslot entry (fifoReady s)

/-! ## Stage banks (R322) -/

/-- R322: the contents a bank has in its new mode. [log DEDUCED 44; DESIGN CHOICE 9] -/
def switchBank (seed : Nat) (mode : BitVec 2) (b : Bank) : Bank :=
  { b with
    mode := mode
    target := none
    rd := 0
    wr := 0
    count := 0
    bad := []
    cells := []
    seed := if mode = 1#2 then some seed else none }

/-- R322: an access checked under the bank's mode has not been performed: a command is still to move an element through
the bank, a split waits to make a FIFO access of it, or an open region holds a store to it. [log DEDUCED 44, 70] -/
def bankInUse (s : State) (gid team bank : Nat) : Bool :=
  let here (x : ElemLoc) : Bool := match x with
    | .stage t b _ _ => t == team && b == bank
    | .mem _ => false
    | .peer _ _ _ => false
    | .bad => false
  s.cmds.any (fun k => k.gid == gid && (k.takes.any (fun x => here x.2) || k.moves.any fun m => here m.dst)) ||
    s.groups.any fun g => g.gid == gid && ((placesOf g).any (fun e => match (splitIn g e).fifo with
        | some x => x.banks.contains (team, bank)
        | none => false) ||
      (match g.region with
        | some r => r.buf.any fun e => match e with
          | .stage t b _ _ _ => t == team && b == bank
          | .bytes _ _ _ _ => false
          | .remote _ _ _ _ _ _ _ _ => false
          | .node _ _ => false
        | none => false))

/-- BANK_DRAIN_COMPLETE: the bank, named by its physical number, has drained. -/
def execBankDrainComplete (core bank : Nat) (s : State) : Host.Outcome State Fault Refusal :=
  eventNext (match s.teams.find? fun t => t.core == core && t.phase != .saved &&
      t.banks.any fun b => b.phys == bank && b.target.isSome with
    | none => s
    | some t =>
      match (List.range t.banks.length).find? fun i => (t.banks[i]?.map fun b => b.phys == bank && b.target.isSome) == some true with
      | none => s
      | some i =>
        match t.banks[i]?.bind Bank.target with
        | none => s
        | some (mode, gslot, lanes) =>
          if bankInUse s t.gid t.team i then s
          else wakeLanes (modBank s t.gid t.team i (switchBank s.freeCtr mode)) core gslot lanes)

/-! ## Stores (R263, R339) -/

/-- ACCESS_COMPLETION: the oldest completion tick of a group comes back, and raises hz. -/
def execAccessCompletion (core gslot : Nat) (s : State) : Host.Outcome State Fault Refusal :=
  .next (match s.ticks.find? fun t => t.core == core && t.gslot == gslot with
    | none => s
    | some t =>
      modGroup { s with ticks := s.ticks.erase t } core gslot fun g =>
        { g with hz := if g.hz.toNat < t.tick then BitVec.ofNat 64 t.tick else g.hz })

/-- RWC_LINE_DRAIN: a line of the core that is due leaves, once its channel has room. -/
def execRwcLineDrain (core : Nat) (s : State) : Host.Outcome State Fault Refusal :=
  .next (match s.rwc.find? fun r => r.core == core && r.due s.time.toNat && chanRoom s r.dev (BitVec.ofNat 2 r.cls) 1 with
    | none => s
    | some r => drainLine s r)

/-! ## Invalidation (R384, R385) -/

/-- R377: kind of an invalidation. -/
def tinvKind (tinvc : Dword) : Nat := bits tinvc 1 2

/-- R377: the start and length of the range a tinva names. -/
def tinvRange (tinva : Dword) : Nat × Nat :=
  (bits tinva 12 44 * 4096, 2 ^ (min 56 (max 12 (bits tinva 0 6))))

/-- R385: an invalidation of a kind, started with tinva as it stands; one that runs is waited for. -/
def startTinv (s : State) (part kind : Nat) : State :=
  if part < 12 then
    let c := BitVec.ofNat 64 (1 + 2 * kind)
    let s := modSched s part fun p => { p with tinv := p.tinv ++ [(c, (pregs s part).tinva)] }
    modPregs s part fun r => { r with tinvc := c }
  else s

/-- TINV_FIRST_STAGE. -/
def execTinvFirstStage (part : Nat) (s : State) : Host.Outcome State Fault Refusal := .next (startTinv s part 0)
/-- TINV_SECOND_STAGE. -/
def execTinvSecondStage (part : Nat) (s : State) : Host.Outcome State Fault Refusal := .next (startTinv s part 1)
/-- TINV_ALL. -/
def execTinvAll (part : Nat) (s : State) : Host.Outcome State Fault Refusal := .next (startTinv s part 2)
/-- TINV_WINDOWS. -/
def execTinvWindows (part : Nat) (s : State) : Host.Outcome State Fault Refusal := .next (startTinv s part 3)

/-- The range holds a byte of n bytes at an address. -/
def inRange (r : Nat × Nat) (a n : Nat) : Bool := a < r.1 + r.2 && r.1 < a + n

/-- R385: an open region holds a store to the range. -/
def regionHit (kind : Nat) (r : Nat × Nat) (e : RegionEntry) : Bool :=
  match e with
  | .bytes line gpa cells _ =>
    if kind = 0 then inRange r (line * 256) 256 else kind == 2 || (kind == 1 && inRange r gpa cells.length)
  | .remote line _ _ _ _ _ _ _ => if kind = 0 then inRange r (line * 256) 256 else kind == 2
  | .node line _ => if kind = 0 then inRange r (line * 256) 256 else kind == 2
  | .stage _ _ _ _ _ => kind == 2

/-- R385: the groups of a partition whose regions have to commit. [log DEDUCED 49] -/
def regionsHit (s : State) (part kind : Nat) (r : Nat × Nat) : List Group :=
  s.groups.filter fun g => partOf s g == part && (match g.region with
    | some x => kind == 2 || x.buf.any (regionHit kind r)
    | none => false)

/-- R385: the regions to commit do so, as far as they can now. [log DEDUCED 76] -/
def commitHit (s : State) (part kind : Nat) (r : Nat × Nat) : State :=
  (regionsHit s part kind r).foldl commitRegion s

/-- What a request does that an old translation of a partition may have led to. [log DEDUCED 76] -/
def Req.translated (r : Req) : Bool :=
  match r.kind with
  | .frag => true
  | .load _ _ _ _ _ _ _ => true
  | .loadS _ _ _ _ _ _ => true
  | .store _ _ _ => true
  | .atomic _ _ _ _ _ _ _ _ _ => true
  | .multicast _ => false
  | .token _ _ _ _ => false
  | .cmd _ _ => true
  | .desc _ _ _ => true

/-- R385: what the guarantees wait for: regions, remote lines and requests, commands that hold translations, and what
reads and contributions of descriptors have still to bring to their home. [log DEDUCED 76] -/
def tinvDone (s : State) (part kind : Nat) (r : Nat × Nat) : Bool :=
  kind == 3 ||
  ((regionsHit s part kind r).isEmpty &&
    !(s.cmds.any fun k => k.part == part && (k.phase == .started || k.phase == .streaming || k.remote != 0)) &&
    !(s.rwc.any fun l => l.part == part) &&
    !(s.reqs.any fun q => q.packet.ftid == ftidOf s part && q.translated) &&
    !(s.redReqs.any fun q => q.part == part) && !(s.flights.any fun x => x.frag.part == part) &&
    !(s.coreHeld.any fun x => x.frag.part == part) &&
    !(s.refused.any fun x => x.frag.part == part && x.reply.isNone))

/-- R384, R385: an entry a completed invalidation takes from its TLB. [log DEDUCED 76; DESIGN CHOICE 20] -/
def tlbHit (part kind : Nat) (r : Nat × Nat) (e : TlbEntry) : Bool :=
  e.part == part &&
  (kind == 2 || (kind == 0 && inRange r e.base e.size) ||
    (kind == 1 && (match e.out with
      | .page gpa _ _ _ nr _ => !nr || inRange r gpa e.size
      | .peer _ _ _ _ nr _ => !nr)))

/-- INVALIDATION_COMPLETE: what the running invalidation forces is done, and, once its guarantees hold, it ends. -/
def execInvalidationComplete (part : Nat) (s : State) : Host.Outcome State Fault Refusal :=
  .next (match (psched s part).tinv with
    | [] => s
    | (c, a) :: rest =>
      let kind := tinvKind c
      let r := tinvRange a
      let s := if kind = 3 then s else commitHit s part kind r
      let s := if kind = 0 || kind = 2 then
          { s with rwc := modify (fun l => l.part == part) (fun l => { l with age := 0 }) s.rwc }
        else s
      if tinvDone s part kind r then
        let s := { s with tlb := s.tlb.filter fun e => !tlbHit part kind r e }
        let s := modSched s part fun p => { p with tinv := rest }
        if rest.isEmpty then modPregs s part fun x => { x with tinvc := setBits x.tinvc 0 1 0 } else s
      else s)

end Sys2Proof.Machine
end

