-- ==== Sys2Proof/Machine/Issue.lean ====
section
/-! DEFINITION. Machine/Issue.lean: one issue opportunity: the choice of the splits that issue, their pairing and their
shared ports (R232, R233, R403 to R406, R421). -/
namespace Sys2Proof.Machine

/-! ## Candidates (R403) -/

/-- R403, R409, R411, R421, R499: a split of the team may issue: a team being saved or paused
finishes its chains only. [log DEDUCED 79] -/
def teamRuns (s : State) (gid team : Nat) (p : Split) : Bool :=
  match teamOf s gid team with
  | none => false
  | some t =>
    (t.phase == .running || t.phase == .draining ||
      (p.chain != 0 && p.arch.state == .ready && t.phase != .saved && t.phase != .removed)) && t.stopped.isNone &&
      ((!(psched s t.part).paused && !throttled s t.core) || p.chain != 0)

/-- An access of a split has not come back: a remote load or atomic of one of its lanes. [log DEDUCED 36] -/
def Req.blocks (core gslot : Nat) (m : Mask) (r : Req) : Bool :=
  match r.kind with
  | .load c g _ l _ _ _ => c == core && g == gslot && m.getLsbD l
  | .loadS c g _ _ x _ => c == core && g == gslot && x &&& m != 0
  | .atomic c g _ _ _ l _ _ _ => c == core && g == gslot && m.getLsbD l
  | .store _ _ _ => false
  | .multicast _ => false
  | .frag => false
  | .token _ _ _ _ => false
  | .cmd _ _ => false
  | .desc _ _ _ => false

/-- R273, R403, R406: a Ready split is held up by other than its next instruction: its team is not scheduled, an
access of its own has not come back, or a node it contributed has found no room. [log DEDUCED 80] -/
def heldUp (s : State) (g : Group) (p : Split) : Bool :=
  !teamRuns s g.gid g.team p || s.reqs.any (Req.blocks g.core g.gslot p.arch.mask) ||
    nodesOut s g.core g.gslot p.arch.mask

/-- R403: a resident split may issue. [log DEDUCED 79, 80] -/
def isCandidate (s : State) (g : Group) (e : Nat) : Bool :=
  let p := splitAt g e
  p.arch.state == .ready && p.idle.isNone && p.yielded.isNone && !heldUp s g p && !underTest s g.core &&
    (!(psched s (partOf s g)).slowed || s.clk.toNat % 4 == 0)

/-- R403, R406: the splits of an issue slot looked at again before its opportunity: a split's age stands still while
it is held up, or while its next instruction, tried, still stalls; what the try has brought on stays. [log DEDUCED
16] -/
def wakeIdle (run : State → Issuer → Host.Outcome State Fault Refusal) (core slot : Nat) (s : State) : State :=
  let one (gslot : Nat) (s : State) (place : Nat) : State :=
    match groupAt s core gslot with
    | none => s
    | some g =>
      let p := splitIn g place
      let now := s.time.toNat
      if p.arch.state ≠ .ready then s
      else if heldUp s g p then putGroup s (putIn g place { p with idle := some (p.idle.getD now) })
      else if p.idle.isNone then s
      else if 4 ≤ place then putGroup s (putIn g place (resumeAge now p))
      else
        match run s ⟨core, gslot, place⟩ with
        | .next t =>
          if ((groupAt t core gslot).map fun x => (splitAt x place).idle.isSome).getD false then t
          else putGroup s (putIn g place (resumeAge now p))
        | .fault _ => s
        | .refused _ => s
  (List.range 16).foldl (fun s k => match groupAt s core (4 * k + slot) with
    | none => s
    | some g => (placesOf g).foldl (one (4 * k + slot)) s) s

/-- R236: a split has issued: the yielded splits of its group wait for its lanes no longer. -/
def noteIssue (s : State) (core gslot : Nat) (lanes : Mask) : State :=
  modGroup s core gslot fun g =>
    (placesOf g).foldl (fun g e =>
      let p := splitIn g e
      match p.yielded with
      | none => g
      | some (since, others) => putIn g e { p with yielded := some (since, others &&& ~~~lanes) }) g

/-- A candidate of an issue slot. -/
structure Cand where
  g : Group
  entry : Nat
  p : Split
  deriving DecidableEq, Repr

/-- The candidates of an issue slot, lower group slot and entry first. [log DEDUCED 78] -/
def candidates (s : State) (core slot : Nat) : List Cand :=
  (List.range 16).flatMap fun k =>
    match groupAt s core (4 * k + slot) with
    | none => []
    | some g => ((List.range 4).filter (isCandidate s g)).map fun e => ⟨g, e, splitAt g e⟩

/-- How recently a candidate issued. -/
def Cand.recency (c : Cand) : Nat := Sys2Proof.Machine.recency c.p.lastIssue c.p.since

/-- R403: the split is bound to the slot: it continues a chain, or lost a port conflict. -/
def boundSplit (p : Split) : Bool := p.chain != 0 || p.lostPort

/-- R403, R421: a bound split of a slot that cannot issue now, its team scheduled and not slowed past this cycle: nothing
else issues alone. -/
def slotHeld (s : State) (core slot : Nat) : Bool :=
  (List.range 16).any fun k =>
    match groupAt s core (4 * k + slot) with
    | none => false
    | some g => (List.range 4).any fun e =>
        (splitAt g e).live && boundSplit (splitAt g e) && (splitAt g e).arch.state == .ready &&
          teamRuns s g.gid g.team (splitAt g e) && (!(psched s (partOf s g)).slowed || s.clk.toNat % 4 == 0)

/-- R403: the first split of an opportunity. -/
def firstSplit (s : State) (core slot : Nat) (cs : List Cand) : Option Cand :=
  match leastBy Cand.recency (cs.filter fun c => boundSplit c.p) with
  | some c => some c
  | none =>
    if slotHeld s core slot then none
    else
      match leastBy Cand.recency (cs.filter fun c => 16000 ≤ ageOf s.time.toNat c.p.since c.p.idle) with
      | some c => some c
      | none =>
        let cls (c : Cand) : Nat := classOfGrid s c.g.gid
        let best := (cs.map cls).foldl min 4
        leastBy Cand.recency (cs.filter fun c => cls c == best)

/-! ## Pairing (R404, R405) -/

/-- The instruction a candidate would issue. -/
def Cand.instr (s : State) (c : Cand) : Option Instr :=
  match fetchInstr s c.g.core (partOf s c.g) c.g.gid c.p.arch.mask c.p.arch.pc with
  | .instr i _ => some i
  | .trap _ => none

/-- R404: the shared ports, but for the tag port (retags). -/
inductive IssuePort where
  | scalar | memory | special | engine
  deriving DecidableEq, Repr

/-- R404: the major opcode of an instruction, and whether it broadcasts a scalar; halfwords have none. -/
def majorOf (i : Instr) : Option (Nat × Bool) := (coreView i).map fun x => (x.2.1.major.toNat, x.1.operand.bs)

/-- R404: the ports an instruction uses, but for the tag port. -/
def portsOf (i : Instr) : List IssuePort :=
  match majorOf i with
  | none => []
  | some (m, bs) =>
    (if (0x50 ≤ m && m ≤ 0x5F) || m = 0x7E || m = 0x62 || bs then [IssuePort.scalar] else []) ++
    (if 0x68 ≤ m && m ≤ 0x76 then [IssuePort.memory] else []) ++
    (if m = 0x40 || m = 0x41 || m = 0x4A || m = 0x4C || m = 0x4D || (0x2A ≤ m && m ≤ 0x2D) then [IssuePort.special] else []) ++
    (if 0x78 ≤ m && m ≤ 0x7D then [IssuePort.engine] else [])

/-- R133, R404: the instruction's class rules pairing out: a control transfer, contribution, synchronisation, engine or
system instruction. -/
def pairable (i : Instr) : Bool :=
  match majorOf i with
  | none => true
  | some (m, _) => !((0x60 ≤ m && m ≤ 0x67) || (0x71 ≤ m && m ≤ 0x7E))

/-- R404, R405: two instructions need one shared port. -/
def portClash (i j : Instr) : Bool := (portsOf i).any (portsOf j).contains

/-- A candidate's place. -/
def Cand.issuer (c : Cand) : Issuer := ⟨c.g.core, c.g.gslot, c.entry⟩

/-- R134, R404: the second split: one that continues a chain, whose next opportunity this is, or else the least recent.
[log DEDUCED 78] -/
def secondSplit (f : Cand) (cs : List Cand) : Option Cand :=
  let others := cs.filter fun c => c.g.gslot == f.g.gslot && c.entry != f.entry
  match leastBy Cand.recency (others.filter fun c => boundSplit c.p) with
  | some c => some c
  | none => leastBy Cand.recency others

/-- R405: a port conflict: the priority bit decides and flips, and the loser is first at the next opportunity. [log
DEDUCED 77] -/
def conflict (s : State) (f p : Cand) : State :=
  let lo := if f.entry < p.entry then f else p
  let hi := if f.entry < p.entry then p else f
  let win := if f.g.prio then hi else lo
  let lose := if f.g.prio then lo else hi
  let s := modGroup s f.g.core f.g.gslot fun g =>
    { putSplit g lose.entry { splitAt g lose.entry with lostPort := true } with prio := !g.prio }
  { s with turn := s.turn ++ [win.issuer] }

/-- R404: the first split issues, with a second of its group where one may. -/
def issuePair (s : State) (f : Cand) (cs : List Cand) : State :=
  let alone := { s with turn := s.turn ++ [f.issuer] }
  match secondSplit f cs with
  | none => alone
  | some p =>
    let may (c : Cand) : Bool := match c.instr s with
      | some i => pairable i
      | none => true
    let clash : Bool := match f.instr s, p.instr s with
      | some i, some j => portClash i j
      | _, _ => false
    if !may f || !may p then alone
    else if clash then conflict s f p
    else { s with turn := s.turn ++ [f.issuer, p.issuer] }

/-! ## The tag port (R33, R404) -/

/-- The registers of a group whose tags differ between two states. -/
def retagged (g h : Group) : List Nat := (List.range 120).filter fun n => tagOf g n != tagOf h n

/-- The registers whose tags or words differ. -/
def rewritten (g h : Group) : List Nat := (List.range 120).filter fun n => vreg g n != vreg h n

/-- How many registers from its destination on an instruction of a major opcode and field b writes; for results in one
format, one register, or the pair that carries FP64 after it. -/
def destSpan (major b : Nat) (k : Kind) (f64 : Bool) : Nat :=
  match k with
  | .dst =>
    if major = 0x4A then 2 else if major = 0x4B then (if f64 then 6 else 3)
    else if major = 0x4C || major = 0x4D then b else if f64 then 2 else 1
  | .dstE => 2
  | .dstQ => 4
  | .src => 0
  | .srcE => 0
  | .srcQ => 0
  | .srcS => 0
  | .sSrc => 0
  | .sDst => 0
  | .quad => 0
  | .fixed _ => 0

/-- The vector registers an instruction writes, from its destination field: they count as written even where its effect,
from g to h, leaves their words the same. -/
def destRegs (g h : Group) (i : Instr) : List Nat :=
  let from' (d n : Nat) : List Nat := if 119 < d then [] else (List.range n).map fun k => d + k
  match view i with
  | .core p f u =>
    let d := f.d.toNat + (if p.operand.xd then g.xi.toNat else 0)
    from' d (destSpan f.major.toNat f.b.toNat u.d (isF64 (tagOf g d) || isF64 (tagOf h d)))
  | .half _ w => from' w.d.toNat (if isF64 (tagOf h w.d.toNat) then 2 else 1)
  | .filter _ => []
  | .event => []

/-- R33, R171: one of two paired splits would retag a register that the other writes in the same cycle. run carries out
the instruction of a split: which writes retag is known from that. [log DEDUCED 77] -/
def tagClash (run : State → Issuer → Host.Outcome State Fault Refusal) (s : State) (f p : Cand) : Bool :=
  let effect (c : Cand) : List Nat × List Nat :=
    match run s c.issuer with
    | .next t =>
      (match groupAt t c.g.core c.g.gslot with
      | some h => (retagged c.g h, rewritten c.g h ++ (c.instr s).elim [] (destRegs c.g h))
      | none => ([], []))
    | .fault _ => ([], [])
    | .refused _ => ([], [])
  let (rf, wf) := effect f
  let (rp, wp) := effect p
  rf.any wp.contains || rp.any wf.contains

/-- R404, R405: two splits of a group chosen to issue together, the last two in turn, where the tag port lets only
one. [log DEDUCED 16] -/
def tagPort (run : State → Issuer → Host.Outcome State Fault Refusal) (s : State) (turn : List Issuer) : State :=
  match s.turn.drop turn.length with
  | [x, y] =>
    match groupAt s x.core x.gslot with
    | none => s
    | some g =>
      let f : Cand := ⟨g, x.entry, splitAt g x.entry⟩
      let p : Cand := ⟨g, y.entry, splitAt g y.entry⟩
      if tagClash run s f p then conflict { s with turn := turn } f p else s
  | _ => s

/-- R240: what issues in one cycle on a core goes lower group slot first. [log DEDUCED 31] -/
def byGroupSlot (turn : List Issuer) : List Issuer :=
  (List.range 64).flatMap fun g => turn.filter fun w => w.gslot == g

/-! ## The opportunity -/

/-- R232, R233: the splits of a group that stand at their rejoin address enter Waiting at rejoin, and what that makes
due is done. [log DEDUCED 39] -/
def arriveRejoin (s : State) (g : Group) : State :=
  if (List.range 4).any fun e => reachesRejoin (splitAt g e) && isCandidate s g e then
    let wait (g : Group) (e : Nat) : Group :=
      if reachesRejoin (splitAt g e) && isCandidate s g e then
        putSplit g e { splitAt g e with arch := { (splitAt g e).arch with state := .atRejoin } }
      else g
    putSettled s ((List.range 4).foldl wait g)
  else s

/-- The groups of an issue slot arrive at their rejoins. [log DEDUCED 39] -/
def arriveRejoins (s : State) (core slot : Nat) : State :=
  (List.range 16).foldl (fun s k => match groupAt s core (4 * k + slot) with
    | some g => arriveRejoin s g
    | none => s) s

/-- ISSUE_OPPORTUNITY: the splits chosen stand in turn, and issue in the steps that follow. Which splits stall or would
retag a register is known from their instructions, so step looks at that before and after (wakeIdle, tagPort). [log
DEDUCED 16] -/
def execIssueOpportunity (core slot : Nat) (s : State) : Host.Outcome State Fault Refusal :=
  let s := arriveRejoins s core slot
  let cs := candidates s core slot
  eventNext (match firstSplit s core slot cs with
    | none => s
    | some f => issuePair s f cs)

end Sys2Proof.Machine
end

