-- ==== Sys2Proof/Machine/Place.lean ====
section
/-! DEFINITION. Machine/Place.lean: partition shares, placement, the start and the end of teams (R57, R399 to R402,
R414). -/
namespace Sys2Proof.Machine

/-! ## Shares (R399) -/

/-- The ranges of a share: base and count of group slots, blocks, banks, accumulators and copy tags. -/
def shareRanges (r : PartRegs) : List (Nat × Nat) :=
  [(bits r.pslot 0 6, bits r.pslot 6 7), (bits r.pblk 0 8, bits r.pblk 8 9), (bits r.pbank 0 4, bits r.pbank 4 5),
    (bits r.pacc 0 4, bits r.pacc 4 5), (bits r.pctag 0 6, bits r.pctag 6 7)]

/-- R399: the share overlaps another partition's. -/
def shareOverlaps (s : State) (part : Nat) : Bool :=
  (List.range 12).any fun q => q != part &&
    ((shareRanges (pregs s part)).zip (shareRanges (pregs s q))).any fun (x, y) =>
      x.1 < y.1 + y.2 && y.1 < x.1 + x.2 && x.2 != 0 && y.2 != 0

/-- The numbers of a share's range that a core has. -/
def rangeOf (x : Nat × Nat) (limit : Nat) : List Nat :=
  ((List.range x.2).map fun i => x.1 + i).filter fun n => n < limit

/-- The share's group slots on a core that are free. [log DESIGN CHOICE 81] -/
def freeSlots (s : State) (core part : Nat) : List Nat :=
  (rangeOf (bits (pregs s part).pslot 0 6, bits (pregs s part).pslot 6 7) 64).filter fun g => (groupAt s core g).isNone

/-- The teams placed on a core. -/
def placedOn (s : State) (core : Nat) : List Team := s.teams.filter fun t => t.core == core && t.phase != .saved

/-- R493: the share's banks of a core that are free and not fenced. [log DESIGN CHOICE 81] -/
def freeBanks (s : State) (core part : Nat) : List Nat :=
  (rangeOf (bits (pregs s part).pbank 0 4, bits (pregs s part).pbank 4 5) 16).filter fun b =>
    !fenced s (256 + 16 * core + b) && !((placedOn s core).any fun t => t.banks.any fun x => x.phys == b)

/-- How many accumulators of the share no team on the core may claim. [log DESIGN CHOICE 81] -/
def freeAccs (s : State) (core part : Nat) : Nat :=
  bits (pregs s part).pacc 4 5 - (((placedOn s core).filter fun t => t.part == part).map fun t =>
    match gridOf s t.gid with
    | some g => g.record.accs
    | none => t.accs.length).sum

/-- A run of copy tags is free on a core. -/
def tagsFree (s : State) (core first n : Nat) : Bool :=
  !((placedOn s core).any fun t => t.tagCount != 0 && t.tagFirst < first + n && first < t.tagFirst + t.tagCount)

/-- R400, R401: the first copy tag of a free run; 0 where none is asked for. [log DESIGN CHOICE 81] -/
def freeTags (s : State) (core part n : Nat) : Option Nat :=
  if n = 0 then some 0
  else
    let base := bits (pregs s part).pctag 0 6
    let cnt := bits (pregs s part).pctag 6 7
    (List.range (cnt + 1 - n)).map (fun i => base + i) |>.find? fun f => f + n ≤ 64 && tagsFree s core f n

/-- R401: the context areas of the pool that are free. [log DESIGN CHOICE 81] -/
def freeAreas (s : State) (part : Nat) : List Nat :=
  (List.range (bits (pregs s part).ctxcfg 16 16)).filter fun a => !(s.teams.any fun t => t.part == part && t.area == a)

/-! ## Needs (R401) -/

/-- Groups of a team. -/
def LaunchRec.groups (r : LaunchRec) : Nat := (r.lanes + 31) / 32
/-- Register blocks a team is reserved. -/
def LaunchRec.blocks (r : LaunchRec) : Nat := r.groups * ((r.regs - 32) / 8)
/-- Stage banks of a team. -/
def LaunchRec.banks (r : LaunchRec) : Nat := (r.stg + 63) / 64
/-- R413: the end of a team's context area. -/
def LaunchRec.context (r : LaunchRec) : Nat :=
  0x1000 + r.groups * 0x4800 + 0x1000 + r.accs * 0x40040 + r.banks * 0x10040

/-- R401: a team fits on a core now. -/
def fitsOn (s : State) (part core : Nat) (r : LaunchRec) : Bool :=
  core < Config.cores && !fenced s core && r.groups ≤ (freeSlots s core part).length &&
    r.blocks ≤ freeBlocks s core part && r.banks ≤ (freeBanks s core part).length && r.accs ≤ freeAccs s core part &&
    (freeTags s core part r.tags).isSome

/-- R402: the cores of a rectangle of one die from its first core, row by row; none where it leaves the mesh. -/
def rectangle (base w h : Nat) : Option (List Nat) :=
  let row := base % 96 / 12
  let col := base % 12
  if base < Config.cores && row + h ≤ 8 && col + w ≤ 12 then
    some ((List.range (w * h)).map fun i => base + 12 * (i / w) + i % w)
  else none

/-- The grids of a partition with a cluster still to place. -/
def waitingGrids (s : State) (part : Nat) : List Grid :=
  s.grids.filter fun g => g.part == part && g.phase == .placing && g.nextTeam < g.record.teams

/-- A saved team of a partition. -/
def savedTeams (s : State) (part : Nat) : List Team := s.teams.filter fun t => t.part == part && t.phase == .saved

/-- R402, R414: a grid comes before another in the order of placement. -/
def Grid.before (x g : Grid) : Bool :=
  x.record.cls < g.record.cls || (x.record.cls == g.record.cls && decide (x.gid < g.gid))

/-- R412: space on a core is held back for a grid that comes before one in the order of placement and waits for it. [log
DEDUCED 90] -/
def heldBack (s : State) (g : Grid) (core : Nat) : Bool :=
  s.grids.any fun x => x.part == g.part && x.rect.contains core && x.before g && x.phase == .placing &&
    (x.nextTeam < x.record.teams || (savedTeams s g.part).any fun t => t.gid == x.gid)

/-- R401, R412: a team of a grid may be placed on a core now. -/
def takesTeam (s : State) (g : Grid) (core : Nat) : Bool := fitsOn s g.part core g.record && !heldBack s g core

/-- R401: the context pool has room for a cluster. -/
def areasFor (s : State) (part n : Nat) : Bool := n ≤ (freeAreas s part).length

/-- Rectangles chosen so that no two share a core: n of them among those that start at the listed cores, of which the
fuel is no fewer. -/
def packs (w h : Nat) : Nat → Nat → List Nat → Bool
  | _, 0, _ => true
  | 0, _ + 1, _ => false
  | _ + 1, _ + 1, [] => false
  | f + 1, n + 1, b :: t =>
    let apart (c : Nat) : Bool :=
      b / 96 != c / 96 || b % 96 / 12 + h ≤ c % 96 / 12 || c % 96 / 12 + h ≤ b % 96 / 12 || b % 12 + w ≤ c % 12 ||
        c % 12 + w ≤ b % 12
    packs w h f n (t.filter apart) || packs w h f (n + 1) t

/-- R398, R401: the share of an empty core could never hold a team, or its context its area. -/
def shareTooSmall (s : State) (part : Nat) (r : LaunchRec) : Bool :=
  let p := pregs s part
  bits p.pslot 6 7 < r.groups || bits p.pblk 8 9 < r.blocks || bits p.pbank 4 5 < r.banks || bits p.pacc 4 5 < r.accs ||
    bits p.pctag 6 7 < r.tags || bits p.ctxcfg 16 16 == 0 || bits p.ctxcfg 0 16 * 0x10000 < r.context

/-- R402: cores where the partition's share could hold a team of a record, with nothing placed. -/
def coreCould (s : State) (part core : Nat) (r : LaunchRec) : Bool :=
  !fenced s core &&
    r.banks ≤ ((rangeOf (bits (pregs s part).pbank 0 4, bits (pregs s part).pbank 4 5) 16).filter fun b =>
      !fenced s (256 + 16 * core + b)).length

/-- R398, R402: a launch that can never be placed. -/
def neverFits (s : State) (part : Nat) (r : LaunchRec) : Bool :=
  let starts := (List.range Config.cores).filter fun b => match rectangle b r.cw r.chh with
    | some cs => cs.all fun c => coreCould s part c r
    | none => false
  let n := r.teams / (r.cw * r.chh)
  shareTooSmall s part r || starts.isEmpty ||
    (r.cores && (bits (pregs s part).ctxcfg 16 16 < r.teams || 2 * (12 / r.cw * (8 / r.chh)) < n ||
      !packs r.cw r.chh starts.length n starts))

/-! ## Team start (R57) -/

/-- R57: a group's registers at its start. The rule's list leaves hz out; it starts at 0. [log DESIGN CHOICE 133] -/
def freshGroup (s : State) (g : Grid) (core gslot team grpid : Nat) : Group :=
  let r := g.record
  let n := min 32 (r.lanes - 32 * grpid)
  let mask := BitVec.ofNat 32 (2 ^ n - 1)
  let start : Split :=
    ⟨⟨r.entry, noRejoin, mask, .ready, []⟩, 0, [], none, s.time.toNat, none, none, false, none, none⟩
  { core := core
    gslot := gslot
    gid := g.gid
    team := team
    grpid := grpid
    v := Vector.replicate 120 VReg.zero
    held := 0
    xi := 0
    q := Vector.replicate 8 0
    s := r.args.foldl (fun v (i, x) => vset v i x) (Vector.replicate 64 0)
    lst := Vector.replicate 32 0
    ctl := 0
    hz := 0
    splits := (Vector.replicate 4 Split.free).set 0 start
    parked := []
    prio := false
    region := none
    rotated := s.clk.toNat }

/-- R7, R324: a bank newly given to a team: scratch mode; the manual gives its bytes no value. [log DESIGN CHOICE 9]
-/
def freshBank (seed phys : Nat) : Bank := ⟨phys, 1, none, 0, 0, 0, some seed, [], []⟩

/-- R57: a team at its start. -/
def freshTeam (s : State) (g : Grid) (core team area tagFirst : Nat) (banks : List Nat) : Team where
  gid := g.gid
  team := team
  part := g.part
  core := core
  phase := .running
  w := Vector.replicate 16 0
  wq := []
  g := Vector.replicate 8 ⟨0, 0, 0, 0, 0, false, 0, 0, 0, 0⟩
  tagFirst := tagFirst
  tagCount := g.record.tags
  tags := 0
  banks := ((List.range banks.length).zip banks).map fun (i, b) => freshBank (s.freeCtr + 400 + 16 * team + i) b
  accs := []
  remoteFailures := 0
  outstanding := 0
  groups := g.record.groups
  area := area
  placedAt := s.time.toNat
  sliceStart := s.time.toNat
  requestedAt := s.time.toNat
  stopped := none
  ages := []

/-- R401, R402: one team placed on a core where it fits. -/
def placeTeam (s : State) (g : Grid) (core team : Nat) : State :=
  let r := g.record
  let slots := (freeSlots s core g.part).take r.groups
  let t := freshTeam s g core team ((freeAreas s g.part).headD 0) ((freeTags s core g.part r.tags).getD 0)
    ((freeBanks s core g.part).take r.banks)
  { s with
    teams := s.teams ++ [t]
    groups := s.groups ++ (List.range slots.length).map fun i => freshGroup s g core (slots.getD i 0) team i }

/-- R402: clusters placed one after the other on the cores listed, each where all of it fits. [log DEDUCED 120] -/
def placeClusters (part : Nat) (g : Grid) : Nat → Nat → List Nat → State → Option State
  | 0, _, _, s => some s
  | n + 1, team, cores, s =>
    let k := g.record.cw * g.record.chh
    let cs := cores.take k
    if rectangle (cs.headD 0) g.record.cw g.record.chh = some cs && cs.all (fun c => takesTeam s g c) &&
        areasFor s part k then
      let s := ((List.range k).zip cs).foldl (fun s (i, c) => placeTeam s g c (team + i)) s
      placeClusters part g n (team + k) (cores.drop k) s
    else none

/-! ## The order of placement (R402, R414) -/

/-- The first cores found, in their order, at which clusters can be put one after the other, each by its first team; and
the state with them there. -/
def assign (put : Nat → Nat → State → Option State) : List Nat → State → Option (List Nat × State)
  | [], s => some ([], s)
  | c :: t, s => (List.range Config.cores).findSome? fun b =>
      (put c b s).bind fun s => (assign put t s).map fun x => (b :: x.1, x.2)

/-- The first teams of the clusters of a grid that are placed next: one, or all of a co-resident grid. -/
def nextClusters (g : Grid) : List Nat :=
  let k := g.record.cw * g.record.chh
  (List.range (if g.record.cores then g.record.teams / k else 1)).map fun i => g.nextTeam + k * i

/-- A cluster of a grid placed in the rectangle from a core. -/
def putCluster (g : Grid) (team base : Nat) (s : State) : Option State :=
  (rectangle base g.record.cw g.record.chh).bind fun cs => placeClusters g.part g 1 team cs s

/-- R402: where the next clusters of a grid go: the manual leaves the choice of cores open, and the first rectangles that
hold them all are taken, by their north-west cores. [log DEDUCED 120] -/
def placementOf (s : State) (g : Grid) : Option (List Nat) :=
  (assign (putCluster g) (nextClusters g) s).map fun x =>
    x.1.flatMap fun b => (rectangle b g.record.cw g.record.chh).getD []

/-- The next clusters of a grid fit now. -/
def fitsSomewhere (s : State) (g : Grid) : Bool := (placementOf s g).isSome

/-- R402: no other grid or saved team comes first: none of the class accepted earlier; no saved team of a higher class
than the grid's; no such grid that would fit. [log DEDUCED 82] -/
def placeTurn (s : State) (g : Grid) : Bool :=
  ((waitingGrids s g.part).all fun x => x.gid == g.gid || !x.before g ||
    (x.record.cls != g.record.cls && !fitsSomewhere s x)) &&
  ((savedTeams s g.part).all fun t =>
    let c := classOfGrid s t.gid
    g.record.cls < c || (c == g.record.cls && decide (g.gid < t.gid)))

/-- R399, R402, R421: a partition may place teams. -/
def mayPlace (s : State) (part : Nat) : Bool :=
  part < 12 && partEnabled s part && !(psched s part).evicted && !shareOverlaps s part

/-- TEAM_PLACE: the next cluster of a grid, or all of a co-resident one, on the cores the device chose. -/
def execTeamPlace (gid : Nat) (cores : List Nat) (s : State) : Host.Outcome State Fault Refusal :=
  eventNext (match gridOf s gid with
    | none => s
    | some g =>
      let k := g.record.cw * g.record.chh
      let n := if g.record.cores then g.record.teams / k else 1
      if g.phase = .placing && g.nextTeam < g.record.teams && mayPlace s g.part && placeTurn s g &&
          cores.length = n * k then
        match placeClusters g.part g n g.nextTeam cores s with
        | some s => modGrid s gid fun g => { g with nextTeam := g.nextTeam + n * k, rect := [] }
        | none => s
      else s)

/-! ## The end of a team (R402) -/

/-- R402: everything a team has begun has ended. -/
def teamOver (s : State) (t : Team) : Bool :=
  t.phase != .saved && t.phase != .removed && !(s.groups.any fun g => g.gid == t.gid && g.team == t.team) &&
    !(s.cmds.any fun k => k.gid == t.gid && k.team == t.team) && remoteQuiet s t.gid t.team

/-- R467: a pre-empted team is gone from its core. -/
def tapPreempted (s : State) (t : Team) (mode : Nat) : State :=
  tap s (8 * t.core + 2) 0 t.part (mode + 2 ^ 16 * ((s.time.toNat - t.requestedAt) / 1000))

/-- TEAM_END: its share and area are free; barriers look again; the last team ends the grid. -/
def execTeamEnd (gid team : Nat) (s : State) : Host.Outcome State Fault Refusal :=
  .next (match teamOf s gid team with
    | none => s
    | some t =>
      if teamOver s t then
        let s := if t.phase = .draining then tapPreempted s t 0 else s
        let s := { s with teams := s.teams.filter fun x => !Team.isNamed gid team x }
        let s := recheckBars (modGrid s gid fun g => { g with endedTeams := g.endedTeams + 1 }) gid
        match gridOf s gid with
        | some g => if g.endedTeams = g.record.teams then endGrid s gid 0 0 else s
        | none => s
      else if s.groups.any fun g => g.gid == gid && g.team == team then s
      else hastenTeam s gid team)

end Sys2Proof.Machine
end

