-- ==== Sys2Proof/Machine/Context.lean ====
section
/-! DEFINITION. Machine/Context.lean: saving and restoring a team (R58 to R62, R324, R411 to R414). -/
namespace Sys2Proof.Machine

/-! ## The records (R58 to R61, R324, R413) -/

/-- Zero bytes. -/
def zeros (n : Nat) : List Byte := List.replicate n 0

/-- The words of a register, lane by lane. -/
def regBytes (r : VReg) : List Byte := r.lane.toList.flatMap fun w => bytesOfNat 4 w.toNat

/-- R25: the blocks a group holds, ascending. -/
def heldList (g : Group) : List Nat := (List.range 11).filter fun k => g.held.getLsbD k

/-- R60: the tag byte of a register. -/
def tagByte (g : Group) (n : Nat) : Byte := if heldReg g n then (tagOf g n).setWidth 8 else 0

/-- R60: a group record. -/
def groupBytes (g : Group) : List Byte :=
  let blocks := heldList g
  (List.range 32).flatMap (fun n => regBytes (vreg g n)) ++
    (List.range 120).map (tagByte g) ++ zeros 8 ++
    g.s.toList.flatMap (fun x => bytesOfNat 8 x.toNat) ++
    g.q.toList.flatMap (fun x => bytesOfNat 4 x.toNat) ++
    g.lst.toList.map (fun x => x.setWidth 8) ++
    bytesOfNat 8 g.xi.toNat ++ bytesOfNat 8 g.ctl.toNat ++ bytesOfNat 8 g.held.toNat ++
    bytesOfNat 8 g.parked.length ++ zeros 32 ++
    g.splits.toList.flatMap (fun p => splitBytes p.arch) ++
    blocks.flatMap (fun k => (List.range 8).flatMap fun i => regBytes (vreg g (32 + 8 * k + i))) ++
    zeros (1024 * (11 - blocks.length)) ++
    g.parked.flatMap (fun p => splitBytes p.arch) ++ zeros (2048 - 64 * g.parked.length)

/-- R51: the accumulators bound to a team, as a mask. -/
def bindMask (t : Team) : Nat := t.accs.foldl (fun m a => m + 2 ^ a.num) 0

/-- R59: a team record. -/
def teamBytes (s : State) (t : Team) : List Byte :=
  (List.range 16).flatMap (fun n => bytesOfNat 8 (wApply t.wq n s.clk.toNat (vget t.w n 0)).toNat) ++
    t.g.toList.flatMap guardBytes ++
    bytesOfNat 8 ((if t.tagCount = 0 then 0 else t.tagFirst) + 256 * t.tagCount) ++
    bytesOfNat 8 t.tags.toNat ++ bytesOfNat 8 (bindMask t) ++ zeros (0x1000 - 0x298)

/-- R324: a bank state word. -/
def bankWord (b : Bank) : Nat := b.mode.toNat + 2 ^ 8 * b.rd + 2 ^ 24 * b.wr + 2 ^ 40 * b.count

/-- R413: a saved bank. -/
def bankImage (b : Bank) : List Byte := bytesOfNat 8 (bankWord b) ++ zeros 56 ++ bankBytes b 0 65536

/-- R413: the queued commands, one record of 64 bytes each, whose contents are the device's own. [log DEDUCED 83] -/
def queueBytes (s : State) (t : Team) : List Byte :=
  let ks := s.cmds.filter fun k => k.gid == t.gid && k.team == t.team && k.phase == .queued
  ks.flatMap (fun k => bytesOfNat 8 (k.cid + 1) ++ zeros 56) ++ zeros (4096 - 64 * ks.length)

/-- R413: where the parts after the group records begin. -/
def contextRest (t : Team) : Nat := 0x1000 + t.groups * 0x4800

/-- R413: a team's context written to its area. -/
def writeContext (s : State) (t : Team) : State :=
  let base := areaBase s t.part t.area
  let gs := s.groups.filter fun g => g.gid == t.gid && g.team == t.team
  let s' := writeBytes s base (teamBytes s t)
  let s' := gs.foldl (fun s g => writeBytes s (groupBase s t g.grpid) (groupBytes g)) s'
  let s' := (List.range t.groups).foldl (fun s k =>
    if gs.any fun g => g.grpid == k then s else writeBytes s (groupBase s t k) (zeros 0x4800)) s'
  writeBytes s' (base + contextRest t)
    (queueBytes s t ++ t.accs.flatMap (fun a => imageBytes a none a.ctl a.fmt) ++ t.banks.flatMap bankImage)

/-! ## Saving (R411 to R413) -/

/-- The groups of a team. -/
def groupsOfTeam (s : State) (t : Team) : List Group := s.groups.filter fun g => g.gid == t.gid && g.team == t.team

/-- R411: no split of the team is within a chain, nor about to issue. [log DEDUCED 80] -/
def atBoundary (s : State) (t : Team) : Bool :=
  (groupsOfTeam s t).all fun g => g.splits.toList.all (fun p => p.chain == 0) &&
    !(s.turn.any fun i => i.core == g.core && i.gslot == g.gslot)

/-- R412: started commands have completed, and no bank is changing its mode. -/
def commandsIdle (s : State) (t : Team) : Bool :=
  !(s.cmds.any fun k => k.gid == t.gid && k.team == t.team && k.phase != .queued) && t.banks.all fun b => b.target.isNone

/-- R412: the team's outstanding accesses have completed. -/
def accessesIdle (s : State) (t : Team) : Bool :=
  remoteQuiet s t.gid t.team && (groupsOfTeam s t).all fun g =>
    !(s.reqs.any (Req.blocks g.core g.gslot (BitVec.allOnes 32))) &&
    !(s.reqs.any fun r => match r.kind with
      | .desc c k _ => c == g.core && k == g.gslot
      | .load _ _ _ _ _ _ _ => false
      | .loadS _ _ _ _ _ _ => false
      | .store _ _ _ => false
      | .atomic _ _ _ _ _ _ _ _ _ => false
      | .multicast _ => false
      | .frag => false
      | .token _ _ _ _ => false
      | .cmd _ _ => false) &&
    !(s.ticks.any fun k => k.core == g.core && k.gslot == g.gslot)

/-- R267, R412: a discarded group: its region buffer dropped, its splits at the region's restart address. [log
DEDUCED 85] -/
def discardGroup (g : Group) : Group :=
  match g.region with
  | none => g
  | some r =>
    let back (p : Split) : Split :=
      if p.live then { p with arch := { p.arch with pc := r.restart, state := .ready }, waitsIn := none } else p
    { g with region := none, splits := g.splits.map back }

/-- R406: the ages of a team's splits, which stand still while it is saved, and the cycles of their last issues. -/
def agesOf (s : State) (t : Team) : List (Nat × Mask × Nat × Option Nat) :=
  (groupsOfTeam s t).flatMap fun g => ((placesOf g).map (splitIn g)).filter Split.live |>.map fun p =>
    (g.grpid, p.arch.mask, ageOf s.time.toNat p.since p.idle, p.lastIssue)

/-- The core's part of a saved team is free. -/
def vacate (s : State) (t : Team) : State :=
  let ages := agesOf s t
  let s := (groupsOfTeam s t).foldl (fun s g => endGroup s g.core g.gslot) s
  let mine (d : DescRead) : Bool := (groupsOfTeam s t).any fun g => g.core == d.core && g.gslot == d.gslot
  modTeam { s with descs := s.descs.filter fun d => !mine d } t.gid t.team fun t =>
    { t with phase := .saved, banks := [], accs := [], wq := [], ages := ages }

/-- R412: a team's save, or discard, ends: its context is written and its core space is free. -/
def saveTeam (s : State) (t : Team) (mode : PreMode) : State :=
  let s := if mode = .discard then
      { s with groups := modify (fun g => g.gid == t.gid && g.team == t.team) discardGroup s.groups }
    else s
  tapPreempted (vacate (writeContext s t) t) t (if mode = .discard then 2 else 1)

/-- R412: the open regions of a team commit, as far as they can. -/
def commitTeam (s : State) (t : Team) : State := (groupsOfTeam s t).foldl commitRegion s

/-- R410: the teams that leave with a team: its cluster, or its whole co-resident grid. -/
def companions (s : State) (g : Grid) (team : Nat) : List Team :=
  let k := g.record.cw * g.record.chh
  s.teams.filter fun t => t.gid == g.gid && (g.record.cores || t.team / k == team / k)

/-- R320, R410: the companions of a team that are being saved with it. -/
def savedWith (s : State) (t : Team) : List Team :=
  match gridOf s t.gid with
  | none => [t]
  | some g => (companions s g t.team).filter fun x => match x.phase with
      | .saving _ => true
      | .running => false
      | .draining => false
      | .saved => false
      | .removed => false

/-- CONTEXT_WRITTEN: a team and its companions, once what the mode waits for has ended for all of them; a save first
commits their regions and drains their lines. -/
def execContextWritten (gid team : Nat) (s : State) : Host.Outcome State Fault Refusal :=
  eventNext (match teamOf s gid team with
    | none => s
    | some t =>
      match t.phase with
      | .running => s
      | .draining => s
      | .saved => s
      | .removed => s
      | .saving mode =>
        let ts := savedWith s t
        if !ts.all (fun x => atBoundary s x && commandsIdle s x) then s
        else if mode = .discard then ts.foldl (fun s x => saveTeam s x mode) s
        else if ts.any fun x => (groupsOfTeam s x).any fun g => g.region.isSome then ts.foldl commitTeam s
        else if ts.all (accessesIdle s) then ts.foldl (fun s x => saveTeam s x mode) s
        else ts.foldl (fun s x => hastenTeam s x.gid x.team) s)

/-! ## Reading records back (R62) -/

/-- R230: a link entry of a kind there is. -/
def linkOk (e : Dword) : Bool :=
  e == noRejoin || (e.extractLsb' 56 7 == 0#7 && (!e.getLsbD 63 || e.getLsbD 0))

/-- R61: the state of a code. -/
def stateOfCode (n : Nat) : Option SplitState :=
  if n = 0 then some .free
  else if n = 1 then some .ready
  else if n = 2 then some .atRejoin
  else if n = 3 then some .atBarrier
  else if n = 4 then some .onEvent
  else if n = 5 then some .onRegacq
  else none

/-- R61: a split record of 64 bytes; none where it is malformed. [log DEDUCED 85] -/
def splitOf (x : Nat) : Option SplitRec :=
  let f (lo n : Nat) : Nat := x / 2 ^ lo % 2 ^ n
  let depth := f 163 3
  let spare : Bool := depth ≤ 4 && f 166 26 = 0 && f 448 64 = 0 && f (192 + 64 * depth) (64 * (4 - depth)) = 0
  match stateOfCode (f 160 3) with
  | none => none
  | some .free => if spare then some Split.free.arch else none
  | some st =>
    let link := (List.range depth).map fun i => BitVec.ofNat 64 (f (192 + 64 * i) 64)
    let rejoin := BitVec.ofNat 64 (f 64 64)
    if spare && f 0 1 = 0 && f 56 8 = 0 && f 128 32 ≠ 0 && link.all linkOk &&
        (rejoin == noRejoin || (!rejoin.getLsbD 0 && rejoin.extractLsb' 56 8 == 0#8)) then
      some ⟨BitVec.ofNat 64 (f 0 64), rejoin, BitVec.ofNat 32 (f 128 32), st, link⟩
    else none

/-- A waiter of a barrier names a split. -/
def waitsListed (s : State) (t : Team) (grpid : Nat) (m : Mask) : Bool :=
  let hit (w : BarWaiter) : Bool := w.gid == t.gid && w.team == t.team && w.grpid == grpid && w.lanes &&& m != 0
  s.barriers.any fun b => b.waiting.any hit || b.held.any hit || b.next.any fun x => hit x.2.1

/-- The state a split restarts in: one that waited for an engine, a tag, memory or a block issues its instruction
again; one whose barrier has completed goes on. [log DEDUCED 83] -/
def restartState (s : State) (t : Team) (grpid : Nat) (p : SplitRec) : SplitRec :=
  match p.state with
  | .free => p
  | .ready => p
  | .atRejoin => p
  | .atBarrier => if waitsListed s t grpid p.mask then p else { p with state := .ready }
  | .onEvent => { p with state := .ready }
  | .onRegacq => { p with state := .ready }

/-- Every byte of a range is zero. -/
def zeroAt (s : State) (pa n : Nat) : Bool := (bytesAt s.mem pa n).all fun b => b == 0

/-- The n elements of size k at an address. -/
def elemsAt (s : State) (pa k n : Nat) : List Nat := (List.range n).map fun i => readNat s (pa + k * i) k

/-- R60: where the record holds register n, whose block is held. -/
def regPa (pa : Nat) (held : BitVec 11) (n : Nat) : Nat :=
  if n < 32 then pa + 128 * n
  else
    let k := (n - 32) / 8
    pa + 0x1400 + 1024 * ((List.range k).filter fun j => held.getLsbD j).length + 128 * ((n - 32) % 8)

/-- R60: a group record holds nothing that R62 rejects: the splits of an entry, and the parked ones, follow. [log
DEDUCED 85] -/
def groupOk (s : State) (pa : Nat) : Bool :=
  let held := readNat s (pa + 0x12D0) 8
  let parked := readNat s (pa + 0x12D8) 8
  let blocks := ((List.range 11).filter fun k => held / 2 ^ k % 2 == 1).length
  zeroAt s (pa + 0x1078) 8 && readNat s (pa + 0x12C0) 8 ≤ 119 && readNat s (pa + 0x12C8) 8 < 4 && held < 2 ^ 11 &&
    parked ≤ 28 && zeroAt s (pa + 0x12E0) 32 && zeroAt s (pa + 0x1400 + 1024 * blocks) (1024 * (11 - blocks)) &&
    zeroAt s (pa + 0x4000 + 64 * parked) (2048 - 64 * parked) &&
    (elemsAt s (pa + 0x12A0) 1 32).all (fun x => x < 32) &&
    ((List.range 120).all fun n =>
      let t := readNat s (pa + 0x1000 + n) 1
      if n < 32 || held / 2 ^ ((n - 32) / 8) % 2 == 1 then t < 64 && tagOk (BitVec.ofNat 6 t) else t == 0) &&
    ((elemsAt s (pa + 0x1300) 64 4).all fun x => (splitOf x).isSome) &&
    ((elemsAt s (pa + 0x4000) 64 parked).all fun x => match splitOf x with
      | some p => p.state != .free
      | none => false)

/-- R406, R414: a split restored: one that was Ready goes on from the age it had. -/
def restoredSplit (s : State) (t : Team) (grpid : Nat) (x : Nat) : Split :=
  let was := (splitOf x).getD Split.free.arch
  let p := restartState s t grpid was
  let held := t.ages.find? fun a => a.1 == grpid && a.2.1 == p.mask
  let age := if was.state = .ready then (held.map fun a => a.2.2.1).getD 0 else 0
  if p.state = .free then Split.free
  else ⟨p, 0, [], held.bind fun a => a.2.2.2, s.time.toNat - age, none, none, false, none, none⟩

/-- R60, R62, R414: a group read back; none where no split of it is left. [log DEDUCED 84] -/
def restoreGroup (s : State) (t : Team) (core gslot grpid : Nat) : Option Group :=
  let pa := groupBase s t grpid
  let held := BitVec.ofNat 11 (readNat s (pa + 0x12D0) 8)
  let reg (n : Nat) : VReg :=
    if n < 32 || held.getLsbD ((n - 32) / 8) then
      ⟨BitVec.ofNat 6 (readNat s (pa + 0x1000 + n) 1),
        lanesOf fun l => BitVec.ofNat 32 (readNat s (regPa pa held n + 4 * l) 4)⟩
    else VReg.zero
  let parked := (elemsAt s (pa + 0x4000) 64 (readNat s (pa + 0x12D8) 8)).map fun x =>
    (restoredSplit s t grpid x).parked
  let g : Group :=
    { core := core
      gslot := gslot
      gid := t.gid
      team := t.team
      grpid := grpid
      v := Vector.ofFn fun n : Fin 120 => reg n.val
      held := held
      xi := BitVec.ofNat 7 (readNat s (pa + 0x12C0) 8)
      q := Vector.ofFn fun i : Fin 8 => BitVec.ofNat 32 (readNat s (pa + 0x1280 + 4 * i.val) 4)
      s := Vector.ofFn fun i : Fin 64 => read64 s (pa + 0x1080 + 8 * i.val)
      lst := Vector.ofFn fun i : Fin 32 => BitVec.ofNat 5 (readNat s (pa + 0x12A0 + i.val) 1)
      ctl := read64 s (pa + 0x12C8)
      hz := s.time
      splits := Vector.ofFn fun i : Fin 4 => restoredSplit s t grpid (readNat s (pa + 0x1300 + 64 * i.val) 64)
      parked := parked
      prio := false
      region := none
      rotated := s.clk.toNat }
  if liveSplits g = 0 then none else some g

/-- R310: a guard slot of a team record, its counts with it. -/
def guardOfBytes (bs : List Byte) : GuardSlot :=
  { guardImage bs with
    issued := BitVec.ofNat 32 (numAt bs 32 4)
    done := BitVec.ofNat 32 (numAt bs 36 4)
    fcause := BitVec.ofNat 8 (numAt bs 40 1)
    fcount := BitVec.ofNat 32 (numAt bs 41 4) }

/-- R59: a team record holds nothing that R62 rejects. -/
def teamOk (s : State) (t : Team) : Bool :=
  let pa := areaBase s t.part t.area
  let range := readNat s (pa + 0x280) 8
  zeroAt s (pa + 0x298) (0x1000 - 0x298) && readNat s (pa + 0x290) 8 < 2 ^ 16 &&
    range == (if t.tagCount = 0 then 0 else t.tagFirst) + 256 * t.tagCount &&
    ((List.range 8).all fun i =>
      let bs := bytesAt s.mem (pa + 0x80 + 64 * i) 64
      guardBytes (guardOfBytes bs) == bs)

/-- R59: the accumulators a saved team has bound. -/
def savedAccs (s : State) (t : Team) : List Nat :=
  (List.range 16).filter fun n => readNat s (areaBase s t.part t.area + 0x290) 8 / 2 ^ n % 2 == 1

/-- R413: where a saved accumulator stands, and where the banks begin. -/
def accPa (s : State) (t : Team) (i : Nat) : Nat := areaBase s t.part t.area + contextRest t + 0x1000 + 0x40040 * i

/-- R304, R413: a saved accumulator read back. -/
def accOfImage (s : State) (n pa : Nat) : Acc :=
  let ctl := read64 s pa
  let aux := read64 s (pa + 8)
  ⟨n, imageCtl ctl, aux.setWidth 6, ctl.getLsbD 52, ctl.getLsbD 53, aux.getLsbD 6, aux.extractLsb' 16 16,
    Vector.ofFn fun w : Fin 16 => Vector.ofFn fun e : Fin 4096 =>
      BitVec.ofNat 32 (readNat s (pa + 0x40 + 4 * (16 * e.val + w.val)) 4)⟩

/-- R110, R297, R413: the header of a saved accumulator is one an accumulator may have. -/
def accImageOk (s : State) (pa : Nat) : Bool :=
  let ctl := read64 s pa
  let aux := read64 s (pa + 8)
  let base := accBase ctl
  zeroAt s (pa + 16) 48 && bits ctl 55 9 == 0 && (base == 0 || base == 3 || base == 6) && accC ctl ≤ 2 ^ 16 &&
    bits aux 7 9 == 0 && bits aux 32 32 == 0 && (base == 0 || (1 ≤ bits aux 0 6 && bits aux 0 6 ≤ 3))

/-- R324: a saved bank read back; a cache-mode bank has no valid line. -/
def bankOfImage (s : State) (phys pa : Nat) : Bank :=
  let w := read64 s pa
  let mode := w.setWidth 2
  ⟨phys, mode, none, bits w 8 16, bits w 24 16, bits w 40 17, none,
    if mode = 0#2 then [] else
      ((List.range 65536).zip (bytesAt s.mem (pa + 0x40) 65536)).filter fun x => x.2 != 0,
    []⟩

/-- R324: a bank state word that a restore takes. -/
def bankOk (s : State) (pa : Nat) : Bool :=
  let w := read64 s pa
  w.setWidth 2 != 3#2 && bits w 2 6 == 0 && bits w 40 17 ≤ 65536 && bits w 57 7 == 0 && zeroAt s (pa + 8) 56

/-! ## Restoring (R400, R402, R414) -/

/-- R62: a saved context holds no malformed record. -/
def contextOk (s : State) (t : Team) (banks : Nat) : Bool :=
  let accs := savedAccs s t
  teamOk s t && ((List.range t.groups).all fun k =>
      zeroAt s (groupBase s t k) 0x4800 || groupOk s (groupBase s t k)) &&
    ((List.range accs.length).all fun i => accImageOk s (accPa s t i)) &&
    ((List.range banks).all fun i => bankOk s (accPa s t accs.length + 0x10040 * i))

/-- R401, R414: register blocks a saved team needs. -/
def savedBlocks (s : State) (t : Team) (r : LaunchRec) : Nat :=
  ((List.range t.groups).map fun k =>
    let held := readNat s (groupBase s t k + 0x12D0) 8
    max ((r.regs - 32) / 8) (((List.range 11).filter fun j => held / 2 ^ j % 2 == 1).length)).sum

/-- R400, R401: a saved team fits on a core now, its accumulators and tags free there. -/
def fitsBack (s : State) (t : Team) (core : Nat) (r : LaunchRec) : Bool :=
  core < Config.cores && !fenced s core && t.groups ≤ (freeSlots s core t.part).length &&
    savedBlocks s t r ≤ freeBlocks s core t.part && r.banks ≤ (freeBanks s core t.part).length &&
    r.accs ≤ freeAccs s core t.part && (t.tagCount == 0 || tagsFree s core t.tagFirst t.tagCount) &&
    !((placedOn s core).any fun x => x.accs.any fun a => (savedAccs s t).contains a.num)

/-- R62, R318, R414: a team read back onto a core; its queued commands go there with it. [log DEDUCED 84] -/
def restoreTeam (s : State) (t : Team) (core : Nat) (r : LaunchRec) : State :=
  let pa := areaBase s t.part t.area
  let accs := savedAccs s t
  let phys := (freeBanks s core t.part).take r.banks
  let slots := freeSlots s core t.part
  let gs := (List.range t.groups).filterMap fun k => restoreGroup s t core (slots.getD k 0) k
  let t' : Team :=
    { t with
      core := core
      phase := .running
      w := Vector.ofFn fun i : Fin 16 => read64 s (pa + 8 * i.val)
      wq := []
      g := Vector.ofFn fun i : Fin 8 => guardOfBytes (bytesAt s.mem (pa + 0x80 + 64 * i.val) 64)
      tags := read64 s (pa + 0x288)
      accs := (List.range accs.length).map fun i => accOfImage s (accs.getD i 0) (accPa s t i)
      banks := (List.range phys.length).map fun i =>
        bankOfImage s (phys.getD i 0) (accPa s t accs.length + 0x10040 * i)
      sliceStart := s.time.toNat
      ages := [] }
  { modTeam s t.gid t.team (fun _ => t') with
    groups := s.groups ++ gs
    cmds := modify (fun k => k.gid == t.gid && k.team == t.team) (fun k => { k with core := core }) s.cmds }

/-- R414: a saved cluster, of which some teams may have ended, back in the rectangle from a core; none where that does not
take it. -/
def restoreCluster (s : State) (g : Grid) (first base : Nat) : Option State :=
  let k := g.record.cw * g.record.chh
  match rectangle base g.record.cw g.record.chh with
  | none => none
  | some cs =>
    ((List.range k).zip cs).foldl (fun s? (i, c) =>
      match s? with
      | none => none
      | some s =>
        match teamOf s g.gid (first + i) with
        | none => some s
        | some t => if t.phase = .saved && fitsBack s t c g.record && !heldBack s g c then some (restoreTeam s t c g.record) else none)
      (some s)

/-- R410, R414: the clusters that are restored with the one from a team on, by their first teams, that one first: of a
co-resident grid all that are left. -/
def clustersWith (s : State) (g : Grid) (first : Nat) : List Nat :=
  let k := g.record.cw * g.record.chh
  first :: (if g.record.cores then
      ((s.teams.filter fun x => x.gid == g.gid && x.team / k * k != first).map fun x => x.team / k * k).eraseDups
    else [])

/-- R410, R414: a cluster back in the rectangle from a core, with those restored with it in the first rectangles that take
them all. -/
def restoreAll (s : State) (g : Grid) (first base : Nat) : Option State :=
  (restoreCluster s g first base).bind fun s' =>
    (assign (fun c b s => restoreCluster s g c b) ((clustersWith s g first).drop 1) s').map Prod.snd

/-- R414: no waiting grid or saved team of the partition comes before a saved team. [log DEDUCED 82] -/
def restoreTurn (s : State) (t : Team) : Bool :=
  let cls := classOfGrid s t.gid
  let earlier (c gid : Nat) : Bool := c < cls || (c == cls && decide (gid < t.gid))
  !((waitingGrids s t.part).any fun g => earlier g.record.cls g.gid) &&
    !((savedTeams s t.part).any fun x => earlier (classOfGrid s x.gid) x.gid)

/-- TEAM_RESTORE: the team with its cluster, from a core, or with all of a co-resident grid; a malformed record fails
the grid with RESTORE. [log DEDUCED 82] -/
def execTeamRestore (gid team core : Nat) (s : State) : Host.Outcome State Fault Refusal :=
  eventNext (match gridOf s gid, teamOf s gid team with
    | some g, some t =>
      let k := g.record.cw * g.record.chh
      let first := team / k * k
      let members := companions s g team
      if t.phase = .saved && members.all (fun x => x.phase == .saved) && mayPlace s t.part && restoreTurn s t then
        if members.all fun x => contextOk s x g.record.banks then
          match restoreAll s g first core with
          | none => s
          | some s' => modGrid s' gid fun g => { g with rect := [] }
        else failGrid s gid 5
      else s
    | _, _ => s)

end Sys2Proof.Machine
end

