-- ==== Sys2Proof/Machine/Control.lean ====
section
/-! DEFINITION. Machine/Control.lean: the control transfers, `yld`, `exit` and `kill` (R224 to R237). -/
namespace Sys2Proof.Machine

/-- R224: an address a signed count of halfwords from the first word of the instruction. -/
def halfwordsFrom (c : Ctx) (off : BitVec 21) : Dword := c.cur.pcf + (off.signExtend 64 <<< 1)

/-- R224, R230: the rejoin address of an immediate pfx. No rule checks it, and a link entry holds bits 55:0 of an address:
it is taken modulo 2^56. [log DESIGN CHOICE 132] -/
def rejoinOf (c : Ctx) (p : Pfx) : Dword :=
  halfwordsFrom c ((p.immediate.getD 0).setWidth 21) &&& 0x00FF_FFFF_FFFF_FFFE#64

/-- R226: a uniform condition over the split's mask: taken, or not, or the non-uniform-condition trap. [log DEDUCED
28] -/
def uniformGuard (c : Ctx) (p : Pfx) (f : WordF) : Ex Bool :=
  let T := activeMask c p.operand f.guard
  if T = c.mask then .ok true else if T = 0 then .ok false else trapOn causeNonUniform T

/-- BRU (R226). -/
def execBru (pfx : Pfx) (guard : BitVec 2) (off : BitVec 21) (s : State) : Host.Outcome State Fault Refusal :=
  runCore (.bru pfx guard off) s fun c p f _ => do
    if ← uniformGuard c p f then
      let t := halfwordsFrom c off
      checkTargets (laneTargets c.mask t)
      return transfer s c t
    else return retire s c

/-- CALL (R147, R226, R227): a full link stack stands before a non-uniform condition. [log DEDUCED 28, 37] -/
def execCall (pfx : Pfx) (guard : BitVec 2) (off : BitVec 21) (s : State) : Host.Outcome State Fault Refusal :=
  runCore (.call pfx guard off) s fun c p f _ => do
    need (c.p.arch.link.length < 4 || activeMask c p.operand f.guard == 0) causeRegisterBounds c.mask
    if ← uniformGuard c p f then
      let t := halfwordsFrom c off
      checkTargets (laneTargets c.mask t)
      committed s c fun s c => .ok (modGroup (transfer s c t) c.cur.who.core c.cur.who.gslot fun g =>
        let p := splitAt g c.cur.who.entry
        putSplit g c.cur.who.entry { p with arch := { p.arch with
          link := p.arch.link ++ [c.cur.next &&& 0x00FF_FFFF_FFFF_FFFE#64] } })
    else committed s c fun s c => .ok (retire s c)

/-- JMP (R227). -/
def execJmp (a : BitVec 7) (s : State) : Host.Outcome State Fault Refusal :=
  runCore (.jmp a) s fun c _ f _ => do
    let t := srcS s c f.a
    checkTargets (laneTargets c.mask t)
    committed s c fun s c => .ok (transfer s c t)

/-- R228: the entries ret pops, from the top down, to the call return, which is the last; none without one. -/
def popToCall : List Dword → Option (List Dword × Dword × List Dword)
  | [] => none
  | e :: below =>
    if isCallReturn e then some ([], e, below)
    else (popToCall below).map fun (popped, r, rest) => (e :: popped, r, rest)

/-- RET (R228). -/
def execRet (s : State) : Host.Outcome State Fault Refusal :=
  runCore .ret s fun c _ _ _ => do
    let top := c.p.arch.link.reverse
    -- a trap return met before a call return
    need (!(match top.find? fun e => isCallReturn e || isTrapReturn e with
      | some e => isTrapReturn e
      | none => false)) causeIllegalOperand c.mask
    match popToCall top with
    | none => trapOn causeRegisterBounds c.mask
    | some (popped, r, rest) =>
      committed s c fun s c =>
        let s := modGroup (transfer s c r) c.cur.who.core c.cur.who.gslot fun g =>
          let p := splitAt g c.cur.who.entry
          putSplit g c.cur.who.entry { p with arch := { p.arch with
            link := rest.reverse
            rejoin := match popped.getLast? with
              | some e => (savedRejoin e).getD p.arch.rejoin
              | none => p.arch.rejoin } }
        match groupAt s c.cur.who.core c.cur.who.gslot with
        | some g => .ok (putSettled s g)
        | none => .ok s

/-- BRD (R229). [log DEDUCED 37] -/
def execBrd (pfx : Pfx) (guard : BitVec 2) (off : BitVec 21) (s : State) : Host.Outcome State Fault Refusal :=
  runCore (.brd pfx guard off) s fun c p f _ => do
    let T := activeMask c p.operand f.guard
    let t := halfwordsFrom c off
    if T = 0 then committed s c fun s c => .ok (retire s c)
    else if T = c.mask then
      checkTargets (laneTargets T t)
      committed s c fun s c => .ok (transfer s c t)
    else
      let J := rejoinOf c p
      let link ← divergeLink c J
      checkTargets (laneTargets T t)
      committed s c fun s c => .ok (diverge s c J link (c.cur.next, c.mask &&& ~~~T) [(t, T)])

/-- R229: the lanes of jmpx by target, with the lanes that are not active at the next instruction, in ascending order
of lowest lane. -/
def jmpxClasses (next : Dword) (inactive : Mask) (targets : List (Nat × Dword)) : List (Dword × Mask) :=
  let lanesTo (t : Dword) : Mask := maskOf fun l => targets.any fun x => x.1 == l && x.2 == t
  let cs := (targets.map Prod.snd).eraseDups.map fun t => (t, lanesTo t)
  let cs := if inactive = 0 then cs else (next, inactive) :: cs
  (List.range 32).filterMap fun l => cs.find? fun x => lowestLane x.2 == l

/-- JMPX (R229): targets in a register pair of 32-bit integers, whose check ctl.fmm does not mask. -/
def execJmpx (pfx : Pfx) (guard : BitVec 2) (a : BitVec 7) (s : State) : Host.Outcome State Fault Refusal :=
  runCore (.jmpx pfx guard a) s fun c p f o => do
    let T := activeMask c p.operand f.guard
    need (heldSpan c.g o.a 2) causeRegisterBounds c.mask
    let targets := (lanesIn T).map fun l => (l, srcVal c true o.a l)
    let cs := jmpxClasses c.cur.next (c.mask &&& ~~~T) targets
    let J := rejoinOf c p
    let link ← if cs.length ≤ 1 then .ok [] else divergeLink c J
    need (match o.a with
      | .reg n => isInt32 (tagOf c.g n) && isInt32 (tagOf c.g (n + 1))
      | .none => true
      | .latch _ => true
      | .zero => true
      | .lane => true
      | .imm _ => true
      | .scalar _ => true) causeFormatMismatch T
    checkTargets targets
    committed s c fun s c =>
      match cs with
      | [] => .ok (retire s c)
      | [(t, _)] => .ok (transfer s c t)
      | keep :: others => .ok (diverge s c J link keep others)

/-- EXIT (R235), after the sticky report of R249. [log DEDUCED 38] -/
def execExit (pfx : Pfx) (guard : BitVec 2) (s : State) : Host.Outcome State Fault Refusal :=
  runCore (.exit pfx guard) s fun c p f _ =>
    let M := activeMask c p.operand f.guard
    committed s c fun s c =>
      if M = 0 then .ok (retire s c) else withReport s c M fun s => .ok (recheckBars (endLanes s c M) c.g.gid)

/-- KILL (R235). [log DEDUCED 38] -/
def execKill (pfx : Pfx) (guard : BitVec 2) (s : State) : Host.Outcome State Fault Refusal :=
  runCore (.kill pfx guard) s fun c p f _ =>
    let M := activeMask c p.operand f.guard
    committed s c fun s c => if M = 0 then .ok (retire s c) else .ok (recheckBars (endLanes s c M) c.g.gid)

/-- R236: the lanes of the Ready residents but for one entry. -/
def readyLanes (g : Group) (e : Nat) : Mask :=
  ((List.range 4).filter fun i => i != e && (splitAt g i).arch.state == .ready).foldl
    (fun m i => m ||| (splitAt g i).arch.mask) 0

/-- YLD (R236): the split waits for the other Ready residents to issue, and is parked for the most recently parked one
where there is one. -/
def execYld (s : State) : Host.Outcome State Fault Refusal :=
  runCore .yld s fun c _ _ _ =>
    committed s c fun s c =>
      let s := retire s c
      let e := c.cur.who.entry
      match groupAt s c.cur.who.core c.cur.who.gslot with
      | none => .ok s
      | some g =>
        let others := readyLanes g e
        let p := { splitAt g e with yielded := if others = 0 then none else some (s.clk.toNat, others) }
        match g.parked.getLast? with
        | some q => .ok (putSettled s { putSplit g e q.split with parked := g.parked.dropLast ++ [p.parked] })
        | none => .ok (putGroup s (putSplit g e p))

end Sys2Proof.Machine
end

