-- ==== Sys2Proof/Machine/Inbound.lean ====
section
/-! DEFINITION. Machine/Inbound.lean: what a device does with a request for one of its windows: the checks of R387 and
R388, the accesses themselves, and a fragment for a descriptor at home (R427, R428, R449, R452, R491). -/
namespace Sys2Proof.Machine

/-! ## Malformed packets (R428) -/

/-- R428: classes an opcode may have: requests, forwarded requests, responses. -/
def classAllowed (op : BitVec 8) (m : BitVec 2) : Bool :=
  if (1 ≤ op.toNat && op.toNat ≤ 7) || op == opSKIP then m == 0#2 || (m == 1#2 && (op == opFRAG || op == opMST))
  else 0x10 ≤ op.toNat && op.toNat ≤ 0x15 && m == 2#2

/-- R427, R428: the payload an opcode calls for. [log DEDUCED 91] -/
def payloadOk (p : Packet) : Bool :=
  let n := p.payload.length
  if p.opcode = opRD then n == 0 && 1 ≤ p.len.toNat && p.off.toNat % 256 + p.len.toNat ≤ 256
  else if p.opcode = opWR || p.opcode = opMST then n == 256
  else if p.opcode = opWRM then n == 288
  else if p.opcode = opATM then n == (if p.cause.toNat % 8 = 7 then 16 else 8) && p.cause.toNat < 32
  else if p.opcode = opFRAG then !fragMalformed p
  else if p.opcode = opTOKEN then n == 8 &&
    (let w := BitVec.ofNat 64 (natOfBytes p.payload)
     bits w 12 4 == 0 && bits w 40 24 == 0)
  else if p.opcode = opRDR then n ≤ 256
  else if p.opcode = opATR then n == 8
  else if p.opcode = opMACK then n == 320
  else if p.opcode = opSEQA || p.opcode = opSKIP then n == 4
  else n == 0

/-- R428: a packet with the opcode, in a class it may have. [log DEDUCED 91] -/
def wellFormedPacket (op : BitVec 8) (p : Packet) : Bool := p.opcode == op && classAllowed op p.mclass && payloadOk p

/-- R428, R487: a malformed packet is discarded and recorded. [log DEDUCED 91] -/
def discardPacket (s : State) (p : Packet) : State := errDev s ⟨9, 90, 0xFFFF, 0, p.off.toNat⟩

/-! ## The window check (R387, R388) -/

/-- R485: the first byte of a partition's entry for a window. -/
def windowEntry (s : State) (part : Nat) (win : BitVec 12) : Nat :=
  bits (pregs s part).iwtab 17 35 * 2 ^ 17 + 32 * win.toNat

/-- R387: the target partition of an access. -/
def windowPart (s : State) (win : BitVec 12) (ftid : BitVec 16) : Option Nat :=
  let valid (p : Nat) : Bool := partEnabled s p && (read64 s (windowEntry s p win)).getLsbD 0
  match (List.range 12).find? fun p => valid p && bits (read64 s (windowEntry s p win)) 16 16 == ftid.toNat with
  | some p => some p
  | none => (List.range 12).find? valid

/-- What an inbound access meets. -/
inductive Inbound where
  | ok (part pa : Nat)
  /-- its cause, the partition that records it, or none for the device queue, and the record -/
  | refused (cause : Nat) (part : Option Nat) (e : ErrRec)
  deriving DecidableEq, Repr

/-- R388: a window entry that breaks its table. -/
def windowBad (s : State) (e : Nat) : Bool :=
  let w := read64 s e
  bits w 2 14 != 0 || bits w 32 32 != 0 || (read64 s (e + 8)).toNat % 4096 != 0 || (read64 s (e + 16)).toNat % 4096 != 0 ||
    read64 s (e + 24) != 0

/-- R387, R388: an access at an offset of a window. -/
def inbound (s : State) (win : BitVec 12) (ftid : BitVec 16) (off : Nat) (write : Bool) : Inbound :=
  match windowPart s win ftid with
  | none => .refused 1 none ⟨2, 20, 0xFFFF, 0, off⟩
  | some p =>
    let e := windowEntry s p win
    let w := read64 s e
    let base := (read64 s (e + 8)).toNat
    let deny (event addr : Nat) : Inbound := .refused 2 (some p) ⟨2, event, 0xFFFF, 0, addr⟩
    if windowBad s e then deny 21 e
    else if bits w 16 16 ≠ ftid.toNat || (write && !w.getLsbD 1) || decide ((read64 s (e + 16)).toNat ≤ off) then
      deny 22 (base + off)
    else
      match stage2 s p (base + off) with
      | .missing => deny 23 (base + off)
      | .gone _ => deny 23 (base + off)
      | .ok pa w2 _ nr =>
        if inBivouac s pa then deny 25 (base + off)
        else if nr || (write && !w2) then deny 23 (base + off)
        else if !colourOk (pregs s p).ccm pa 4096 then deny 24 (base + off)
        else .ok p pa

/-- R387, R388: what is recorded of a refused access. -/
def recordRefusal (s : State) (part : Option Nat) (e : ErrRec) : State :=
  match part with
  | some p => errPart s p e
  | none => errDev s e

/-! ## Window accesses (R428) -/

/-- R489: the slice of an address, or of a neighbour in its line, is under test, so the request waits. [log DEDUCED
95] -/
def inboundBusy (s : State) (p : Packet) (write : Bool) : Bool :=
  match inbound s p.win p.ftid p.off.toNat write with
  | .ok _ pa => sliceBusy s pa
  | .refused _ _ _ => false

/-- A request to a window: refused with its cause (R388), or performed and answered. -/
def windowAccess (s : State) (p : Packet) (write : Bool) (k : State → Nat → Nat → State) : State :=
  match inbound s p.win p.ftid p.off.toNat write with
  | .refused cause part e => respond (recordRefusal s part e) p opNACK cause []
  | .ok part pa => k s part pa

/-- R491: a peer access of poisoned data is refused with cause 2, and recorded; any other goes on. [log DEDUCED 95] -/
def unlessPoisoned (s : State) (p : Packet) (part pa n : Nat) (k : State → State) : State :=
  if poisoned s pa n then respond (errParts s part (poisonErrs s 0 pa n)) p opNACK 2 [] else k s

/-- RD. -/
def doRead (s : State) (p : Packet) : State :=
  windowAccess s p false fun s part pa =>
    unlessPoisoned s p part pa p.len.toNat fun s => respond s p opRDR 0 (bytesAt s.mem pa p.len.toNat)

/-- WR. -/
def doWrite (s : State) (p : Packet) : State :=
  windowAccess s p true fun s _ pa => respond (writeBytes s pa p.payload) p opACK 0 []

/-- WRM: the bytes whose mask bit is 1. -/
def doWriteMasked (s : State) (p : Packet) : State :=
  windowAccess s p true fun s _ pa =>
    let m := natOfBytes (p.payload.take 32)
    let put (s : State) (x : Nat × Byte) : State := if m.testBit x.1 then writeBytes s (pa + x.1) [x.2] else s
    -- a word of which every byte is written is written whole, so that its poison clears (R491)
    let whole (s : State) (i : Nat) : State :=
      let bs := (p.payload.drop (32 + 8 * i)).take 8
      if m / 2 ^ (8 * i) % 256 = 255 then writeBytes s (pa + 8 * i) bs
      else ((List.range 8).zip bs).foldl (fun s x => put s (8 * i + x.1, x.2)) s
    respond ((List.range 32).foldl whole s) p opACK 0 []

/-- R427: the operation of an ATM. -/
def atmOpOf (c : Nat) : AtmOp :=
  match c with
  | 0 => .add
  | 1 => .min
  | 2 => .max
  | 3 => .and
  | 4 => .or
  | 5 => .xor
  | 6 => .xchg
  | _ => .cas

/-- ATM. -/
def doAtomic (s : State) (p : Packet) : State :=
  let c := p.cause.toNat
  let n := if c / 8 % 2 = 1 then 8 else 4
  windowAccess s p true fun s part pa =>
    unlessPoisoned s p part pa n fun s =>
      let old := readNat s pa n
      let y := natOfBytes (p.payload.take n)
      let z := natOfBytes ((p.payload.drop 8).take n)
      respond (writeNat s pa n (atmNew (atmOpOf (c % 8)) n (c / 16 % 2 == 1) old y z)) p opATR 0 (bytesOfNat 8 old)

/-! ## Fragments for this device (R449, R452) -/

/-- R272: the fragment's operation, form or format is not the descriptor's, so it has no place in its tree. [log
DEDUCED 94] -/
def fragDiffers (s : State) (f : Frag) : Bool :=
  let w := read64 s f.pa
  f.op != BitVec.ofNat 2 (bits w 0 2) || f.tile != w.getLsbD 14 || f.fmt != BitVec.ofNat 6 (bits w 8 6) ||
    f.n != bits (read64 s (f.pa + 8)) 0 35

/-- FRAG at the home device: checked as an inbound write of 64 B and by its descriptor id, then taken in and
acknowledged, or kept in its channel until the slice takes it. -/
def doFrag (s : State) (p : Packet) : State :=
  match inbound s p.win p.ftid p.off.toNat true with
  | .refused _ part e => respond (recordRefusal s part e) p opACK 0 []
  | .ok part pa =>
    let f := fragOf p part pa false
    let f := if fragDiffers s f && !f.format then { f with format := true } else f
    let (t, taken) := sliceTakes s f
    if taken then respond t p opACK 0 [] else { t with refused := t.refused ++ [⟨192, f, t.time.toNat, some p, none⟩] }

/-- R449: the partition a fragment on its way through belongs to: the one with its tenant identifier, 12 where there
is
none. [log DEDUCED 96] -/
def ftidPart (s : State) (ftid : BitVec 16) : Nat :=
  ((List.range 12).find? fun p => partEnabled s p && ftidOf s p == ftid).getD 12

/-- R449: a FRAG on its way through this device. -/
def passFrag (s : State) (p : Packet) : State :=
  let f := fragOf p (ftidPart s p.ftid) 0 true
  arriveSwitch s ⟨p.dst, p.ftid, labelId f.label⟩ f.part f (some p)

end Sys2Proof.Machine
end

