-- ==== Sys2Proof/Machine/Multicast.lean ====
section
/-! DEFINITION. Machine/Multicast.lean: `mst`, the multicast table, replication and the gathering of receipts (R275,
R276, R454 to R457). -/
namespace Sys2Proof.Machine

/-! ## The table (R454, R455) -/

/-- A loaded group. -/
def mcGroup (s : State) (n : Nat) : Option McGroup := s.mcGroups.find? fun g => g.group == n

/-- R454: the members of a list of n entries at an address; none when an entry has a reserved bit. -/
def mcMembers (s : State) (list n : Nat) : Option (List (BitVec 14 × BitVec 12)) :=
  (List.range n).mapM fun m =>
    let e := read64 s (list + 8 * m)
    if bits e 14 2 ≠ 0 || bits e 28 36 ≠ 0 then none else some (BitVec.ofNat 14 (bits e 0 14), BitVec.ofNat 12 (bits e 16 12))

/-- R454: what an entry of the table gives; none when it breaks the table. -/
def mcEntry (s : State) (n a : Nat) : Option McGroup :=
  let w := read64 s a
  let list := (read64 s (a + 8)).toNat
  let size := (read64 s (a + 16)).toNat
  let record := (read64 s (a + 24)).toNat
  let part := bits w 1 4
  let count := bits w 6 10
  if w.getLsbD 5 || bits w 16 48 ≠ 0 || 12 ≤ part || count = 0 || 512 < count || list % 64 ≠ 0 || size = 0 ||
      size % 256 ≠ 0 || record % 512 ≠ 0 || readNat s (a + 32) 32 ≠ 0 then none
  else (mcMembers s list count).map fun ms => ⟨n, part, size, record, ms⟩

/-- R454: the address of an entry. -/
def mcEntryAt (s : State) (n : Nat) : Nat := bits s.dev.mcbase 6 46 * 64 + 64 * n

/-- R454: mcctl written; with load a group's entry is read. -/
def mcctlWrite (s : State) (value : BitVec 64) : State :=
  let n := bits value 0 12
  let s := { s with dev := { s.dev with mcctl := BitVec.ofNat 64 n } }
  if !value.getLsbD 12 then s
  else
    let a := mcEntryAt s n
    let others := s.mcGroups.filter fun g => g.group != n
    if !(read64 s a).getLsbD 0 then { s with mcGroups := others }
    else
      match mcEntry s n a with
      | none => errDev { s with mcGroups := others } ⟨9, 91, 0xFFFF, 0, a⟩
      | some g => write64 (write64 { s with mcGroups := others ++ [g] } g.record 0) (g.record + 8) 0

/-- MULTICAST_LOAD: a write of mcctl; with go it loads the entry of its group, and go reads 0 again. -/
def execMulticastLoad (value : BitVec 64) (s : State) : Host.Outcome State Fault Refusal :=
  .next (mcctlWrite s value)

/-! ## Receipts (R276, R456) -/

/-- The members of a group, with their places in the list. -/
def McGroup.listed (g : McGroup) : List (Nat × BitVec 14 × BitVec 12) := (List.range g.members.length).zip g.members

/-- R423: the group a device belongs to. -/
def devGroup (d : BitVec 14) : Nat := d.toNat / 32

/-- R276: the negative-member bitmap of a flight. -/
def mcBitmap (causes : List (Nat × BitVec 4)) : List Byte :=
  bytesOfNat 64 (causes.foldl (fun n c => if n.testBit c.1 then n else n + 2 ^ c.1) 0)

/-- R276: the causes of a flight, 4 bits a member. -/
def mcCauses (causes : List (Nat × BitVec 4)) : List Byte :=
  bytesOfNat 256 ((causes.map fun c => c.2.toNat * 16 ^ c.1).sum)

/-- A member's receipt, once. -/
def McFlight.receipt (m cause : Nat) (f : McFlight) : McFlight :=
  if f.pending.contains m then
    { f with
      pending := f.pending.filter fun x => x != m
      causes := if cause = 0 then f.causes else f.causes ++ [(m, BitVec.ofNat 4 cause)] }
  else f

/-- A negative acknowledgement counted for a team (R278, R467). [log DEDUCED 48] -/
def countFailure (s : State) (gid team cause : Nat) : State :=
  match teamOf s gid team with
  | none => s
  | some t =>
    tap (modTeam s gid team fun t => { t with remoteFailures := t.remoteFailures + 1 }) (8 * t.core + 5) 0 t.part
      (cause % 16)

/-- A remote access of the team has been answered (R340). -/
def answered (s : State) (gid team : Nat) : State :=
  modTeam s gid team fun t => { t with outstanding := t.outstanding - 1 }

/-- R276: every receipt of a flight is in: a replicating switch answers with MACK; at the source the record is written,
bitmap and causes first, the failures counted, and the `mst` is no longer outstanding. -/
def finishFlight (s : State) (f : McFlight) : State :=
  match f.reply with
  | some p => respond s p opMACK 0 (mcBitmap f.causes ++ mcCauses f.causes)
  | none =>
    let s := match mcGroup s f.group with
      | none => s
      | some g =>
        let s := writeBytes s (g.record + 0x40) (mcBitmap f.causes ++ mcCauses f.causes)
        let s := write64 s g.record (read64 s g.record + 1)
        let s := write64 s (g.record + 8) (read64 s (g.record + 8) + BitVec.ofNat 64 f.causes.length)
        write64 s (g.record + 16) s.time
    answered (f.causes.foldl (fun s c => countFailure s f.gid f.team c.2.toNat) s) f.gid f.team

/-- One flight settled, unless it waits for a receipt, or for an earlier `mst` of its team to its group. -/
def settleOne (x : State × List McFlight) (f : McFlight) : State × List McFlight :=
  let earlier := x.2.any fun g => g.reply.isNone && g.gid == f.gid && g.team == f.team && g.group == f.group
  if f.pending.isEmpty && (f.reply.isSome || !earlier) then (finishFlight x.1 f, x.2) else (x.1, x.2 ++ [f])

/-- The flights whose receipts are all in, settled in order. -/
def settleFlights (s : State) : State :=
  let (t, left) := s.mcFlights.foldl settleOne (s, [])
  { t with mcFlights := left }

/-- A flight changed, and what that settles. -/
def modFlight (s : State) (tag : BitVec 32) (f : McFlight → McFlight) : State :=
  settleFlights { s with mcFlights := modify (fun x => x.tag == tag) f s.mcFlights }

/-- The members a request of a flight stands for: at the source those of its device's group, at a replicating switch
the device's. -/
def requestMembers (s : State) (f : McFlight) (r : Req) : List Nat :=
  match mcGroup s f.group with
  | none => []
  | some g =>
    (g.listed.filter fun m =>
      if f.reply.isSome then m.2.1 == r.dev && m.2.2 == r.packet.win else devGroup m.2.1 == devGroup r.dev).map Prod.fst

/-- A request of a flight fails as a whole. -/
def failMembers (s : State) (r : Req) (tag : BitVec 32) (cause : Nat) : State :=
  modFlight s tag fun f => (requestMembers s f r).foldl (fun f m => f.receipt m cause) f

/-- A MACK answers a request of a flight: the receipts of the members it stands for. [log DEDUCED 92] -/
def takeMack (s : State) (r : Req) (tag : BitVec 32) (p : Packet) : State :=
  let causes := natOfBytes (p.payload.drop 64)
  let neg := natOfBytes (p.payload.take 64)
  modFlight s tag fun f => (requestMembers s f r).foldl (fun f m =>
    f.receipt m (if f.reply.isSome then p.cause.toNat % 16 else if neg.testBit m then causes / 16 ^ m % 16 else 0)) f

/-! ## Sending a line (R275, R456) -/

/-- R425: the source's gtab marks a device's group present. -/
def groupPresent (s : State) (d : BitVec 14) : Bool :=
  devGroup d == devGroup s.devid || (vget s.gtab (devGroup d) 0).getLsbD 9

/-- R456: the device groups that hold members, each with its lowest-numbered member. -/
def mcTargets (g : McGroup) : List (BitVec 14) :=
  let lowest (d : BitVec 14) : BitVec 14 :=
    (g.members.filter fun m => devGroup m.1 == devGroup d).foldl (fun x m => if m.1.toNat < x.toNat then m.1 else x) d
  (g.members.map fun m => lowest m.1).eraseDups

/-- R456: the requests of one `mst`: the window field carries the group's number; members of a group that is not
present
count negative with cause 4 at once. [log DEDUCED 92] -/
def launchLine (s : State) (c : Ctx) (g : McGroup) (off : Nat) (line : List Byte) : State :=
  let cls := classOfGrid s c.g.gid
  let tag := s.nextTag
  let away := (g.listed.filter fun m => !groupPresent s m.2.1).map fun m => (m.1, 4#4)
  let pending := (g.listed.filter fun m => groupPresent s m.2.1).map Prod.fst
  let flight : McFlight := ⟨g.group, off, c.g.gid, c.g.team, tag, none, pending, away, s.time.toNat⟩
  let s := countOut { s with nextTag := s.nextTag + 1, mcFlights := s.mcFlights ++ [flight] } c.g.gid c.g.team
  let send (s : State) (d : BitVec 14) : State :=
    request s (.multicast tag) (mkPacket opMST cls d (ftidOf s c.part) (BitVec.ofNat 12 g.group) off 256 0 line)
  settleFlights (((mcTargets g).filter (groupPresent s)).foldl send s)

/-- R275: the line: byte 8L + k is byte k of the pair in lane L. -/
def mstLine (c : Ctx) (d : Src) : List Byte :=
  (List.range 32).flatMap fun l => bytesOfNat 8 (srcVal c true d l).toNat

/-- R328: an access of the team, in the buffer or on its way, has still to be made at one of the 256 bytes from an offset
of a peer's window. -/
def lineBusy (s : State) (c : Ctx) (dev : BitVec 14) (win : BitVec 12) (off : Nat) : Bool :=
  (s.rwc.any fun r => r.gid == c.g.gid && r.team == c.g.team && r.dev == dev && r.win == win && r.line == off / 256) ||
    s.reqs.any fun r => Req.ofGroup c.g r && r.dev == dev && r.packet.win == win && r.packet.off.toNat / 256 == off / 256

/-- R328, R330: a line to a multicast group has to follow what its group has on its way: its loads on path X, and its
stores, atomics and lines to other multicast groups at the bytes the line covers. [log DEDUCED 92] -/
def launchWaits (s : State) (c : Ctx) (g : McGroup) (off : Nat) : Bool :=
  let others := { s with mcFlights := s.mcFlights.filter fun f => f.group != g.group }
  loadsOut s c.g || g.members.any fun (dev, win) => lineBusy s c dev win off || flightAt others c dev win off 256

/-- MST (R275). [log DEDUCED 42] -/
def execMst (pfx : Pfx) (d a b : BitVec 7) (s : State) : Host.Outcome State Fault Refusal :=
  runCore (.mst pfx d a b) s fun c _ _ o => do
    need (heldSpan c.g o.d 2) causeRegisterBounds c.mask
    need (c.mask == BitVec.allOnes 32) causeIllegalConvergence c.mask
    let off := (srcS s c a).toNat
    let n := (srcS s c b).toNat
    if off % 256 ≠ 0 then trapAt causeMisalignment c.mask off [] []
    else
      match (if n < 4096 then mcGroup s n else none) with
      | none => trapAt causeProtection c.mask off [] []
      | some g =>
        if g.part ≠ c.part || g.size ≤ off then trapAt causeProtection c.mask off [] []
        else
          committed s c fun s c =>
            if !launchWaits s c g off &&
                ((mcTargets g).all fun d => chanRoom s d (BitVec.ofNat 2 (classOfGrid s c.g.gid)) 1) then
              .ok (retire (launchLine s c g off (mstLine c o.d)) c)
            else .error (.held s)

/-! ## Receiving a line (R456) -/

/-- A member performs a line as a write to its window: its receipt's cause. -/
def memberWrite (s : State) (win : BitVec 12) (p : Packet) : State × Nat :=
  match inbound s win p.ftid p.off.toNat true with
  | .refused cause part e => (recordRefusal s part e, cause)
  | .ok _ pa => (writeBytes s pa p.payload, 0)

/-- A replicating switch: the line goes on to one member of its group, or is performed here. [log DEDUCED 92] -/
def replicate (p : Packet) (tag : BitVec 32) (s : State) (m : Nat × BitVec 14 × BitVec 12) : State :=
  let settle (s : State) (cause : Nat) : State :=
    { s with mcFlights := modify (fun x => x.tag == tag) (McFlight.receipt m.1 cause) s.mcFlights }
  if m.2.1 = s.devid then
    let (s, cause) := memberWrite s m.2.2 p
    settle s cause
  else if !(vget s.ltab (m.2.1.toNat % 32) 0).getLsbD 7 then settle s 4
  else
    let q := mkPacket opMST p.tclass.toNat m.2.1 p.ftid m.2.2 p.off.toNat 256 0 p.payload
    request s (.multicast tag) { q with mclass := 1 }

/-- MST performed: a replica is a member's write; a request is replicated to the members of this device's group. [log
DEDUCED 93] -/
def doMst (s : State) (p : Packet) : State :=
  if p.mclass = 1#2 then
    let (s, cause) := memberWrite s p.win p
    respond s p opMACK cause (List.replicate 320 0)
  else
    match mcGroup s p.win.toNat with
    | none => discardPacket s p
    | some g =>
      let mine := g.listed.filter fun m => devGroup m.2.1 == devGroup s.devid
      let tag := s.nextTag
      let s := { s with
        nextTag := s.nextTag + 1
        mcFlights := s.mcFlights ++ [⟨g.group, p.off.toNat, 0, 0, tag, some p, mine.map Prod.fst, [], s.time.toNat⟩] }
      settleFlights (mine.foldl (replicate p tag) s)

/-- R434, R456: how long a receipt may take, in ns. -/
def receiptLimit : Nat := 2000000

/-- MEMBER_TIMEOUT: the oldest `mst` to the group that still waits for a member counts it negative with cause 3: at
the
source after 2 ms, at a replicating switch when the line left its source 2 ms ago, which the event says. [log DEDUCED
93] -/
def execMemberTimeout (group member : Nat) (s : State) : Host.Outcome State Fault Refusal :=
  .next (match s.mcFlights.find? fun f => f.group == group && f.pending.contains member &&
      (f.reply.isSome || f.sentAt + receiptLimit ≤ s.time.toNat) with
    | none => s
    | some f => modFlight s f.tag (McFlight.receipt member 3))

end Sys2Proof.Machine
end

