-- ==== Sys2Proof/Machine/Plan.lean ====
section
/-! DEFINITION. Machine/Plan.lean: the collective plan engine: contexts, graphs, operations, tokens, and the ends of plans
(R314, R443, R458 to R464). -/
namespace Sys2Proof.Machine

/-! ## Contexts -/

/-- A context. -/
def planOf (s : State) (i : Nat) : Option PlanCtx := s.plans.find? fun x => x.idx == i

/-- A context changed. -/
def modPlan (s : State) (i : Nat) (f : PlanCtx → PlanCtx) : State :=
  { s with plans := modify (fun x => x.idx == i) f s.plans }

/-- R464: the first failure of the plan a command runs. -/
def planStatus (s : State) (cid st : Nat) : State :=
  let fail (x : PlanCtx) : PlanCtx := if x.status = 0 then { x with status := st } else x
  { s with plans := modify (fun x => x.cid == some cid) fail s.plans }

/-- R314, R464: the status word is written as a release; one that cannot be written fails the command as R312 gives. -/
def writeStatus (s : State) (k : Cmd) (addr : Dword) (st : Nat) : State :=
  let done (s : State) (cause : Nat) : State := modCmd s k.cid fun k => { k with phase := .worked, cause := cause }
  let cause := if st = 0 then 0 else 8
  if 2 ^ 56 ≤ addr.toNat || addr.toNat % 8 ≠ 0 then done s (if st = 0 then 1 else 8)
  else
    match access s (copyTlb k.core) k.part k.gid addr.toNat true false with
    | .ok pa _ =>
      done (write64 (keepTlb s (copyTlb k.core) k.part k.gid [addr.toNat]) pa (BitVec.ofNat 64 st)) cause
    | .peer _ _ _ => done s (if st = 0 then 1 else 8)
    | .nonresident => done (postRes s k.part 1 k.gid addr.toNat) (if st = 0 then 2 else 8)
    | .denied errs => done (errParts s k.part errs) (if st = 0 then 1 else 8)

/-- R464: every operation has completed, or one has failed and those fired have completed. -/
def PlanCtx.over (x : PlanCtx) : Bool :=
  (x.status == 0 && x.finished.length == x.ops.length) || (x.status != 0 && x.fired.all fun i => x.finished.contains i)

/-- R338, R458, R464: a plan that is over, with no access of its operations still outstanding, writes its status, frees its
context and is done. [log DEDUCED 104] -/
def planSettle (s : State) (i : Nat) : State :=
  match planOf s i with
  | none => s
  | some x =>
    match x.cid.bind (cmdOf s) with
    | none => s
    | some k =>
      if x.over && k.remote == 0 then
        writeStatus (modPlan s i fun x => { x with cid := none, fired := [], waiting := [], finished := [], tokens := [] }) k
          x.statusAddr x.status
      else s

/-- The plan of a command, settled. -/
def settleOf (s : State) (cid : Nat) : State :=
  match s.plans.find? fun x => x.cid == some cid with
  | some x => planSettle s x.idx
  | none => s

/-- An operation completes; with a status that is not 0 it has failed. -/
def planDone (s : State) (i op st : Nat) : State :=
  planSettle (modPlan s i fun x =>
    { x with
      fired := if x.fired.contains op then x.fired else x.fired ++ [op]
      waiting := x.waiting.filter fun o => o != op
      finished := if x.finished.contains op then x.finished else x.finished ++ [op]
      status := if x.status = 0 then st else x.status }) i

/-! ## Reading spans of memory -/

/-- The pieces of a copy that cross no 256-byte boundary on either side: source, destination, length. -/
def spanPairs : Nat → Nat → Nat → Nat → List (Nat × Nat × Nat)
  | 0, _, _, _ => []
  | fuel + 1, a, b, n =>
    if n = 0 then []
    else
      let m := min n (min (256 - a % 256) (256 - b % 256))
      (a, b, m) :: spanPairs fuel (a + m) (b + m) (n - m)

/-- An 8-byte value at an offset of bytes. -/
def dwordAt (bs : List Byte) (off : Nat) : Dword := BitVec.ofNat 64 (natOfBytes ((bs.drop off).take 8))

/-! ## Graphs (R459, R460) -/

/-- R459: the operation in 64 bytes. -/
def planOp (bs : List Byte) : PlanOp :=
  let w0 := dwordAt bs 0
  let w1 := dwordAt bs 8
  ⟨bits w0 0 8, ((List.range (min 4 (bits w0 8 3))).map fun i => BitVec.ofNat 16
      (natOfBytes ((bs.drop (4 + 2 * i)).take 2))), bits w0 12 3, bits w0 16 3, bits w1 32 32, dwordAt bs 16,
    dwordAt bs 24, dwordAt bs 32⟩

/-- R460: bits of aux that its kind does not use. -/
def auxReserved (kind : Nat) (aux : Dword) : Bool :=
  match kind with
  | 2 => bits aux 40 24 != 0
  | 4 => bits aux 14 2 != 0 || bits aux 28 4 != 0 || bits aux 48 16 != 0
  | 5 => bits aux 10 54 != 0
  | 6 => bits aux 10 6 != 0 || bits aux 28 4 != 0 || bits aux 48 16 != 0
  | _ => aux != 0

/-- R8, R459: operation i breaks its table. [log DEDUCED 103] -/
def planOpBad (i : Nat) (bs : List Byte) : Bool :=
  let w0 := dwordAt bs 0
  let op := planOp bs
  decide (6 < op.kind) || decide (4 < bits w0 8 3) || w0.getLsbD 11 || w0.getLsbD 15 || decide (5 < op.sb) ||
    bits w0 19 13 != 0 || decide (5 < op.db) || auxReserved op.kind op.aux || (bs.drop 40).any (fun b => b != 0) ||
    op.inputs.any fun x => x.extractLsb' 12 3 != 0#3 || (!x.getLsbD 15 && decide (i ≤ x.toNat % 4096))

/-- R459: a header that breaks its table. -/
def planHeaderBad (bs : List Byte) : Bool :=
  let n := natOfBytes ((bs.drop 8).take 2)
  n == 0 || decide (4096 < n) || (bs.drop 16).any fun b => b != 0

/-- What reading a graph comes to. -/
inductive GraphRead where
  | ops (l : List PlanOp)
  | bad
  | unread
  deriving DecidableEq, Repr

/-- R459: the operations of a graph. -/
def readGraph (s : State) (k : Cmd) (a : Nat) (head : List Byte) : CmdM GraphRead :=
  if planHeaderBad head then return .bad
  else do
    let n := natOfBytes ((head.drop 8).take 2)
    match ← readSpan s k (a + 0x100) (64 * n) with
    | none => return .unread
    | some bs =>
      let recs := (List.range n).map fun i => (bs.drop (64 * i)).take 64
      if ((List.range n).zip recs).any fun (i, r) => planOpBad i r then return .bad else return .ops (recs.map planOp)

/-- What the start of a plan comes to. -/
inductive PlanStart where
  /-- the graph, its header and its operations, with the invocation record -/
  | run (record head : List Byte) (ops : List PlanOp)
  /-- the graph or the record is malformed: status 1 -/
  | bad (record : List Byte)
  | unread
  deriving DecidableEq, Repr

/-- R458: a free context in which the partition last ran a graph with a generation. -/
def warmCtx (s : State) (part : Nat) (graph gen : Dword) : Option PlanCtx :=
  s.plans.find? fun x => x.cid.isNone && x.part == part && x.graph == graph && x.gen == gen

/-- R314, R459: the graph that a command's invocation record names, unless a free context holds it. [log DEDUCED 103] -/
def readPlan (s : State) (k : Cmd) (addr : Dword) : CmdM PlanStart := do
  let r := k.record
  let graph := dwordAt r 0
  if addr.toNat % 64 ≠ 0 || graph.toNat % 256 ≠ 0 || (dwordAt r 0x38).toNat % 8 ≠ 0 then return .bad r
  else
    match ← readSpan s k graph.toNat 256 with
    | none => return .unread
    | some head =>
      match warmCtx s k.part graph (dwordAt head 0) with
      | some x => return .run r head x.ops
      | none =>
        match ← readGraph s k graph.toNat head with
        | .ops l => return .run r head l
        | .bad => return .bad r
        | .unread => return .unread

/-- R462: the invocation number of a plan tag's next invocation. -/
def invNext (s : State) (part : Nat) (ptag : BitVec 16) : BitVec 8 :=
  match s.invs.find? fun x => x.part == part && x.ptag == ptag with
  | some x => x.inv
  | none => 0

/-- R462: an invocation number has been given out. [log DEDUCED 105] -/
def invTaken (s : State) (part : Nat) (ptag : BitVec 16) : State :=
  if s.invs.any fun x => x.part == part && x.ptag == ptag then
    { s with invs := modify (fun x => x.part == part && x.ptag == ptag) (fun x => { x with inv := x.inv + 1 }) s.invs }
  else { s with invs := s.invs ++ [⟨part, ptag, 1⟩] }

/-- R458: the context a plan takes: the one that last ran its graph, or any free one. -/
def freeCtx (s : State) (part : Nat) (graph gen : Dword) : Option Nat :=
  match warmCtx s part graph gen with
  | some x => some x.idx
  | none =>
    match (List.range 64).find? fun i => !(s.plans.any fun x => x.idx == i) with
    | some i => some i
    | none => (s.plans.find? fun x => x.cid.isNone).map PlanCtx.idx

/-- A plan starts in a context; tokens that waited for its invocation are present. -/
def startPlan (s : State) (k : Cmd) (i : Nat) (record head : List Byte) (ops : List PlanOp) : State :=
  let ptag := BitVec.ofNat 16 (natOfBytes ((head.drop 10).take 2))
  let inv := invNext s k.part ptag
  let mine (t : StoredToken) : Bool := t.part == k.part && t.ptag == ptag && t.inv == inv
  let us := natOfBytes ((head.drop 12).take 4)
  let x : PlanCtx := ⟨i, dwordAt record 0, dwordAt head 0, ops, ptag, (if us = 0 then 10000 else us), some k.cid, k.part,
    k.gid, k.core, (List.range 6).map fun j => dwordAt record (8 + 8 * j), dwordAt record 0x38, inv, s.time.toNat, [], [],
    [], (s.tokens.filter mine).map StoredToken.token, 0⟩
  invTaken { s with
    plans := s.plans.filter (fun y => y.idx != i) ++ [x]
    tokens := s.tokens.filter fun t => !mine t } k.part ptag

/-- R312: failures met in reading or writing for a plan: recorded, and the pages asked for. [log DEDUCED 104] -/
def planErrs (s : State) (k : Cmd) (io : CmdIo) : State :=
  io.posts.foldl (fun s va => postRes s k.part 1 k.gid va) (errParts s k.part io.errs)

/-- The remote reads of a plan that are not on their way already. -/
def planReads (s : State) (k : Cmd) (need : List (BitVec 14 × BitVec 12 × Nat × Nat)) : State :=
  cmdReads s k (need.filter fun (dev, win, off, n) => !(s.reqs.any fun r =>
    r.kind == .cmd k.cid true && r.dev == dev && r.packet.win == win && r.packet.off.toNat == off && r.packet.len.toNat == n))

/-- PLAN_CONTEXT_TAKE: a started `eng.plan` takes a context, loads its graph, and starts. [log DEDUCED 68, 103] -/
def execPlanContextTake (cid : Nat) (s : State) : Host.Outcome State Fault Refusal :=
  engineNext (match cmdOf s cid with
    | none => s
    | some k =>
      match k.op with
      | .plan addr =>
        if k.phase ≠ .planning || s.plans.any (fun x => x.cid == some cid) then s
        else
          let (r, io) := (readPlan s k addr).run CmdIo.start
          if io.busy then s
          else if !io.need.isEmpty then planReads s k io.need
          else
            match r with
            | .unread => modCmd (planErrs s k io) cid fun k => { k with phase := .worked, cause := io.cause }
            | .bad record => writeStatus s k (dwordAt record 0x38) 1
            | .run record head ops =>
              match freeCtx s k.part (dwordAt record 0) (dwordAt head 0) with
              | none => s
              | some i => startPlan s k i record head ops
      | .mmt _ _ _ _ _ _ _ => s
      | .tcon _ _ _ _ _ _ _ => s
      | .accZero _ => s
      | .accLoad _ _ _ _ _ => s
      | .accStore _ _ _ _ _ => s
      | .accFold _ _ _ _ => s
      | .accCtrb _ _ _ _ _ => s
      | .cpy _ _ _ _ _ _ => s
      | .launch _ => s
      | .lnt _ => s)

/-! ## Operations (R460, R461) -/

/-- R461: an input is present. -/
def PlanCtx.has (x : PlanCtx) (input : BitVec 16) : Bool :=
  if input.getLsbD 15 then x.tokens.contains (input.setWidth 12) else x.finished.contains (input.toNat % 4096)

/-- R461: an operation of a kind can fire, or has fired and waits. -/
def canFire (x : PlanCtx) (kind op : Nat) : Option PlanOp :=
  match x.ops[op]? with
  | none => none
  | some o =>
    if o.kind ≠ kind then none
    else if x.waiting.contains op then some o
    else if x.status = 0 && !x.fired.contains op && o.inputs.all x.has then some o
    else none

/-- What firing an operation comes to. -/
inductive Fired where
  /-- its access has been made; it completes later (R461) -/
  | made (s : State)
  /-- it waits -/
  | waits (s : State)
  /-- it has failed, with a status of R464 -/
  | failed (s : State) (st : Nat)

/-- An operation fires. -/
def fire (kind ctx op : Nat) (s : State) (body : PlanCtx → Cmd → PlanOp → Fired) : Host.Outcome State Fault Refusal :=
  engineNext (match planOf s ctx with
    | none => s
    | some x =>
      match canFire x kind op, x.cid.bind (cmdOf s) with
      | some o, some k =>
        let note (wait : Bool) (s : State) : State := modPlan s ctx fun x =>
          { x with
            fired := if x.fired.contains op then x.fired else x.fired ++ [op]
            waiting := x.waiting.filter (fun i => i != op) ++ (if wait then [op] else []) }
        match body x k o with
        | .made s => note false s
        | .waits s => note true s
        | .failed s st => planDone s ctx op st
      | some _, none => s
      | none, _ => s)

/-- An operation's body made of accesses: it waits for blocks under test and for remote data; a failure is status 2, or 3
where a peer has refused. -/
def fireIo (s : State) (k : Cmd) (m : CmdM Fired) : Fired :=
  let (r, io) := m.run CmdIo.start
  if io.busy then .waits s
  else if !io.need.isEmpty then .waits (planReads s k io.need)
  else if io.cause = 0 then r
  else
    let refused := k.fetched.any fun f => f.data.isNone
    match r with
    | .made t => .failed (planErrs t k io) (if refused then 3 else 2)
    | .waits t => .failed (planErrs t k io) (if refused then 3 else 2)
    | .failed t _ => .failed (planErrs t k io) (if refused then 3 else 2)

/-- R460: S. -/
def PlanCtx.src (x : PlanCtx) (o : PlanOp) : Nat := ((x.bases[o.sb]?).getD 0 + o.soff).toNat
/-- R460: T. -/
def PlanCtx.dst (x : PlanCtx) (o : PlanOp) : Nat := ((x.bases[o.db]?).getD 0 + o.doff).toNat

/-- NOP. -/
def execPlanNop (ctx op : Nat) (s : State) : Host.Outcome State Fault Refusal :=
  fire 0 ctx op s fun _ _ _ => .made s

/-- One piece of a COPY, whose bytes have been read. -/
def copyPiece (s : State) (k : Cmd) (t : State) (x : Nat × Nat × Option (List Byte)) : CmdM State :=
  match x.2.2 with
  | none => return t
  | some bs => do
    match ← locMem s k (x.2.1 % 2 ^ 64) true with
    | .mem pa => return writeBytes t pa bs
    | .peer dev win off =>
      return cmdRequest t k false (maskedWrite (cmdClass s k) dev (ftidOf s k.part) win off bs)
    | .stage _ _ _ _ => return t
    | .bad => return t

/-- COPY: every byte is read before any is written. -/
def execPlanCopy (ctx op : Nat) (s : State) : Host.Outcome State Fault Refusal :=
  fire 1 ctx op s fun x k o => fireIo s k do
    let ps := spanPairs (o.len / 128 + 3) (x.src o) (x.dst o) o.len
    let xs ← ps.mapM fun (a, b, n) => do
      let v ← readMem s k (a % 2 ^ 64) n
      return (a, b, v.map fun v => bytesOfNat n v)
    let t ← xs.foldlM (copyPiece s k) s
    return .made t

/-- R352, R460: the fragments of a node whose elements stand in bytes; the values enter under R96. -/
def nodeFrags (f : Frag) (bs : List Byte) : List Frag :=
  if f.orphan then [f]
  else
    let b := redBytes f.fmt
    let per := fragElems f.tile f.fmt
    (List.range (fragCount f.tile f.fmt)).map fun n =>
      let vals := (List.range per).map fun e => natOfBytes ((bs.drop ((n * per + e) * b)).take b)
      let F := vals.foldl (fun F v => F ||| leafFlag f.fmt v) 0
      { f with
        fno := n
        nv := F &&& flagNV != 0
        data := BitVec.ofNat 512 (((List.range per).zip vals).foldl
          (fun d (e, v) => d + leafIn f.fmt v * 2 ^ (8 * b * e)) 0) }

/-- A descriptor read for a plan. -/
def planDesc (s : State) (k : Cmd) (a : Nat) (needW : Bool) : CmdM (Option DescAt) := do
  if a % 64 ≠ 0 then
    ioFail 1 [] none
    return none
  else
    let loc ← locMem s k a needW
    let bs ← readLoc s k loc 64
    return bs.map fun v => match loc with
      | .mem pa => ⟨pa, none, bytesOfNat 64 v⟩
      | .peer dev win off => ⟨0, some (dev, win, BitVec.ofNat 38 off), bytesOfNat 64 v⟩
      | .stage _ _ _ _ => ⟨0, none, bytesOfNat 64 v⟩
      | .bad => ⟨0, none, bytesOfNat 64 v⟩

/-- REDUCE: one node contributed through the pairing buffer of the command's core. [log DEDUCED 104] -/
def execPlanReduce (ctx op : Nat) (s : State) : Host.Outcome State Fault Refusal :=
  fire 2 ctx op s fun x k o => fireIo s k do
    match ← planDesc s k (x.dst o) true with
    | none => return .made s
    | some d =>
      let f := descFrag k.part (cmdClass s k) d (bits o.aux 34 6) (bits o.aux 0 34)
      if o.len ≠ fragElems f.tile f.fmt * fragCount f.tile f.fmt * redBytes f.fmt then return .failed s 1
      else
        match ← readSpan s k (x.src o) o.len with
        | none => return .made s
        | some bs =>
          return .made ((nodeFrags f bs).foldl
            (fun s f => sendFrag s k.core (some (64 + k.cid, BitVec.ofNat 32 (op + 1))) f) s)

/-- WAITD: a read of the descriptor at a peer is asked for again each time. -/
def execPlanWaitd (ctx op : Nat) (s : State) : Host.Outcome State Fault Refusal :=
  fire 3 ctx op s fun x k o => fireIo s k do
    match ← planDesc s k (x.dst o) false with
    | none => return .made s
    | some d =>
      let again := match d.remote with
        | none => s
        | some (dev, win, off) => modCmd s k.cid fun k =>
            { k with fetched := k.fetched.filter fun f => !(f.dev == dev && f.win == win && f.off == off.toNat) }
      let st := bits (d.word 0x20) 0 3
      return if st = 2 then .made again else if st = 3 then .failed again 6 else .waits again

/-- R463: the word of a token. -/
def tokenWord (aux : Dword) (inv : BitVec 8) : Dword :=
  BitVec.ofNat 64 (bits aux 16 12 + bits aux 32 16 * 2 ^ 16 + inv.toNat * 2 ^ 32)

/-- SIGNAL. -/
def execPlanSignal (ctx op : Nat) (s : State) : Host.Outcome State Fault Refusal :=
  fire 4 ctx op s fun x k o => .made (request s (.token ctx op s.time.toNat false)
    (mkPacket opTOKEN (cmdClass s k) (BitVec.ofNat 14 (bits o.aux 0 14)) (ftidOf s k.part) 0 0 8 0
      (bytesOfNat 8 (tokenWord o.aux x.inv).toNat)))

/-! ### Ultra Ethernet (R443, R445) -/

/-- R443: a UE peer entry of a partition. -/
def ueEntry (s : State) (part e : Nat) : List Byte :=
  bytesAt s.mem (bits (pregs s part).uetab 15 37 * 2 ^ 15 + 32 * e) 32

/-- R443: the flags of an entry. -/
def ueFlags (entry : List Byte) : Dword := BitVec.ofNat 64 (natOfBytes ((entry.drop 20).take 2))

/-- R443, R8: an entry is valid: its valid bit, a delivery mode, and zero reserved bits. -/
def ueValid (entry : List Byte) : Bool :=
  let w := ueFlags entry
  w.getLsbD 15 && bits w 0 2 != 3 && bits w 8 7 == 0 && natOfBytes ((entry.drop 22).take 2) == 0

/-- What a lane group makes of a message: it carries it, makes it wait while it changes (R445), or has no such port. -/
inductive UeLink where
  | carries | waits | absent
  deriving DecidableEq, Repr

/-- R438, R445: the lane group and port that an entry names. -/
def ueLink (s : State) (entry : List Byte) : UeLink :=
  let w := ueFlags entry
  match s.lgs[bits w 2 5]? with
  | none => .absent
  | some g =>
    if g.cur ≠ 5#3 then .absent
    else if g.state = 0#3 then (if w.getLsbD 7 && g.tgt.extractLsb' 3 2 == 0#2 then .absent else .carries)
    else .waits

/-- A message for the peer entry an operation names. [log DEDUCED 106] -/
def sendUe (s : State) (ctx op : Nat) (k : Cmd) (e : Nat) (tagged : Bool) (off : Dword) (data : List Byte) : Fired :=
  let entry := ueEntry s k.part e
  if !ueValid entry then .failed s 5
  else
    match ueLink s entry with
    | .absent => .failed s 5
    | .waits => .waits s
    | .carries => .made { s with ueOut := s.ueOut ++ [⟨ctx, op, bits (ueFlags entry) 2 5, entry, tagged, off, data⟩] }

/-- UEWRITE. -/
def execPlanUewrite (ctx op : Nat) (s : State) : Host.Outcome State Fault Refusal :=
  fire 5 ctx op s fun x k o => fireIo s k do
    match ← readSpan s k (x.src o) o.len with
    | none => return .made s
    | some bs => return sendUe s ctx op k (bits o.aux 0 10) false o.doff bs

/-- UETOKEN. -/
def execPlanUetoken (ctx op : Nat) (s : State) : Host.Outcome State Fault Refusal :=
  fire 6 ctx op s fun x k o => sendUe s ctx op k (bits o.aux 0 10) true 0 (bytesOfNat 8 (tokenWord o.aux x.inv).toNat)

/-! ## Completion (R461, R464) -/

/-- R461: nothing of a fired operation is still on its way. [log DEDUCED 105] -/
def planSettled (s : State) (x : PlanCtx) (k : Cmd) (o : PlanOp) (op : Nat) : Bool :=
  match o.kind with
  | 1 => k.remote == 0
  | 2 => !nodesFlying s k (op + 1)
  | 4 => !(s.reqs.any fun r => match r.kind with
      | .token c i _ _ => c == x.idx && i == op
      | .load _ _ _ _ _ _ _ => false
      | .loadS _ _ _ _ _ _ => false
      | .store _ _ _ => false
      | .atomic _ _ _ _ _ _ _ _ _ => false
      | .multicast _ => false
      | .frag => false
      | .cmd _ _ => false
      | .desc _ _ _ => false)
  | _ => true

/-- PLAN_OP_COMPLETE: a fired operation completes. Status 5 is an Ultra Ethernet delivery failure, of a message the
transport holds. -/
def execPlanOpComplete (ctx op : Nat) (status : Nat) (s : State) : Host.Outcome State Fault Refusal :=
  .next (match planOf s ctx with
    | none => s
    | some x =>
      match x.ops[op]?, x.cid.bind (cmdOf s) with
      | some o, some k =>
        if x.fired.contains op && !x.waiting.contains op && !x.finished.contains op && planSettled s x k o op then
          let ue := o.kind == 5 || o.kind == 6
          let s := if ue then { s with ueOut := s.ueOut.filter fun m => !(m.ctx == ctx && m.op == op) } else s
          planDone s ctx op (if ue && status == 5 then 5 else 0)
        else s
      | some _, none => s
      | none, _ => s)

/-- TOKEN_TIMEOUT: a remote input has not come within the token timeout. [log DEDUCED 96] -/
def execTokenTimeout (ctx : Nat) (s : State) : Host.Outcome State Fault Refusal :=
  .next (match planOf s ctx with
    | none => s
    | some x =>
      let late (i : Nat) : Bool := !x.fired.contains i && (match x.ops[i]? with
        | some o => o.inputs.any fun t => t.getLsbD 15 && !x.has t
        | none => false)
      if x.cid.isSome && x.started + 1000 * x.timeout ≤ s.time.toNat && (List.range x.ops.length).any late then
        planSettle (modPlan s ctx fun x => if x.status = 0 then { x with status := 4 } else x) ctx
      else s)

/-! ## Tokens (R462, R463) -/

/-- R462, R463: a token for a partition: it makes inputs present, or waits in the matching store; none where the
store is
full. [log DEDUCED 105] -/
def acceptToken (s : State) (part : Nat) (w : Dword) : Option State :=
  let t := BitVec.ofNat 12 (bits w 0 12)
  let ptag := BitVec.ofNat 16 (bits w 16 16)
  let inv := BitVec.ofNat 8 (bits w 32 8)
  let runs (x : PlanCtx) : Bool := x.cid.isSome && x.part == part && x.ptag == ptag && x.inv == inv
  if s.plans.any runs then
    let add (x : PlanCtx) : PlanCtx := if x.tokens.contains t then x else { x with tokens := x.tokens ++ [t] }
    some { s with plans := modify runs add s.plans }
  else if s.tokens.any fun x => x == ⟨part, ptag, inv, t⟩ then some s
  else if 1024 ≤ (s.tokens.filter fun x => x.part == part).length then none
  else some { s with tokens := s.tokens ++ [⟨part, ptag, inv, t⟩] }

/-- TOKEN performed. [log DEDUCED 96] -/
def doToken (s : State) (p : Packet) : State :=
  match (List.range 12).find? fun i => partEnabled s i && ftidOf s i == p.ftid with
  | none => discardPacket s p
  | some part =>
    match acceptToken s part (BitVec.ofNat 64 (natOfBytes p.payload)) with
    | some s => respond s p opACK 0 []
    | none => respond s p opNACK 5 []

/-- R443, R463: the partition whose UE peer table names an address and a job. -/
def uePart (s : State) (ip : BitVec 128) (job : BitVec 32) : Option Nat :=
  (List.range 12).find? fun p => partEnabled s p && (List.range 1024).any fun e =>
    let x := ueEntry s p e
    ueValid x && natOfBytes (x.take 16) == ip.toNat && natOfBytes ((x.drop 16).take 4) == job.toNat

/-- UETOKEN_RECEIPT: the body of a tagged send; one refused is offered again by the transport. -/
def execUetokenReceipt (ip : BitVec 128) (job : BitVec 32) (word : BitVec 64) (s : State) :
    Host.Outcome State Fault Refusal :=
  .next (
    let lost := errDev s ⟨9, 92, 0xFFFF, 0, 0⟩
    if bits word 12 4 ≠ 0 || bits word 40 24 ≠ 0 then lost
    else
      match uePart s ip job with
      | none => lost
      | some part => (acceptToken s part word).getD s)

/-- UE_RMA_WRITE_RECEIPT: bytes of an inbound RMA write, at the virtual address its memory key and offset stand for
in a
partition; pieces that may not be written are not. [log DEDUCED 106] -/
def execUeRmaWriteReceipt (part : Nat) (va : BitVec 64) (bytes : List (BitVec 8)) (s : State) :
    Host.Outcome State Fault Refusal :=
  .next (
    if !partEnabled s part then s
    else
      (spanOf (bytes.length / 256 + 2) va.toNat bytes.length).foldl (fun t (a, n) =>
        match (if a < 2 ^ 56 then access s walkerTlb part 0 a true false else .denied []) with
        | .ok pa _ => writeBytes t pa ((bytes.drop (a - va.toNat)).take n)
        | .peer _ _ _ => errPart t part ⟨2, 25, 0xFFFF, 0, a⟩
        | .nonresident => errPart t part ⟨2, 25, 0xFFFF, 0, a⟩
        | .denied _ => errPart t part ⟨2, 25, 0xFFFF, 0, a⟩) s)

end Sys2Proof.Machine
end

