-- ==== Sys2Proof/Machine/Sched.lean ====
section
/-! DEFINITION. Machine/Sched.lean: launch queues, dependences, pre-emption, time slices, injection rates and power
shedding (R394 to R398, R410 to R412, R415 to R421). -/
namespace Sys2Proof.Machine

/-! ## Host launch queues (R394, R395, R397) -/

/-- R486: the partition of a virtual function that works. -/
def vfOwner (s : State) (v : Nat) : Option Nat :=
  let m := (vfRegs s v).vfmap
  let p := bits m 0 4
  if v < 256 && m.getLsbD 8 && p < 12 && partEnabled s p then some p else none

/-- R397: slots of a queue; none while it is disabled. -/
def queueSlots (r : VfRegs) : Option Nat :=
  let lgn := bits r.lqcfg 0 4
  if 4 ≤ lgn && lgn ≤ 15 && !r.off then some (2 ^ lgn) else none

/-- R397: lqwr written: a value below rd, or beyond the ring, disables the queue. -/
def lqwrWrite (s : State) (vf : Nat) (value : Dword) : State :=
  match vfOwner s vf with
  | none => s
  | some part =>
    let r := vfRegs s vf
    let wr := bits value 0 40
    let rd := r.lqrd.toNat
    let s := modVf s vf fun r => { r with lqwr := BitVec.ofNat 64 wr }
    if wr < rd || rd + 2 ^ bits r.lqcfg 0 4 < wr then
      errPart (modVf s vf fun r => { r with off := true }) part ⟨5, 50, 0xFFFF, 0, vf⟩
    else s

/-- LQWR_WRITE. -/
def execLqwrWrite (vf : Nat) (value : Dword) (s : State) : Host.Outcome State Fault Refusal :=
  .next (lqwrWrite s vf value)

/-- R394: what reading a host record or its argument block meets: the page that is not resident, or what the error queue
takes of one that cannot be read. -/
inductive HostRead where
  | bytes (bs : List Byte)
  | absent (va : Nat)
  | bad (errs : List ErrRec)
  deriving DecidableEq, Repr

/-- R378, R394: bytes of one page that the walker reads for the scheduler. -/
def hostPage (s : State) (part va n : Nat) : HostRead :=
  if 2 ^ 56 ≤ va then .bad []
  else
    match access s walkerTlb part 0 va false false with
    | .ok pa _ => if poisoned s pa n then .bad (poisonErrs s 0 pa n) else .bytes (bytesAt s.mem pa n)
    | .peer _ _ _ => .bad []
    | .nonresident => .absent va
    | .denied errs => .bad errs

/-- R378, R394: bytes that the walker reads for the scheduler, page by page. -/
def hostRead (s : State) (part va n : Nat) : HostRead :=
  (pageParts va n).foldl (fun r (a, k) =>
    match r with
    | .absent va => .absent va
    | .bad errs => .bad errs
    | .bytes bs =>
      match hostPage s part a k with
      | .bytes more => .bytes (bs ++ more)
      | .absent va => .absent va
      | .bad errs => .bad errs) (.bytes [])

/-- R395: the handle of the record at a queue position. -/
def hostHandle (vf p : Nat) : Dword := BitVec.ofNat 64 (2 ^ 62 + vf * 2 ^ 40 + p % 2 ^ 40)

/-- R395: a dependence a record at a queue position may name. -/
def depOk (s : State) (part vf p : Nat) (h : Dword) : Bool :=
  if bits h 62 2 = 1 then
    let v := bits h 40 22
    vfOwner s v == some part && !(v == vf && p ≤ bits h 0 40)
  else (gridByHandle s part h).isSome

/-- R394: what comes of reading the record at the head of a queue. -/
inductive Taken where
  | accepted (r : LaunchRec)
  | refused (r : LaunchRec) (cause : Nat)
  /-- as refused, with what the error queue takes of a page that cannot be read -/
  | unread (r : LaunchRec) (errs : List ErrRec)
  /-- the page is not resident -/
  | absent (va : Nat)
  deriving DecidableEq, Repr

/-- R162, R394, R395: a well-formed record and its arguments checked. -/
def checkRecord (s : State) (part vf : Nat) (r : LaunchRec) (argBytes : List Byte) (argc : Nat) : Taken :=
  match argsOf argBytes argc with
  | none => .refused r 1
  | some args =>
    if !featuresOk r.fmask then .refused r 2
    else if !r.deps.all (depOk s part vf (vfRegs s vf).lqrd.toNat) then .refused r 3
    else .accepted { r with args := args }

/-- R394: the record at the head of a queue. [log DEDUCED 87] -/
def takeRecord (s : State) (part vf va : Nat) : Taken :=
  match hostRead s part va 128 with
  | .absent page => .absent page
  | .bad errs => .unread (recordOf []) errs
  | .bytes bs =>
    let n := recordArgc bs
    if recordBad s part bs then .refused (recordOf bs) 1
    else if n = 0 then checkRecord s part vf (recordOf bs) [] 0
    else
      match hostRead s part (recordArgs bs) (16 * n) with
      | .absent page => .absent page
      | .bad errs => .unread (recordOf bs) errs
      | .bytes ab => checkRecord s part vf (recordOf bs) ab n

/-- R394, R396, R397: the next record of a queue is taken, or its page is asked for. -/
def takeNextRecord (s : State) (vf part slots : Nat) : State :=
  let q := vfRegs s vf
  let rd := q.lqrd.toNat
  let va := bits q.lqbase 7 45 * 128 + 128 * (rd % slots)
  let handle := hostHandle vf rd
  let took (s : State) : State :=
    modVf s vf fun r => { r with lqrd := BitVec.ofNat 64 ((rd + 1) % 2 ^ 40), retryAt := none }
  match takeRecord s part vf va with
  | .absent page => postRes (modVf s vf fun r => { r with retryAt := some s.time.toNat }) part 3 0 page
  | .accepted r => acceptLaunch (took s) part handle r false false
  | .refused r cause => refuseLaunch (took s) part handle r cause
  | .unread r errs => refuseLaunch (errParts (took s) part errs) part handle r 1

/-- LAUNCH_QUEUE_TAKE. -/
def execLaunchQueueTake (vf : Nat) (s : State) : Host.Outcome State Fault Refusal :=
  eventNext (match vfOwner s vf with
    | none => s
    | some part =>
      let q := vfRegs s vf
      match queueSlots q with
      | none => s
      | some n =>
        if q.lqrd.toNat < q.lqwr.toNat && q.retryAt.isNone && pendingCount s part < 1024 then takeNextRecord s vf part n
        else s)

/-- LAUNCH_RECORD_RETRY (R394): 100 µs after a page was found not resident. [log DEDUCED 87] -/
def execLaunchRecordRetry (vf : Nat) (s : State) : Host.Outcome State Fault Refusal :=
  eventNext (match vfOwner s vf with
    | none => s
    | some part =>
      let q := vfRegs s vf
      match queueSlots q, q.retryAt with
      | some n, some at' =>
        if at' + 100000 ≤ s.time.toNat && q.lqrd.toNat < q.lqwr.toNat && pendingCount s part < 1024 then
          takeNextRecord s vf part n
        else s
      | _, _ => s)

/-! ## Dependences (R396) -/

/-- Where a dependence stands: not ended, ended completed, or ended otherwise. -/
inductive DepState where
  | waits | completed | broken
  deriving DecidableEq, Repr

/-- R396: where a dependence stands. -/
def depState (s : State) (part : Nat) (h : Dword) : DepState :=
  if bits h 62 2 = 1 && bits h 0 40 + 2 ^ 16 ≤ (vfRegs s (bits h 40 22)).lqrd.toNat then .completed
  else
    match gridByHandle s part h with
    | none => .waits
    | some g => if g.phase ≠ .ended then .waits else if g.outcome = 0 then .completed else .broken

/-- R396: a pending record whose dependences have ended. -/
def releasable (s : State) (part : Nat) (g : Grid) : Bool :=
  g.part == part && g.phase == .pending && !g.held && g.record.deps.all fun h => depState s part h != .waits

/-- PENDING_RELEASE: the first such record enters placement, is cancelled, or ends with PLACE. -/
def execPendingRelease (part : Nat) (s : State) : Host.Outcome State Fault Refusal :=
  .next (match s.grids.find? (releasable s part) with
    | none => s
    | some g =>
      if g.record.deps.any (fun h => depState s part h == .broken) && !g.record.aft then endGrid s g.gid 2 3
      else if neverFits s part g.record then endGrid s g.gid 1 4
      else modGrid s g.gid fun g => { g with phase := .placing })

/-! ## Leaving a core (R410, R412) -/

/-- R316, R410: every live split of a team waits in `eng.waitl`. -/
def allWaitl (s : State) (t : Team) : Bool :=
  let gs := groupsOfTeam s t
  let waits (p : Split) : Bool := p.arch.state == .onEvent && (match p.waitsIn with
    | some i => (engWaits 3 i).isSome
    | none => false)
  !gs.isEmpty && gs.all fun g => (placesOf g).all fun e => !(splitIn g e).live || waits (splitIn g e)

/-- R412: a team may be discarded: every live group has an open region. -/
def discardable (s : State) (t : Team) : Bool := (groupsOfTeam s t).all fun g => g.region.isSome

/-- R412: what a drain of teams that leave together is estimated to cost, in µs; none where it is infinite. [log
DESIGN CHOICE 86] -/
def drainCost (s : State) (g : Grid) (ts : List Team) : Option Nat :=
  if g.record.drh = 0 then none
  else some ((ts.map fun t => g.record.drh - (s.time.toNat - t.placedAt) / 1000).foldl max 0)

/-- R410, R412: the mode in which teams leave together for a requester with a bound in µs, and what it is estimated to
cost: of those whose estimate the bound allows the least, drain before discard before save; save where it allows none, or
where a team's splits all wait in `eng.waitl`. [log DESIGN CHOICE 86] -/
def modeFor (s : State) (g : Grid) (ts : List Team) (bound : Nat) : PreMode × Nat :=
  let cost := Config.leaveCost s.time.toNat g.gid ((ts.map Team.team).headD 0)
  let save : PreMode × Nat := (.save, cost false)
  let drain := (drainCost s g ts).toList.map fun x => (PreMode.drain, x)
  let discard := if !g.record.cores && ts.all (discardable s) then [(PreMode.discard, cost true)] else []
  if ts.any (allWaitl s) then save
  else (leastBy Prod.snd ((drain ++ discard ++ [save]).filter fun x => x.2 ≤ bound)).getD save

/-- R412: a team begins to leave in a mode. -/
def beginLeave (now : Nat) (mode : PreMode) (t : Team) : Team :=
  if t.phase = .running || t.phase = .draining then
    { t with phase := if mode = .drain then .draining else .saving mode, requestedAt := now }
  else t

/-- R410: the teams leave in one mode. -/
def leave (s : State) (ts : List Team) (mode : PreMode) : State :=
  ts.foldl (fun s t => modTeam s t.gid t.team (beginLeave s.time.toNat mode)) s

/-! ## Who waits, and for what space (R410, R414, R416) -/

/-- R410, R414: what waits for space: the next clusters of a grid, or a saved cluster, by its first team. -/
inductive Waiter where
  | fresh (g : Grid)
  | saved (g : Grid) (team : Nat)
  deriving DecidableEq, Repr

/-- The grid of a waiter. -/
def Waiter.grid : Waiter → Grid
  | .fresh g => g
  | .saved g _ => g

/-- A cluster of a waiter fits in the rectangle from a core now. -/
def Waiter.fits (s : State) (base : Nat) : Waiter → Bool
  | .fresh g => (putCluster g g.nextTeam base s).isSome
  | .saved g team => (restoreCluster s g team base).isSome

/-- All that is placed together with a waiter fits now. -/
def Waiter.fitsNow (s : State) : Waiter → Bool
  | .fresh g => fitsSomewhere s g
  | .saved g team => (List.range Config.cores).any fun b => (restoreAll s g team b).isSome

/-- R414: what waits in a partition, in the order of placement. -/
def waitersOf (s : State) (part : Nat) : List Waiter :=
  let clusters (g : Grid) : List Nat :=
    let k := g.record.cw * g.record.chh
    (((savedTeams s part).filter fun t => t.gid == g.gid).map fun t => t.team / k * k).eraseDups
  (List.range 4).flatMap fun cls =>
    (s.grids.filter fun g => g.part == part && g.record.cls == cls).flatMap fun g =>
      (clusters g).map (Waiter.saved g) ++ (if (waitingGrids s part).contains g then [.fresh g] else [])

/-- R410: the team is leaving its core already. -/
def Team.leaves (t : Team) : Bool :=
  match t.phase with
  | .draining => true
  | .saving _ => true
  | .running => false
  | .saved => false
  | .removed => false

/-- The device once some teams have left their cores. -/
def without (s : State) (ts : List Team) : State :=
  let gone (gid team : Nat) : Bool := ts.any (Team.isNamed gid team)
  { s with
    groups := s.groups.filter fun g => !gone g.gid g.team
    teams := modify (fun t => gone t.gid t.team) (fun t => { t with phase := .saved, banks := [], accs := [] }) s.teams }

/-- The device once the teams that are leaving a partition's cores have left. -/
def onceLeft (s : State) (part : Nat) : State := without s (s.teams.filter fun t => t.part == part && t.leaves)

/-- R410: a team may be a victim of a waiter that needs some cores: it is on one of them, its class is numerically above
the waiter's, or at a slice end the same, or all its splits wait in `eng.waitl`; and so are all that leave with it, of
a co-resident grid on those cores alone. -/
def isVictim (s : State) (w : Waiter) (slice : Bool) (cs : List Nat) (t : Team) : Bool :=
  match gridOf s t.gid with
  | none => false
  | some g =>
    let ts := companions s g t.team
    t.part == w.grid.part && t.phase == .running && cs.contains t.core &&
      (w.grid.record.cls < g.record.cls || (slice && g.record.cls == w.grid.record.cls) || ts.all (allWaitl s)) &&
      (!g.record.cores || ts.all fun x => cs.contains x.core)

/-- R410: victims are taken lowest class first, then most recently placed first. -/
def victimKey (s : State) (t : Team) : Nat :=
  (3 - classOfGrid s t.gid) * 2 ^ 64 + (2 ^ 64 - 1 - t.placedAt)

/-- R410: victims taken in their order, each with those that leave with it, until enough has been freed. -/
def takeUntil (s : State) (enough : List (List Team) → Bool) : Nat → List Team → List (List Team) →
    Option (List (List Team))
  | 0, _, taken => if enough taken then some taken else none
  | n + 1, cands, taken =>
    if enough taken then some taken
    else
      match leastBy (victimKey s) cands with
      | none => none
      | some t =>
        let ts := match gridOf s t.gid with
          | some g => companions s g t.team
          | none => [t]
        takeUntil s enough n (cands.filter fun x => !ts.contains x) (taken ++ [ts])

/-- R410: the victims of a waiter in the rectangle from a core, beside those that are leaving; none where it would not hold
the waiter with all of them gone. -/
def victimsAt (s : State) (w : Waiter) (slice : Bool) (base : Nat) : Option (List (List Team)) :=
  match rectangle base w.grid.record.cw w.grid.record.chh with
  | none => none
  | some cs =>
    let cands := s.teams.filter (isVictim s w slice cs)
    let t := onceLeft s w.grid.part
    takeUntil s (fun taken => w.fits (without t taken.flatten) base) cands.length cands []

/-! ## Pre-emption requests (R410) -/

/-- R410, R412: the mode and the cost of a victim cluster. -/
def clusterMode (s : State) (bound : Nat) (ts : List Team) : PreMode × Nat :=
  match (ts.head?).bind fun t => gridOf s t.gid with
  | some g => modeFor s g ts bound
  | none => (.save, 0)

/-- R410: the rectangle with the least estimated cost, the first of equals in the order of its first core, for each of a
grid's clusters one after the other, with the victims there. -/
def chooseVictims (g : Grid) : List Nat → State → Option (List (Nat × List (List Team)))
  | [], _ => some []
  | team :: rest, s =>
    let w : Waiter := .fresh { g with nextTeam := team }
    let options := (List.range Config.cores).filterMap fun b => (victimsAt s w false b).map fun v => (b, v)
    match leastBy (fun o => (o.2.map fun ts => (clusterMode s g.record.bound ts).2).sum) options with
    | none => none
    | some o =>
      (putCluster g team o.1 (without (onceLeft s g.part) o.2.flatten)).bind fun s =>
        (chooseVictims g rest s).map fun more => o :: more

/-- R410: an accepted grid with a bound asks for space: its next cluster cannot be placed, nor will it be once the teams
that are leaving have left. -/
def asksForSpace (s : State) (g : Grid) : Bool :=
  g.phase == .placing && g.nextTeam < g.record.teams && 0 < g.record.bound && mayPlace s g.part &&
    !fitsSomewhere s g && !fitsSomewhere (onceLeft s g.part) g

/-- R410: what a grid that asks for space takes; none where no victims could free it. -/
def requestOf (s : State) (g : Grid) : Option (List (Nat × List (List Team))) :=
  if asksForSpace s g then chooseVictims g (nextClusters g) s else none

/-- R410: a request is served: its victims leave, each cluster in its mode, and the space is held back for the grid. [log
DEDUCED 90] -/
def serve (s : State) (g : Grid) (picks : List (Nat × List (List Team))) : State :=
  let t := (picks.flatMap Prod.snd).foldl (fun t ts => leave t ts (clusterMode s g.record.bound ts).1) s
  modGrid t g.gid fun g =>
    { g with rect := picks.flatMap fun o => (rectangle o.1 g.record.cw g.record.chh).getD [] }

/-- R410, R412: the victims of what a grid takes, by grid and team, each with its mode. -/
def chosenVictims (s : State) (g : Grid) (picks : List (Nat × List (List Team))) : List ((Nat × Nat) × PreMode) :=
  (picks.flatMap Prod.snd).flatMap fun ts => ts.map fun t => ((t.gid, t.team), (clusterMode s g.record.bound ts).1)

/-- PREEMPTION_REQUEST: a grid that asks for space, with the victims it chooses and their modes, is served once none that
comes before it can be; a choice that is no longer the grid's changes nothing. [log DEDUCED 90] -/
def execPreemptionRequest (victims : List (Nat × Nat)) (gid : Nat) (modes : List PreMode) (s : State) :
    Host.Outcome State Fault Refusal :=
  eventNext (match gridOf s gid with
    | none => s
    | some g =>
      if s.grids.any fun x => x.part == g.part && x.before g && (requestOf s x).isSome then s
      else
        match requestOf s g with
        | none => s
        | some picks => if (chosenVictims s g picks).unzip = (victims, modes) then serve s g picks else s)

/-- R410: the request of a grid that asks for space. -/
def requestEvent (s : State) (g : Grid) : Option Instr :=
  (requestOf s g).map fun picks =>
    .preemptionRequest (chosenVictims s g picks).unzip.1 g.gid (chosenVictims s g picks).unzip.2

/-- R410: the grids that ask for space, in class order and order of acceptance. -/
def requesters (s : State) : List Grid :=
  (List.range 4).flatMap fun cls => s.grids.filter fun g => g.record.cls == cls && asksForSpace s g

/-! ## Time slices (R415 to R417) -/

/-- R416: a rectangle where a waiter waits for the space of a team. -/
def sliceRect (s : State) (w : Waiter) (t : Team) : Option Nat :=
  (List.range Config.cores).find? fun b =>
    match victimsAt s w true b with
    | some v => v.any fun ts => ts.any (Team.isNamed t.gid t.team)
    | none => false

/-- R416: what waits for the space of a team of a class, with its rectangle: of the class or a lower number, and not helped
by the teams that are leaving. [log DEDUCED 90] -/
def sliceWanted (s : State) (cls : Nat) (t : Team) : Option (Waiter × Nat) :=
  (waitersOf s t.part).findSome? fun w =>
    if w.grid.record.cls ≤ cls && !w.fitsNow s && !w.fitsNow (onceLeft s t.part) then
      (sliceRect s w t).map fun b => (w, b)
    else none

/-- R417: the bound at a slice end: the waiting grid's, or the time slice. -/
def sliceBound (s : State) (w : Waiter) (part : Nat) : Nat :=
  if w.grid.record.bound = 0 then bits (pregs s part).tslice 0 20 else w.grid.record.bound

/-- R415: the slice of a team has ended; it stands still while its partition or its core's teams are paused. -/
def sliceOver (s : State) (t : Team) : Bool :=
  let us := bits (pregs s t.part).tslice 0 20
  us ≠ 0 && t.phase == .running && !(psched s t.part).paused && !throttled s t.core &&
    t.sliceStart + 1000 * us ≤ s.time.toNat

/-- TIME_SLICE_END: the team is pre-empted where its space is waited for; otherwise its next slice begins. [log
DESIGN CHOICE 86] -/
def execTimeSliceEnd (gid team : Nat) (s : State) : Host.Outcome State Fault Refusal :=
  eventNext (match gridOf s gid, teamOf s gid team with
    | some g, some t =>
      if sliceOver s t then
        match sliceWanted s g.record.cls t with
        | none => modTeam s gid team fun t => { t with sliceStart := s.time.toNat }
        | some (w, b) =>
          let ts := companions s g team
          modGrid (leave s ts (modeFor s g ts (sliceBound s w t.part)).1) w.grid.gid fun x =>
            { x with rect := (rectangle b x.record.cw x.record.chh).getD [] }
      else s
    | _, _ => s)

/-! ## Rates (R419) -/

/-- R419: the injection rate of a partition towards a group, in 64ths. -/
def rateOf (s : State) (part group : Nat) : Nat :=
  match s.rates.find? fun r => r.part == part && r.group == group with
  | some r => r.rate
  | none => 64

/-- A rate set; a full rate is not listed. When the next packet may go stays as it is. -/
def setRate (s : State) (part group rate : Nat) : State :=
  let mine (r : Rate) : Bool := r.part == part && r.group == group
  let next := ((s.rates.find? mine).map Rate.nextAt).getD s.time.toNat
  let others := s.rates.filter fun r => !mine r
  { s with rates := if rate = 64 then others else others ++ [⟨part, group, rate, s.time.toNat, next⟩] }

/-- R419: a congestion mark halves the rate. -/
def markRate (s : State) (part group : Nat) : State := setRate s part group (max 1 (rateOf s part group / 2))

/-- RATE_RECOVERY: 8 µs without a mark. -/
def execRateRecovery (part group : Nat) (s : State) : Host.Outcome State Fault Refusal :=
  .next (match s.rates.find? fun r => r.part == part && r.group == group with
    | none => s
    | some r => if r.marked + 8000 ≤ s.time.toNat then setRate s part group (min 64 (r.rate + 1)) else s)

/-! ## Power shedding (R420, R421) -/

/-- R420: entries of the order in use. -/
def shedCount (s : State) : Nat := min 12 (bits s.dev.shedord 48 4)

/-- R420: a partition stands in the order at one of the places from a first place up to a count of steps. -/
def shedHit (s : State) (part first steps : Nat) : Bool :=
  (List.range (shedCount s)).any fun i => bits s.dev.shedord (4 * i) 4 == part && first + i < steps

/-- R421: a time slice that stood still from a time up to another, as far as it had begun, goes on. [log DEDUCED 88] -/
def shiftSlice (since upto : Nat) (t : Team) : Team :=
  { t with sliceStart := t.sliceStart + (upto - max since t.sliceStart) }

/-- R409, R421: the slices of a partition's teams go on after a pause; on a core whose clock is still below 0.5 GHz they
stand still on that account. [log DEDUCED 88] -/
def resumeTimes (s : State) (part : Nat) : State :=
  let upto (t : Team) : Nat :=
    if throttled s t.core then (vget s.power (t.core / 8) ⟨2000, 0, 0, 0⟩).slowSince else s.time.toNat
  let go (t : Team) : Team := shiftSlice (psched s part).pausedAt (upto t) t
  { s with teams := modify (fun t => t.part == part) go s.teams }

/-- R421: an evicted partition's teams are saved. -/
def evictPart (s : State) (part : Nat) : State :=
  { s with teams := modify (fun t => t.part == part) (beginLeave s.time.toNat .save) s.teams }

/-- R420, R421: what a count of steps means for one partition. [log DEDUCED 89] -/
def applyShed (s : State) (part : Nat) : State :=
  let n := shedCount s
  let slowed := shedHit s part 0 s.shed
  let paused := shedHit s part n s.shed
  let evicted := shedHit s part (2 * n) s.shed
  let was := psched s part
  let s := if was.paused && !paused then resumeTimes s part else s
  let s := modSched s part fun p =>
    { p with
      slowed := slowed
      paused := paused
      evicted := evicted
      pausedAt := if paused && !was.paused then s.time.toNat else p.pausedAt }
  if evicted && !was.evicted then evictPart s part else s

/-- R420: the number of steps taken changes. -/
def setShed (s : State) (n : Nat) : State :=
  (List.range 12).foldl applyShed { s with shed := n, shedAt := s.time.toNat }

/-- R420: the package cap in mW. -/
def shedCap (s : State) : Nat := 1000 * bits s.dev.shedcfg 0 12

/-- R420, R498: the power measured, in mW: that of all blocks. -/
def measuredPower (s : State) : Nat := (s.power.toList.map Power.milliwatts).sum

/-- R420: one more step is due: 100 µs after the last, while the measured power exceeds the cap. -/
def shedDue (milliwatts : Nat) (s : State) : Bool :=
  shedCap s < milliwatts && s.shed < 3 * shedCount s && (s.shed == 0 || s.shedAt + 100000 ≤ s.time.toNat)

/-- R420: the last step is to be undone: 1 ms after the last change, while power is 5 % or more below the cap. -/
def undoDue (milliwatts : Nat) (s : State) : Bool :=
  100 * milliwatts ≤ 95 * shedCap s && 0 < s.shed && s.shedAt + 1000000 ≤ s.time.toNat

/-- SHED_STEP. -/
def execShedStep (milliwatts : Nat) (s : State) : Host.Outcome State Fault Refusal :=
  .next (if shedDue milliwatts s then setShed s (s.shed + 1) else s)

/-- SHED_UNDO. -/
def execShedUndo (milliwatts : Nat) (s : State) : Host.Outcome State Fault Refusal :=
  .next (if undoDue milliwatts s then setShed s (s.shed - 1) else s)

end Sys2Proof.Machine
end

