-- ==== Sys2Proof/Machine/Fabric.lean ====
section
/-! DEFINITION. Machine/Fabric.lean: packets: requests in channel order, responses and what they end, routing, resending
and timeouts (R262, R340, R387, R388, R427 to R435, R437, R527). -/
namespace Sys2Proof.Machine

/-! ## What a response ends -/

/-- A residency predicate set in lanes of a group (R262). -/
def failLanes (s : State) (core gslot : Nat) (rq : BitVec 3) (m : Mask) : State :=
  modGroup s core gslot fun g => writeQ g rq.toNat m m

/-- A remote load's lane: its value arrives, unless its registers have been written with another tag since. [log
DEDUCED 35] -/
def fillLane (s : State) (core gslot reg lane n : Nat) (t : Tag) (v : Nat) : State :=
  let regs := if n ≤ 4 then 1 else n / 4
  modGroup s core gslot fun g =>
    if reg < 120 && (List.range regs).all fun k => tagOf g (reg + k) == t then
      placeWords g (.reg reg) (BitVec.ofNat 32 (2 ^ lane)) regs n t fun _ => v
    else g

/-- A scalar register of a group written by an answer. -/
def fillScalar (s : State) (core gslot reg : Nat) (v : Nat) : State :=
  match groupAt s core gslot with
  | none => s
  | some g => writeS s (readCtx s g 0) (BitVec.ofNat 7 reg) (BitVec.ofNat 64 v)

/-- A failed remote store (R262): the predicate of its lanes, in the group that issued it. [log DEDUCED 48] -/
def failStore (gid team : Nat) (s : State) (x : Mask × Nat × Nat × BitVec 3) : State :=
  let (m, _, grpid, rq) := x
  let mine (g : Group) : Bool := g.gid == gid && g.team == team && g.grpid == grpid
  { s with groups := modify mine (fun g => writeQ g rq.toNat m m) s.groups }

/-- R263, R340: the lanes of a drained line of stores have theirs answered: each group has its completion tick, and the
team's count goes down. -/
def storeAcked (s : State) (gid team : Nat) (lanes : List (Mask × Nat × Nat × BitVec 3)) : State :=
  let tick (s : State) (x : Mask × Nat × Nat × BitVec 3) : State :=
    match s.groups.find? fun g => g.gid == gid && g.team == team && g.gslot == x.2.1 && g.grpid == x.2.2.1 with
    | some g => pushTick s g.core g.gslot
    | none => s
  answered (lanes.foldl tick s) gid team

/-- The plan operation that a token stands for fails. -/
def failToken (s : State) (ctx op : Nat) : State :=
  match planOf s ctx with
  | some x => if x.cid.isSome && x.fired.contains op && !x.finished.contains op then planDone s ctx op 3 else s
  | none => s

/-- A command's remote access is answered; a plan that waited for it alone is over (R338). -/
def cmdAnswered (s : State) (cid : Nat) : State := settleOf (modCmd s cid fun k => { k with remote := k.remote - 1 }) cid

/-- Bytes a command has asked for, or their refusal. -/
def cmdFetched (s : State) (cid : Nat) (p : Packet) (data : Option (List Byte)) : State :=
  modCmd (cmdAnswered s cid) cid fun k =>
    { k with fetched := k.fetched ++ [⟨p.dst, p.win, p.off.toNat, p.len.toNat, data⟩] }

/-- A command's write is refused: cause 1, or status 3 of its plan. -/
def cmdRefused (s : State) (cid : Nat) : State :=
  match cmdOf s cid with
  | none => s
  | some k =>
    if k.phase = .planning then cmdAnswered (planStatus s cid 3) cid
    else modCmd (cmdAnswered s cid) cid fun k => { k with cause := if k.cause = 0 then 1 else k.cause }

/-- R528: a descriptor read has come back, for the split with some lanes. -/
def descBack (r : Req) (core gslot : Nat) (m : Mask) (data : Option (List Byte)) : DescRead :=
  ⟨core, gslot, m, data, r.packet.dst, r.packet.win, r.packet.off.toNat⟩

/-- R262, R272, R276, R312, R434, R464: a request comes to a negative end. -/
def negative (s : State) (r : Req) (cause : Nat) : State :=
  match r.kind with
  | .load core gslot reg lane n t rq =>
    failLanes (fillLane s core gslot reg lane n t 0) core gslot rq (BitVec.ofNat 32 (2 ^ lane))
  | .loadS core gslot reg _ m rq => failLanes (fillScalar s core gslot reg 0) core gslot rq m
  | .store gid team lanes =>
    countFailure (storeAcked (lanes.foldl (failStore gid team) s) gid team lanes) gid team cause
  | .atomic core gslot gid team reg lane n t rq =>
    let s := match reg with
      | some d => fillLane s core gslot d lane n t 0
      | none => s
    answered (failLanes s core gslot rq (BitVec.ofNat 32 (2 ^ lane))) gid team
  | .multicast tag => failMembers s r tag cause
  | .frag => s
  | .token ctx op started _ =>
    if cause = 5 then { s with reqs := s.reqs ++ [{ r with kind := .token ctx op started true }] } else failToken s ctx op
  | .cmd cid read => if read then cmdFetched s cid r.packet none else cmdRefused s cid
  | .desc core gslot m => { s with descs := s.descs ++ [descBack r core gslot m none] }

/-- R434: SKIP names a number of a channel; it is sent again until SEQA covers the number. -/
def sendSkip (s : State) (r : Req) : State :=
  if toPod s r.dev then s
  else
  let c := chanOut s r.dev r.tclass
  let p := { mkPacket opSKIP r.tclass.toNat r.dev r.packet.ftid 0 0 4 0 (bytesOfNat 4 r.seq.toNat) with
    src := s.devid, tag := r.tag }
  { putChanOut s { c with skips := c.skips.filter (fun x => x.1 != r.seq) ++ [(r.seq, s.time.toNat)] } with
    outbox := s.outbox ++ [p] }

/-- R430: a request is answered: it is no longer outstanding, and a mark is taken notice of (R435). -/
def takeRequest (s : State) (r : Req) (p : Packet) : State :=
  let s := { s with reqs := s.reqs.erase r }
  let part := ftidPart s r.packet.ftid
  if p.mark && part < 12 then markRate s part (devGroup r.dev) else s

/-- R430, R434: a number that its packet will not bring is left to be skipped: the response that tells of it causes
nothing, and SKIP goes out 50 µs after the packet did, with those that are sent again. [log DEDUCED 94] -/
def leaveSkip (s : State) (r : Req) : State :=
  let c := chanOut s r.dev r.tclass
  putChanOut s { c with skips := c.skips.filter (fun x => x.1 != r.seq) ++ [(r.seq, r.sentAt)] }

/-- ACK: a request has been performed. A fragment that a switch on the way has taken leaves its number to be skipped at
the home device. -/
def acked (s : State) (r : Req) (p : Packet) : State :=
  match r.kind with
  | .store gid team lanes => storeAcked (takeRequest s r p) gid team lanes
  | .frag => if p.src = r.dev then takeRequest s r p else leaveSkip (takeRequest s r p) r
  | .token _ _ _ _ => takeRequest s r p
  | .cmd cid read => if read then s else cmdAnswered (takeRequest s r p) cid
  | .multicast _ => s
  | .load _ _ _ _ _ _ _ => s
  | .loadS _ _ _ _ _ _ => s
  | .atomic _ _ _ _ _ _ _ _ _ => s
  | .desc _ _ _ => s

/-- RDR: a read's bytes. -/
def readBack (s : State) (r : Req) (p : Packet) : State :=
  match r.kind with
  | .load core gslot reg lane n t _ => fillLane (takeRequest s r p) core gslot reg lane n t (natOfBytes (p.payload.take n))
  | .loadS core gslot reg n _ _ => fillScalar (takeRequest s r p) core gslot reg (natOfBytes (p.payload.take n))
  | .cmd cid read => if read then cmdFetched (takeRequest s r p) cid r.packet (some p.payload) else s
  | .desc core gslot m =>
    let s := takeRequest s r p
    { s with descs := s.descs ++ [descBack r core gslot m (some p.payload)] }
  | .store _ _ _ => s
  | .atomic _ _ _ _ _ _ _ _ _ => s
  | .multicast _ => s
  | .frag => s
  | .token _ _ _ _ => s

/-- ATR: an atomic's old value. -/
def atomicBack (s : State) (r : Req) (p : Packet) : State :=
  match r.kind with
  | .atomic core gslot gid team reg lane n t _ =>
    let s := answered (takeRequest s r p) gid team
    match reg with
    | some d => fillLane s core gslot d lane n t (natOfBytes (p.payload.take n))
    | none => s
  | .load _ _ _ _ _ _ _ => s
  | .loadS _ _ _ _ _ _ => s
  | .store _ _ _ => s
  | .multicast _ => s
  | .frag => s
  | .token _ _ _ _ => s
  | .cmd _ _ => s
  | .desc _ _ _ => s

/-- MACK: a multicast line's receipts. -/
def mackBack (s : State) (r : Req) (p : Packet) : State :=
  match r.kind with
  | .multicast tag => takeMack (takeRequest s r p) r tag p
  | .load _ _ _ _ _ _ _ => s
  | .loadS _ _ _ _ _ _ => s
  | .store _ _ _ => s
  | .atomic _ _ _ _ _ _ _ _ _ => s
  | .frag => s
  | .token _ _ _ _ => s
  | .cmd _ _ => s
  | .desc _ _ _ => s

/-- NACK. -/
def nackBack (s : State) (r : Req) (p : Packet) : State := negative (takeRequest s r p) r p.cause.toNat

/-- A token refused before waits to be sent again, and answers to it have all come. -/
def Req.refused (r : Req) : Bool :=
  match r.kind with
  | .token _ _ _ x => x
  | .load _ _ _ _ _ _ _ => false
  | .loadS _ _ _ _ _ _ => false
  | .store _ _ _ => false
  | .atomic _ _ _ _ _ _ _ _ _ => false
  | .multicast _ => false
  | .frag => false
  | .cmd _ _ => false
  | .desc _ _ _ => false

/-! ## Arrival -/

/-- R432: the receiving end of a channel; one that nothing came on starts at 0. -/
def chanIn (s : State) (dev : BitVec 14) (tclass : BitVec 2) : ChanIn :=
  (s.chansIn.find? fun c => c.dev == dev && c.tclass == tclass).getD ⟨dev, tclass, 0, [], [], 0, s.time.toNat⟩

/-- A channel's receiving end replaced. -/
def putChanIn (s : State) (c : ChanIn) : State :=
  { s with chansIn := s.chansIn.filter (fun x => !(x.dev == c.dev && x.tclass == c.tclass)) ++ [c] }

/-- R428: a request performed; none while a block it needs is under test (R489). -/
def perform (s : State) (p : Packet) : Option State :=
  if p.opcode = opRD then (if inboundBusy s p false then none else some (doRead s p))
  else if p.opcode = opTOKEN then some (doToken s p)
  else if p.opcode = opMST && p.mclass == 0#2 then some (doMst s p)
  else if inboundBusy s p true then none
  else if p.opcode = opWR then some (doWrite s p)
  else if p.opcode = opWRM then some (doWriteMasked s p)
  else if p.opcode = opATM then some (doAtomic s p)
  else if p.opcode = opFRAG then some (doFrag s p)
  else if p.opcode = opMST then some (doMst s p)
  else some s

/-- R432, R434: the packets of a channel performed in order, as far as they have come; a skipped number counts as
performed, and its packet is not performed any more. -/
def drainIn : Nat → State → BitVec 14 → BitVec 2 → State
  | 0, s, _, _ => s
  | n + 1, s, dev, tclass =>
    let c := chanIn s dev tclass
    let past (s : State) : State :=
      putChanIn s { c with
        expect := c.expect + 1
        early := c.early.filter fun p => p.seq != c.expect
        skipped := c.skipped.filter fun k => k != c.expect
        unacked := c.unacked + 1 }
    if c.skipped.contains c.expect then drainIn n (past s) dev tclass
    else
      match c.early.find? fun p => p.seq == c.expect with
      | none => s
      | some p =>
        match perform s p with
        | none => s
        | some t => drainIn n (past t) dev tclass

/-- A channel taken as far as it goes. -/
def drainChan (s : State) (dev : BitVec 14) (tclass : BitVec 2) : State :=
  let c := chanIn s dev tclass
  drainIn (c.early.length + c.skipped.length + 1) s dev tclass

/-- Every channel taken as far as it goes: a block that held one up may have passed its test. -/
def drainChans (s : State) : State := s.chansIn.foldl (fun s c => drainChan s c.dev c.tclass) s

/-- R432, R433: a number of a channel that has been performed, or has come. -/
def numberSeen (c : ChanIn) (k : BitVec 32) : Bool := decide (2 ^ 31 ≤ (k - c.expect).toNat)

/-- R441, R445: the lane group in UALink-standard that takes packets to the pod: an Active one; for a response, one that is
not yet Retrain either. -/
def podGroup (s : State) (response : Bool) : Option Nat :=
  (List.range 20).find? fun n => match s.lgs[n]? with
    | some g => g.cur == 2#3 && (g.state == 0#3 || (response && g.state.toNat ≤ 2))
    | none => false

/-- R441: the requests of the pod that are issued and served: reads, writes, atomics, and a contribution's fragments on the
way to their endpoint. -/
def podServed (op : BitVec 8) : Bool := op == opRD || op == opWR || op == opWRM || op == opATM || op == opFRAG

/-- R441: a request of the pod, for an accelerator ID that a lane group holds, takes its turn after those that came before
it: UALink has no numbers of R432. -/
def podRequest (op : BitVec 8) (p : Packet) (s : State) : State :=
  let mine := (List.range 20).any fun n => match s.lgs[n]? with
    | some g => g.cur == 2#3 && Config.acceleratorId n == p.dst
    | none => false
  if !podServed op || !mine then discardPacket s p
  else
    let c := chanIn s p.src p.tclass
    let p := { p with seq := c.expect + BitVec.ofNat 32 c.early.length }
    drainChan (putChanIn s { c with early := c.early ++ [p] }) p.src p.tclass

/-- R423, R428, R432: a request or forwarded request arrives. -/
def arriveRequest (op : BitVec 8) (p : Packet) (s : State) : State :=
  if !wellFormedPacket op p then discardPacket s p
  else if toPod s p.src then podRequest op p s
  else if p.dst ≠ s.devid then (if op = opFRAG then passFrag s p else { s with outbox := s.outbox ++ [p] })
  else
    let c := chanIn s p.src p.tclass
    if numberSeen c p.seq then putChanIn s { c with unacked := c.unacked + 1 }
    else if c.early.any fun q => q.seq == p.seq then s
    else drainChan (putChanIn s { c with early := c.early ++ [p] }) p.src p.tclass

/-- R430, R432: a response arrives; one that matches no request does nothing. -/
def arriveResponse (op : BitVec 8) (p : Packet) (k : State → Req → Packet → State) (s : State) : State :=
  if !wellFormedPacket op p then discardPacket s p
  else if p.dst ≠ s.devid && !toPod s p.src then { s with outbox := s.outbox ++ [p] }
  else
    match s.reqs.find? fun r => r.tag == p.tag && !r.refused with
    | none => s
    | some r => k s r p

/-- The number in a SEQA or a SKIP. -/
def packetNumber (p : Packet) : BitVec 32 := BitVec.ofNat 32 (natOfBytes p.payload)

/-- A number comes before another in a channel's order. -/
def before (a b : BitVec 32) : Bool := decide (2 ^ 31 ≤ (a - b).toNat)

/-- SEQA: the numbers below it have been performed, and their copies are let go. -/
def arriveSeqa (p : Packet) (s : State) : State :=
  if !wellFormedPacket opSEQA p then discardPacket s p
  else if p.dst ≠ s.devid then { s with outbox := s.outbox ++ [p] }
  else
    let n := packetNumber p
    let c := chanOut s p.src p.tclass
    let covered (q : Packet) : Bool := q.src == s.devid && q.dst == p.src && q.tclass == p.tclass && q.mclass != 2#2 &&
      q.opcode != opSKIP && before q.seq n
    let s := putChanOut s { c with
      kept := c.kept.filter fun x => !before x.1.seq n
      skips := c.skips.filter fun x => !before x.1 n }
    { s with ports := s.ports.map fun x => { x with retry := x.retry.filter fun q => !covered q.1 } }

/-- SKIP: its number counts as performed once every earlier one is. -/
def arriveSkip (p : Packet) (s : State) : State :=
  if !wellFormedPacket opSKIP p then discardPacket s p
  else if p.dst ≠ s.devid then { s with outbox := s.outbox ++ [p] }
  else
    let c := chanIn s p.src p.tclass
    let k := packetNumber p
    if numberSeen c k || c.skipped.contains k then putChanIn s { c with unacked := c.unacked + 1 }
    else drainChan (putChanIn s { c with skipped := c.skipped ++ [k] }) p.src p.tclass

/-- RD. -/
def execRd (p : Packet) (s : State) : Host.Outcome State Fault Refusal := eventNext (arriveRequest opRD p s)
/-- WR. -/
def execWr (p : Packet) (s : State) : Host.Outcome State Fault Refusal := eventNext (arriveRequest opWR p s)
/-- WRM. -/
def execWrm (p : Packet) (s : State) : Host.Outcome State Fault Refusal := eventNext (arriveRequest opWRM p s)
/-- ATM. -/
def execAtmPacket (p : Packet) (s : State) : Host.Outcome State Fault Refusal := eventNext (arriveRequest opATM p s)
/-- FRAG. -/
def execFrag (p : Packet) (s : State) : Host.Outcome State Fault Refusal := eventNext (arriveRequest opFRAG p s)
/-- MST_PACKET. -/
def execMstPacket (p : Packet) (s : State) : Host.Outcome State Fault Refusal := eventNext (arriveRequest opMST p s)
/-- TOKEN. -/
def execToken (p : Packet) (s : State) : Host.Outcome State Fault Refusal := eventNext (arriveRequest opTOKEN p s)
/-- ACK. -/
def execAck (p : Packet) (s : State) : Host.Outcome State Fault Refusal := eventNext (arriveResponse opACK p acked s)
/-- NACK. -/
def execNack (p : Packet) (s : State) : Host.Outcome State Fault Refusal := eventNext (arriveResponse opNACK p nackBack s)
/-- RDR. -/
def execRdr (p : Packet) (s : State) : Host.Outcome State Fault Refusal := eventNext (arriveResponse opRDR p readBack s)
/-- ATR. -/
def execAtr (p : Packet) (s : State) : Host.Outcome State Fault Refusal := eventNext (arriveResponse opATR p atomicBack s)
/-- MACK. -/
def execMack (p : Packet) (s : State) : Host.Outcome State Fault Refusal := eventNext (arriveResponse opMACK p mackBack s)
/-- SEQA. -/
def execSeqa (p : Packet) (s : State) : Host.Outcome State Fault Refusal := eventNext (arriveSeqa p s)
/-- SKIP. -/
def execSkip (p : Packet) (s : State) : Host.Outcome State Fault Refusal := eventNext (arriveSkip p s)

/-- A packet that comes to its own device. [log DEDUCED 98] -/
def deliverHere (p : Packet) (s : State) : State :=
  if p.opcode = opACK then arriveResponse opACK p acked s
  else if p.opcode = opNACK then arriveResponse opNACK p nackBack s
  else if p.opcode = opRDR then arriveResponse opRDR p readBack s
  else if p.opcode = opATR then arriveResponse opATR p atomicBack s
  else if p.opcode = opMACK then arriveResponse opMACK p mackBack s
  else if p.opcode = opSEQA then arriveSeqa p s
  else if p.opcode = opSKIP then arriveSkip p s
  else arriveRequest p.opcode p s

/-! ## Routing (R429, R431, R435) -/

/-- R424: the Fallos-local lane groups, ascending. -/
def localGroups (s : State) : List Nat :=
  (List.range 20).filter fun n => match s.lgs[n]? with
    | some g => g.cur == 1#3
    | none => false

/-- R431, R436: a port that takes packets. -/
def portUsable (s : State) (i : Nat) : Bool :=
  match s.ports[i]? with
  | some p => p.state == .up && p.routing
  | none => false

/-- R424, R426: the local port that reaches a member, where it can be used. -/
def localHop (s : State) (mem : Nat) : Option Nat :=
  let w := vget s.ltab mem 0
  let lgs := localGroups s
  if !w.getLsbD 7 || mem == s.devid.toNat % 32 then none
  else
    match (List.range lgs.length).find? fun k => lgs[k]? == some (bits w 0 5) with
    | none => none
    | some k => if portUsable s (4 * k + bits w 5 2) && k < 8 then some (4 * k + bits w 5 2) else none

/-- R425: the ways towards a group: its optical port when this device holds the link, else the member that does. -/
def globalHop (s : State) (h : Nat) (mayLocal : Bool) : Option Nat :=
  let w := vget s.gtab h 0
  if !w.getLsbD 9 || h == devGroup s.devid then none
  else if bits w 0 5 = s.devid.toNat % 32 then (if portUsable s (32 + bits w 5 4) then some (32 + bits w 5 4) else none)
  else if mayLocal then localHop s (bits w 0 5)
  else none

/-- R429: global hops taken, and local hops taken in this group, by a packet at this switch. [log DESIGN CHOICE 97] -/
def hopsTaken (s : State) (p : Packet) : Nat × Nat :=
  let r := p.rank.toNat
  if p.src = s.devid then (0, 0)
  else if devGroup p.src = devGroup s.devid then (0, r + 1)
  else if r ≤ 1 then (r + 1, 0)
  else (r / 2, r % 2 + 1)

/-- R429, R431: the ports a packet may leave by. -/
def routePorts (s : State) (p : Packet) : List Nat :=
  let (g, c) := hopsTaken s p
  let gd := devGroup p.dst
  if gd = devGroup s.devid then
    let direct := (localHop s (p.dst.toNat % 32)).toList
    if c = 0 then (direct ++ (List.range 32).filterMap (localHop s)).eraseDups else direct
  else
    let minimal := (globalHop s gd (c == 0)).toList
    if g = 0 then (minimal ++ (List.range 512).filterMap fun h => globalHop s h (c == 0)).eraseDups
    else if g = 1 then minimal
    else []

/-- R429: the rank of the next hop by a port. [log DESIGN CHOICE 97] -/
def nextRank (s : State) (p : Packet) (port : Nat) : BitVec 3 :=
  let (g, c) := hopsTaken s p
  BitVec.ofNat 3 (if 32 ≤ port then g else 2 * g + c)

/-! ## Virtual channels, classes and rates (R418, R419, R429, R435) -/

/-- R429: the credits in use on an output virtual channel. -/
def Port.used (x : Port) (m : BitVec 2) (rank : BitVec 3) : Nat :=
  ((x.vcs.find? fun v => v.mclass == m && v.rank == rank).map VChan.used).getD 0

/-- R429: a channel's credits set; a channel that uses none is not listed. -/
def Port.setUsed (x : Port) (m : BitVec 2) (rank : BitVec 3) (n : Nat) : Port :=
  let others := x.vcs.filter fun v => !(v.mclass == m && v.rank == rank)
  { x with vcs := if n = 0 then others else others ++ [⟨m, rank, n⟩] }

/-- R429: the other end of every link gives some credits back; how many, and when, is left open. [log DESIGN CHOICE
129] -/
def creditsBack (s : State) : State :=
  let back (i : Nat) (x : Port) : Port := { x with
    vcs := (x.vcs.map fun v => { v with used := v.used - (Config.freeAt s.freeCtr
      (64 * i + 8 * v.mclass.toNat + v.rank.toNat)).toNat % (v.used + 1) }).filter fun v => v.used != 0 }
  if s.ports.toList.all fun x => x.vcs.isEmpty then s
  else { s with freeCtr := s.freeCtr + 1, ports := Vector.ofFn fun i : Fin 48 => back i.val (vget s.ports i.val Port.absent) }

/-- R427: bytes of a packet. -/
def packetBytes (p : Packet) : Nat := 32 + p.payload.length

/-- R4, R438: how long a port's link takes for some bytes, in ns: a x2 local port, or an optical one. -/
def linkTime (port n : Nat) : Nat := if 32 ≤ port then (n + 99) / 100 else (80 * n + 4249) / 4250

/-- R418: a tenth of what a port's link carries in 1 µs, in bytes. -/
def linkReserve (port : Nat) : Nat := if 32 ≤ port then 10000 else 5312

/-- R418: the class-0 bytes a port has sent in the last µs. -/
def Port.spentNow (x : Port) (now : Nat) : Nat := ((x.spent.filter fun y => now < y.1 + 1000).map Prod.snd).sum

/-- R418: a class-0 packet is within the reserve of its class at a port. [log DEDUCED 135] -/
def inReserve (s : State) (p : Packet) (port : Nat) : Bool :=
  p.tclass == 0#2 && decide ((vget s.ports port Port.absent).spentNow s.time.toNat + packetBytes p ≤ linkReserve port)

/-- R418: a class-0 packet beyond the reserve, carried as class 1 at its source port. [log DEDUCED 135] -/
def carriedAs1 (s : State) (p : Packet) (port : Nat) : Bool :=
  p.tclass == 0#2 && p.src == s.devid && !inReserve s p port

/-- R418: the order in which a port serves packets: the reserve, then class by class; within class 1, its own packets
and class-0 ones carried with them take turns. [log DEDUCED 135] -/
def serveKey (s : State) (p : Packet) (port : Nat) : Nat :=
  if inReserve s p port then 0
  else
    let last := (vget s.ports port Port.absent).turn1
    if carriedAs1 s p port then (if last then 4 else 3)
    else if p.tclass = 1#2 then (if last then 3 else 4)
    else 2 * p.tclass.toNat + 2

/-- R418, R429: a port can take a packet now: its link is free, and the channel has a credit. -/
def portTakes (s : State) (p : Packet) (port : Nat) : Bool :=
  let x := vget s.ports port Port.absent
  decide (x.busyTill ≤ s.time.toNat) && decide (x.used p.mclass (nextRank s p port) < Config.moreCredits + 1)

/-- R419: a request of this device may be injected now, at its partition's rate towards the group it goes to. -/
def rateAllows (s : State) (p : Packet) : Bool :=
  p.src != s.devid || p.mclass != 0#2 ||
    (s.rates.find? fun r => r.part == ftidPart s p.ftid && r.group == devGroup p.dst).all fun r => r.nextAt ≤ s.time.toNat

/-- R419: a request injected by a port puts the next one of its partition and group off by the time its rate asks for. -/
def noteInjected (s : State) (p : Packet) (port : Nat) : State :=
  if p.src != s.devid || p.mclass != 0#2 then s
  else
    let mine (r : Rate) : Bool := r.part == ftidPart s p.ftid && r.group == devGroup p.dst
    let put (r : Rate) : Rate := { r with nextAt := s.time.toNat + linkTime port (packetBytes p) * 64 / r.rate }
    { s with rates := modify mine put s.rates }

/-- A packet leaves by a port: its link is taken up, a credit of its channel used, and the retry buffer keeps it, while the
other end has acknowledged some of what it holds, which is left open. A channel that holds more than three quarters of its
credits marks a request (R435). [log DESIGN CHOICE 129] -/
def leavePort (s : State) (p : Packet) (port : Nat) : State :=
  let x := vget s.ports port Port.absent
  let rank := nextRank s p port
  let mark := p.mclass == 0#2 && decide (3 * (Config.moreCredits + 1) < 4 * x.used p.mclass rank)
  let q := { p with rank := rank, mark := p.mark || mark }
  let now := s.time.toNat
  let done : Nat := (Config.freeValue (s.freeCtr + 1)).toNat % (x.retry.length + 1)
  let part := ftidPart s p.ftid
  let carried := carriedAs1 s p port
  let x' : Port := { x.setUsed p.mclass rank (x.used p.mclass rank + 1) with
    retry := x.retry.drop done ++ [(p, q)]
    busyTill := now + linkTime port (packetBytes p)
    spent := if p.tclass = 0#2 then (x.spent.filter fun y => now < y.1 + 1000) ++ [(now, packetBytes p)] else x.spent
    turn1 := if p.tclass = 1#2 then false else carried || x.turn1 }
  let s := if mark then tap s (1729 + 2 * port) 0 (if part < 12 then part else 15) p.ftid.toNat else s
  noteInjected { s with ports := vset s.ports port x' } p port

/-- R431: no path remains: the transaction ends with cause 4; its number is skipped, since its packet is never sent.
[log DEDUCED 95] -/
def noPath (s : State) (p : Packet) : State :=
  if p.mclass = 2#2 || p.opcode = opSKIP then s
  else if p.src ≠ s.devid then respond s p opNACK 4 []
  else
    match s.reqs.find? fun r => r.tag == p.tag && !r.refused with
    | none => s
    | some r => sendSkip (negative { s with reqs := s.reqs.erase r } r 4) r

/-- R433: the number is within 512 of the lowest one not acknowledged. [log DEDUCED 98] -/
def inWindow (s : State) (p : Packet) : Bool :=
  p.src != s.devid || p.mclass == 2#2 || p.opcode == opSKIP ||
    (match (chanOut s p.dst p.tclass).kept with
      | [] => true
      | (q, _) :: _ => decide ((p.seq - q.seq).toNat ≤ 512))

/-- R441, R445: a packet to the pod leaves by a lane group in UALink-standard; one that none takes, or that UALink
has no place for, has no path. [log DESIGN CHOICE 130] -/
def leavePod (s : State) (p : Packet) : State :=
  match podGroup s (p.mclass == 2#2) with
  | none => noPath s p
  | some n =>
    if p.mclass == 2#2 || podServed p.opcode then
      let done (g : LaneGroup) : Nat := (Config.freeValue (s.freeCtr + 1)).toNat % (g.sent.length + 1)
      let q := { p with src := Config.acceleratorId n }
      { s with
        reqs := modify (fun r => r.tag == p.tag && p.mclass != 2#2) (fun r => { r with via := some n }) s.reqs
        lgs := match s.lgs[n]? with
          | some g => vset s.lgs n { g with sent := g.sent.drop (done g) ++ [q] }
          | none => s.lgs }
    else noPath s p

/-- The port a packet takes: the one named, or the first that can take it; none while it has to wait. -/
def portFor (s : State) (p : Packet) (port : Option Nat) : Option Nat :=
  (routePorts s p).find? fun i => (port.all fun n => n == i) && portTakes s p i

/-- A packet taken to the port chosen, or the first that takes it where none is named; it stays while it has to wait. [log
DESIGN CHOICE 97] -/
def routeOne (s : State) (p : Packet) (port : Option Nat) : State :=
  if (!s.outbox.contains p && p.src == s.devid) || !inWindow s p then s
  else
    let t := { s with outbox := s.outbox.erase p }
    if toPod s p.dst then leavePod t p
    else if p.dst = s.devid then deliverHere p t
    else if (routePorts s p).isEmpty then noPath t p
    else if !rateAllows s p then s
    else
      match portFor s p port with
      | some i => leavePort t p i
      | none => s

/-- R418: the place of a packet among those that can leave now; none while it has to wait. -/
def leaveKey (s : State) (p : Packet) : Option Nat :=
  if !inWindow s p then none
  else if toPod s p.dst || p.dst = s.devid || (routePorts s p).isEmpty then some 0
  else if !rateAllows s p then none
  else (portFor s p none).map (serveKey s p)

/-- R418: the packet that leaves next. -/
def nextPacket (s : State) : Option Packet :=
  leastBy (fun p => (leaveKey s p).getD 0) (s.outbox.filter fun p => (leaveKey s p).isSome)

/-- PACKET_ROUTE. [log DEDUCED 98] -/
def execPacketRoute (p : Packet) (port : Option Nat) (s : State) : Host.Outcome State Fault Refusal :=
  eventNext (routeOne s p port)

/-! ## Acknowledging, resending, timeouts (R433, R434) -/

/-- R433: how long a packet waits before it is sent again, in ns. -/
def resendAfter : Nat := 50000

/-- SEQA_SEND: a channel's receiver says how far it has come. [log DEDUCED 94] -/
def execSeqaSend (dev tclass : Nat) (s : State) : Host.Outcome State Fault Refusal :=
  .next (
    let c := chanIn s (BitVec.ofNat 14 dev) (BitVec.ofNat 2 tclass)
    if c.unacked = 0 || toPod s c.dev then s
    else
      let p := { mkPacket opSEQA tclass c.dev 0 0 0 4 0 (bytesOfNat 4 c.expect.toNat) with mclass := 2, src := s.devid }
      { putChanIn s { c with unacked := 0, lastSeqa := s.time.toNat } with outbox := s.outbox ++ [p] })

/-- PACKET_RESEND: the packets of a channel that no SEQA has covered for 50 µs; numbers SKIP names are left out. -/
def execPacketResend (dev tclass : Nat) (s : State) : Host.Outcome State Fault Refusal :=
  .next (
    let c := chanOut s (BitVec.ofNat 14 dev) (BitVec.ofNat 2 tclass)
    let now := s.time.toNat
    let late (x : Packet × Nat) : Bool := decide (x.2 + resendAfter ≤ now) && !s.outbox.contains x.1 &&
      !(c.skips.any fun y => y.1 == x.1.seq)
    let again := (c.kept.filter late).map Prod.fst
    if again.isEmpty then s
    else
      let c' := { c with kept := c.kept.map fun x => if late x then (x.1, now) else x }
      { putChanOut s c' with outbox := s.outbox ++ again })

/-- REQUEST_TIMEOUT: 2 ms without a response count as a negative acknowledgement with cause 3. -/
def execRequestTimeout (tag : BitVec 32) (s : State) : Host.Outcome State Fault Refusal :=
  .next (match s.reqs.find? fun r => r.tag == tag && !r.refused with
    | none => s
    | some r =>
      if r.sentAt + receiptLimit ≤ s.time.toNat then sendSkip (negative { s with reqs := s.reqs.erase r } r 3) r else s)

/-- SKIP_RESEND: the SKIP of the request with a tag, again after 50 µs. -/
def execSkipResend (tag : BitVec 32) (s : State) : Host.Outcome State Fault Refusal :=
  .next (
    let due (c : ChanOut) : Option (Packet × Nat) := c.kept.find? fun x => x.1.tag == tag &&
      c.skips.any fun y => y.1 == x.1.seq && decide (y.2 + resendAfter ≤ s.time.toNat)
    match s.chansOut.findSome? due with
    | none => s
    | some (p, _) => sendSkip s ⟨p.tag, .frag, p.dst, p.tclass, p.seq, s.time.toNat, p, none⟩)

/-- TOKEN_RESEND: a refused token goes again until the sender's token timeout, and then its plan fails. -/
def execTokenResend (tag : BitVec 32) (s : State) : Host.Outcome State Fault Refusal :=
  .next (match s.reqs.find? fun r => r.tag == tag && r.refused with
    | none => s
    | some r =>
      match r.kind with
      | .token ctx op started _ =>
        let t := { s with reqs := s.reqs.erase r }
        match planOf s ctx with
        | none => t
        | some x =>
          if started + 1000 * x.timeout ≤ s.time.toNat then failToken t ctx op
          else request t (.token ctx op started false) r.packet
      | .load _ _ _ _ _ _ _ => s
      | .loadS _ _ _ _ _ _ => s
      | .store _ _ _ => s
      | .atomic _ _ _ _ _ _ _ _ _ => s
      | .multicast _ => s
      | .frag => s
      | .cmd _ _ => s
      | .desc _ _ _ => s)

/-- R527: chrst written; with go every channel to and from a device starts at 0 again, and what was kept for
them counts negative with cause 3. -/
def chrstWrite (s : State) (value : BitVec 64) : State :=
  let dev := BitVec.ofNat 14 (bits value 0 14)
  let s := { s with dev := { s.dev with chrst := dev.setWidth 64 } }
  if !value.getLsbD 16 then s
  else
    let lost := s.reqs.filter fun r => r.dev == dev && !r.refused
    let mine (p : Packet) : Bool := p.src == s.devid && p.dst == dev && p.mclass != 2#2
    let t := { s with
      reqs := s.reqs.filter fun r => r.dev != dev || r.refused
      chansOut := s.chansOut.filter fun c => c.dev != dev
      chansIn := s.chansIn.filter fun c => c.dev != dev
      outbox := s.outbox.filter fun p => !mine p }
    lost.foldl (fun s r => negative s r 3) t

/-- CHANNEL_RESET: a write of chrst; with go every channel to and from a device starts at 0 again, and what was kept for
them counts negative with cause 3. -/
def execChannelReset (value : BitVec 64) (s : State) : Host.Outcome State Fault Refusal :=
  .next (chrstWrite s value)

end Sys2Proof.Machine
end

