-- ==== Sys2Proof/Machine/LaneFloat.lean ====
section
/-! DEFINITION. Machine/LaneFloat.lean: the lane floating-point instructions (R181 to R188). -/
namespace Sys2Proof.Machine

/-- R182: the rounding mode a pfx names. -/
def rmW (w : LaneW) : Rm := rmOf w.pfx.operand.x
/-- R182: the rounding mode a pfx names. -/
def rmU (w : LaneU) : Rm := rmOf w.pfx.operand.x

/-- A floating-point row on elements of a tag class: sources of one tag, the result in a's. [log DEDUCED 25] -/
def fltSem (cls : Tag → Bool) (f : Flt → Nat → Nat → Nat → Nat × Flags) : LaneSem where
  src := cls
  ok ta tb tc := sameTag ta tb && sameTag ta tc
  res ta _ := ta
  wideB := true
  fn ta _ x y z := mapElemsF ta (f (fltOf ta)) x y z

/-! ## Arithmetic (R181) -/

/-- Round(x + y). -/
def faddElem (rm : Rm) (f : Flt) (x y : Nat) : Nat × Flags :=
  roundWith f rm [x, y] (xadd rm (f.decode x) (f.decode y))
/-- Round(x − y). -/
def fsubElem (rm : Rm) (f : Flt) (x y : Nat) : Nat × Flags :=
  roundWith f rm [x, y] (xadd rm (f.decode x) (f.decode y).negate)
/-- Round(x × y). -/
def fmulElem (rm : Rm) (f : Flt) (x y : Nat) : Nat × Flags :=
  roundWith f rm [x, y] (xmul (f.decode x) (f.decode y))
/-- Round(x ÷ y); a result that is infinite by definition follows R87. -/
def fdivElem (rm : Rm) (f : Flt) (x y : Nat) : Nat × Flags :=
  roundWith f rm [x, y] (xdiv (f.decode x) (f.decode y))
/-- Round(x × y + z), the product not rounded; 0 × ∞ sets NV whatever z holds. -/
def ffmaElem (rm : Rm) (f : Flt) (x y z : Nat) : Nat × Flags :=
  let p := xmul (f.decode x) (f.decode y)
  let r := xadd rm p.1 (f.decode z)
  roundWith f rm [x, y, z] (r.1, p.2 ||| r.2)

/-- FADD. -/
def execFadd (w : LaneW) (s : State) : Host.Outcome State Fault Refusal :=
  runLane (.fadd w) (fltSem isFlt fun f x y _ => faddElem (rmW w) f x y) s
/-- FSUB. -/
def execFsub (w : LaneW) (s : State) : Host.Outcome State Fault Refusal :=
  runLane (.fsub w) (fltSem isFlt fun f x y _ => fsubElem (rmW w) f x y) s
/-- FMUL. -/
def execFmul (w : LaneW) (s : State) : Host.Outcome State Fault Refusal :=
  runLane (.fmul w) (fltSem isFlt fun f x y _ => fmulElem (rmW w) f x y) s
/-- FFMA. -/
def execFfma (w : LaneW) (s : State) : Host.Outcome State Fault Refusal :=
  runLane (.ffma w) (fltSem isFlt fun f x y z => ffmaElem (rmW w) f x y z) s
/-- FDIV. -/
def execFdiv (w : LaneW) (s : State) : Host.Outcome State Fault Refusal :=
  runLane (.fdiv w) (fltSem isFltW fun f x y _ => fdivElem (rmW w) f x y) s

/-! ## Roots, reciprocals, integral values and scaling (R182 to R184) -/

/-- fsqrt. -/
def fsqrtElem (rm : Rm) (f : Flt) (x : Nat) : Nat × Flags :=
  match f.decode x with
  | .nan => (f.nanCode, snanFlag f [x])
  | .inf true => (f.nanCode, flagNV)
  | .inf false => f.infResult false
  | .fin n m e _ =>
    if m = 0 then (x, 0) else if n then (f.nanCode, flagNV) else f.round rm (sqrtFin m e)

/-- frcp. -/
def frcpElem (rm : Rm) (f : Flt) (x : Nat) : Nat × Flags :=
  match f.decode x with
  | .nan => (f.nanCode, snanFlag f [x])
  | .inf n => (f.zeroEnc n, 0)
  | .fin n m e _ => if m = 0 then poleResult f n else f.round rm (divFin n 1 0 m e)

/-- frsq. -/
def frsqElem (rm : Rm) (f : Flt) (x : Nat) : Nat × Flags :=
  match f.decode x with
  | .nan => (f.nanCode, snanFlag f [x])
  | .inf true => (f.nanCode, flagNV)
  | .inf false => (f.zeroEnc false, 0)
  | .fin n m e _ =>
    if m = 0 then poleResult f n else if n then (f.nanCode, flagNV) else f.round rm (rsqrtFin m e)

/-- frint: an integral value of x's sign; no flag but NV for a signalling NaN. -/
def frintElem (rm : Rm) (f : Flt) (x : Nat) : Nat × Flags :=
  match f.decode x with
  | .nan => (f.nanCode, snanFlag f [x])
  | .inf _ => (x, 0)
  | .fin n m e st =>
    if m = 0 then (x, 0)
    else if 0 ≤ e then (x, 0)
    else
      let k := (roundTo n m e st 0 rm).1
      if k = 0 then (f.zeroEnc n, 0) else ((f.round .rn (.fin n k 0 false)).1, 0)

/-- fscale: Round(x × 2^n). -/
def fscaleElem (rm : Rm) (f : Flt) (x : Nat) (n : Int) : Nat × Flags :=
  match f.decode x with
  | .nan => (f.nanCode, snanFlag f [x])
  | .inf s => f.infResult s
  | .fin s m e st => if m = 0 then (f.zeroEnc s, 0) else f.round rm (.fin s m (e + n) st)

/-- FSQRT. -/
def execFsqrt (w : LaneU) (s : State) : Host.Outcome State Fault Refusal :=
  runLane (.fsqrt w) (fltSem isFltW fun f x _ _ => fsqrtElem (rmU w) f x) s
/-- FRCP. -/
def execFrcp (w : LaneU) (s : State) : Host.Outcome State Fault Refusal :=
  runLane (.frcp w) (fltSem isFltW fun f x _ _ => frcpElem (rmU w) f x) s
/-- FRSQ. -/
def execFrsq (w : LaneU) (s : State) : Host.Outcome State Fault Refusal :=
  runLane (.frsq w) (fltSem isFltW fun f x _ _ => frsqElem (rmU w) f x) s
/-- FRINT. -/
def execFrint (w : LaneU) (s : State) : Host.Outcome State Fault Refusal :=
  runLane (.frint w) (fltSem isFltW fun f x _ _ => frintElem (rmU w) f x) s

/-- FSCALE (R184): b is I32 beside FP32 and FP64, I16x2 beside FP16x2 and BF16x2, and always one register. -/
def execFscale (w : LaneW) (s : State) : Host.Outcome State Fault Refusal :=
  runLane (.fscale w)
    { src := isFltW
      ok := fun ta tb _ => sameTag (if count ta = 1 then 1#6 else 7#6) tb
      res := fun ta _ => ta
      wideB := false
      fn := fun ta _ x y _ =>
        let tn : Tag := if count ta = 1 then 1#6 else 7#6
        let r := (List.range (count ta)).map fun e =>
          fscaleElem (rmW w) (fltOf ta) (elem ta x e) (intOf true (ewidth tn) (elem tn y e))
        (BitVec.ofNat 64 (joinElems (ewidth ta) (r.map Prod.fst)), r.foldl (fun F x => F ||| x.2) 0) } s

/-! ## Minimum and maximum (R185) -/

/-- fmin, fmax (p false) and fminp, fmaxp (p true): one operand's code, or the canonical NaN. -/
def fminmaxElem (isMax p : Bool) (f : Flt) (x y : Nat) : Nat × Flags :=
  let F := snanFlag f [x, y]
  if f.isNaN x then (if p && !f.isNaN y then y else f.nanCode, F)
  else if f.isNaN y then (if p then x else f.nanCode, F)
  else
    let less := if isMax then xlt true (f.decode x) (f.decode y) else xlt true (f.decode y) (f.decode x)
    (if less then y else x, F)

/-- FMIN. -/
def execFmin (w : LaneW) (s : State) : Host.Outcome State Fault Refusal :=
  runLane (.fmin w) (fltSem isFlt fun f x y _ => fminmaxElem false false f x y) s
/-- FMAX. -/
def execFmax (w : LaneW) (s : State) : Host.Outcome State Fault Refusal :=
  runLane (.fmax w) (fltSem isFlt fun f x y _ => fminmaxElem true false f x y) s
/-- FMINP. -/
def execFminp (w : LaneW) (s : State) : Host.Outcome State Fault Refusal :=
  runLane (.fminp w) (fltSem isFlt fun f x y _ => fminmaxElem false true f x y) s
/-- FMAXP. -/
def execFmaxp (w : LaneW) (s : State) : Host.Outcome State Fault Refusal :=
  runLane (.fmaxp w) (fltSem isFlt fun f x y _ => fminmaxElem true true f x y) s

/-! ## Comparison and classes (R186, R187) -/

/-- R139, R186: an fcmp condition on two codes, with NV. -/
def fcmpElem (k : Nat) (f : Flt) (x y : Nat) : Bool × Flags :=
  let un := f.isNaN x || f.isNaN y
  let X := f.decode x
  let Y := f.decode y
  let S := snanFlag f [x, y]
  let ordered (b : Bool) : Bool × Flags := if un then (false, S ||| flagNV) else (b, S)
  match k with
  | 0 => (!un && xeq X Y, S)
  | 1 => (un || !xeq X Y, S)
  | 2 => ordered (xlt false X Y)
  | 3 => ordered (!xlt false Y X)
  | 4 => ordered (xlt false Y X)
  | 5 => ordered (!xlt false X Y)
  | 6 => (un, S)
  | _ => (!un, S)

/-- FCMP (R186): every element must meet the condition; the flags are ORed. -/
def execFcmp (w : LaneW) (s : State) : Host.Outcome State Fault Refusal :=
  runCompare (.fcmp w) isFlt
    (fun k t x y =>
      let r := (List.range (count t)).map fun e => fcmpElem k (fltOf t) (elem t x e) (elem t y e)
      (r.all fun z => z.1, r.foldl (fun F z => F ||| z.2) 0)) s

/-- R187: the class code of an element. -/
def classOf (f : Flt) (x : Nat) : Nat :=
  if f.isSNaN x then 8
  else
    match f.decode x with
    | .nan => 9
    | .inf n => if n then 0 else 7
    | .fin n m e _ =>
      if m = 0 then (if n then 3 else 4)
      else
        let sub := decide ((Nat.log2 m : Int) + e < f.emin)
        if n then (if sub then 2 else 1) else (if sub then 5 else 6)

/-- FCLASS (R187): a U32 word of class codes; an FP64 pair gives one register. -/
def execFclass (w : LaneU) (s : State) : Host.Outcome State Fault Refusal :=
  runLane (.fclass w)
    { src := isFlt, ok := fun _ _ _ => true, res := fun _ _ => 0, wideB := true
      fn := fun ta _ x _ _ =>
        (BitVec.ofNat 64 (joinElems 4 ((List.range (count ta)).map fun e => classOf (fltOf ta) (elem ta x e))), 0) } s

/-! ## Sign operations (R188) -/

/-- fabs of a code. -/
def fabsElem (f : Flt) (x : Nat) : Nat :=
  if f.b8 then (if !f.signed || x = 0x80 then x else x % 0x80) else x % 2 ^ (f.bits - 1)
/-- fneg of a code. -/
def fnegElem (f : Flt) (x : Nat) : Nat :=
  if f.b8 then (if x % 0x80 = 0 then x else x ^^^ 0x80) else x ^^^ 2 ^ (f.bits - 1)
/-- fcpsgn of two codes. -/
def fcpsgnElem (f : Flt) (x y : Nat) : Nat :=
  let sgn := y / 2 ^ (f.bits - 1) % 2 * 2 ^ (f.bits - 1)
  if f.b8 && x % 0x80 = 0 then x else x % 2 ^ (f.bits - 1) + sgn

/-- FABS. -/
def execFabs (w : LaneU) (s : State) : Host.Outcome State Fault Refusal :=
  runLane (.fabs w) (fltSem isFlt fun f x _ _ => (fabsElem f x, 0)) s
/-- FNEG. -/
def execFneg (w : LaneU) (s : State) : Host.Outcome State Fault Refusal :=
  runLane (.fneg w) (fltSem (fun t => isFlt t && !isB8u t) fun f x _ _ => (fnegElem f x, 0)) s
/-- FCPSGN. -/
def execFcpsgn (w : LaneW) (s : State) : Host.Outcome State Fault Refusal :=
  runLane (.fcpsgn w) (fltSem (fun t => isFlt t && !isB8u t) fun f x y _ => (fcpsgnElem f x y, 0)) s

/-! ## 16-bit forms (R127) -/

/-- FADD_C16. -/
def execFaddC16 (w : HalfW) (s : State) : Host.Outcome State Fault Refusal := execFadd (halfW w) s
/-- FSUB_C16. -/
def execFsubC16 (w : HalfW) (s : State) : Host.Outcome State Fault Refusal := execFsub (halfW w) s
/-- FMUL_C16. -/
def execFmulC16 (w : HalfW) (s : State) : Host.Outcome State Fault Refusal := execFmul (halfW w) s
/-- FMIN_C16. -/
def execFminC16 (w : HalfW) (s : State) : Host.Outcome State Fault Refusal := execFmin (halfW w) s
/-- FMAX_C16. -/
def execFmaxC16 (w : HalfW) (s : State) : Host.Outcome State Fault Refusal := execFmax (halfW w) s
/-- FNEG_C16. -/
def execFnegC16 (w : HalfW) (s : State) : Host.Outcome State Fault Refusal := execFneg (halfU w) s

end Sys2Proof.Machine
end

