-- ==== Sys2Proof/Machine/LaneConvert.lean ====
section
/-! DEFINITION. Machine/LaneConvert.lean: conversions, packing, unpacking and retagging (R189 to R193). -/
namespace Sys2Proof.Machine

/-- R189, R190: one element of tag ta converted to the element format of T. -/
def convertElem (rm : Rm) (ta T : Tag) (x : Nat) : Nat × Flags :=
  if isFlt T then
    let (c, F) := (fltOf T).round rm (decodeElem ta x)
    (c, F ||| (if isFlt ta then snanFlag (fltOf ta) [x] else 0))
  else if isFlt ta then toInt (isSigned T) (ewidth T) rm ((fltOf ta).decode x)
  else (patOf (ewidth T) (clampInt (isSigned T) (ewidth T) (intOf (isSigned ta) (ewidth ta) x)), 0)

/-- R189: the elements both tags have are converted; any further element is zero. -/
def convertWord (rm : Rm) (ta T : Tag) (x : Dword) : Dword × Flags :=
  let r := (List.range (Min.min (count ta) (count T))).map fun e => convertElem rm ta T (elem ta x e)
  (BitVec.ofNat 64 (joinElems (ewidth T) (r.map Prod.fst)), r.foldl (fun F z => F ||| z.2) 0)

/-- A conversion to the tag in field b, of sources of a class. [log DEDUCED 25] -/
def cvtSem (w : LaneW) (cls : Tag → Bool) : LaneSem where
  src := cls
  ok _ _ _ := true
  res _ _ := w.b.setWidth 6
  wideB := true
  fn ta _ x _ _ := convertWord (rmW w) ta (w.b.setWidth 6) x

/-- CVT. -/
def execCvt (w : LaneW) (s : State) : Host.Outcome State Fault Refusal := runLane (.cvt w) (cvtSem w isFlt) s
/-- CVTI. -/
def execCvti (w : LaneW) (s : State) : Host.Outcome State Fault Refusal := runLane (.cvti w) (cvtSem w tagOk) s
/-- CVTF. -/
def execCvtf (w : LaneW) (s : State) : Host.Outcome State Fault Refusal := runLane (.cvtf w) (cvtSem w isInt) s

/-! ## pk (R191) -/

/-- How many registers a stream of h elements of tag t reads: whole registers, or pairs for FP64. -/
def streamRegs (t : Tag) (h : Nat) : Nat :=
  if isF64 t then 2 * h else (h + count t - 1) / count t

/-- Element e of the stream that starts at an operand, in a lane. -/
def streamElem (c : Ctx) (t : Tag) (x : Src) (e l : Nat) : Nat :=
  let k := e / count t
  match x with
  | .reg n => elem t (srcVal c (isF64 t) (.reg (n + (if isF64 t then 2 else 1) * k)) l) (e % count t)
  | .none => 0
  | .latch j => elem t (srcVal c (isF64 t) (.latch j) l) (e % count t)
  | .zero => 0
  | .lane => elem t (srcVal c (isF64 t) .lane l) (e % count t)
  | .imm v => elem t (srcVal c (isF64 t) (.imm v) l) (e % count t)
  | .scalar v => elem t (srcVal c (isF64 t) (.scalar v) l) (e % count t)

/-- The operand is a register, which a stream of several registers needs. -/
def isRegSrc : Src → Bool
  | .reg _ => true
  | .none => false
  | .latch _ => false
  | .zero => false
  | .lane => false
  | .imm _ => false
  | .scalar _ => false

/-- Every register of a stream carries the tag. -/
def streamTags (c : Ctx) (t : Tag) (x : Src) (n : Nat) : Bool :=
  match x with
  | .reg r => (List.range n).all fun i => tagOf c.g (r + i) == t
  | .none => true
  | .latch k => sameTag t (srcTag c (.latch k))
  | .zero => true
  | .lane => true
  | .imm _ => true
  | .scalar _ => true

/-- R28, R49, R191: some pair that a stream of h elements of tag t reads is broken. -/
def brokenStream (c : Ctx) (t : Tag) (x : Src) (h : Nat) : Bool :=
  brokenPair c false x || (isF64 t && (List.range h).any fun j => match x with
    | .reg r => brokenPair c true (.reg (r + 2 * j))
    | .none => false
    | .latch _ => false
    | .zero => false
    | .lane => false
    | .imm _ => false
    | .scalar _ => false)

/-- PK (R191): half the elements from each source stream, converted to the target in rn. [log DEDUCED 27] -/
def execPk (w : LaneW) (s : State) : Host.Outcome State Fault Refusal :=
  runCore (.pk w) s fun c p f o => do
    let T := p.operand.x
    let ta := tagA c o
    let h := count T / 2
    let n := streamRegs ta h
    let many := if isF64 ta then 2 < n else 1 < n
    let M := activeMask c p.operand f.guard
    need (!((many && !(isRegSrc o.a && isRegSrc o.b)) || oddPair (isF64 ta) o.a ||
      oddPair (isF64 ta || carriesF64 c o.b) o.b)) causeIllegalOperand c.mask
    need (heldSpan c.g o.d 1 && heldSpan c.g o.a n && heldSpan c.g o.b n) causeRegisterBounds c.mask
    need (!(brokenStream c ta o.a h || brokenStream c ta o.b h)) causeFormatMismatch M
    let chk ← checkFmt c (tagOk ta && streamTags c ta o.a n && streamTags c ta o.b n) M
    match chk with
    | .masked => return writeMasked s c f.chain M
    | .ok =>
      let r (l : Nat) : List (Nat × Flags) :=
        ((List.range h).map fun e => convertElem .rn ta T (streamElem c ta o.a e l)) ++
          ((List.range h).map fun e => convertElem .rn ta T (streamElem c ta o.b e l))
      return writeResult s c f.chain o.d M
        (fun l => BitVec.ofNat 64 (joinElems (ewidth T) ((r l).map Prod.fst))) T
        (fun l => (r l).foldl (fun F z => F ||| z.2) 0)

/-! ## upk and retag (R192, R193) -/

/-- R192: the tag upk gives. -/
def upkTag (ta : Tag) : Tag := if isFlt ta then 2 else if isSigned ta then 1 else 0

/-- UPK: element e widened to one 32-bit element; a single-element tag, which a code of R124 counts as, does not
do (R192). [log DEDUCED 25] -/
def execUpk (w : LaneW) (s : State) : Host.Outcome State Fault Refusal :=
  runLane (.upk w)
    { src := fun _ => true
      ok := fun ta _ _ => isPacked ta && w.b.toNat < count ta
      res := fun ta _ => upkTag ta
      wideB := true
      fn := fun ta _ x _ _ =>
        let (v, F) := convertElem .rn ta (upkTag ta) (elem ta x w.b.toNat)
        (BitVec.ofNat 64 v, F) } s

/-- RETAG: the words unchanged under a new tag; an FP64 source or target names a pair, whose halves are not checked.
The upper word that a latch of a 32-bit result supplies is a free value; zero, the lane index and an immediate are read as
64-bit values. [log DESIGN CHOICE 121] -/
def execRetag (w : LaneW) (s : State) : Host.Outcome State Fault Refusal :=
  runCore (.retag w) s fun c p f o => do
    let T : Tag := w.b.setWidth 6
    let wide := isF64 T || carriesF64 c o.a
    let M := activeMask c p.operand f.guard
    need (!(oddPair wide o.a || oddPair wide o.d)) causeIllegalOperand c.mask
    need (heldSpan c.g o.d (if wide then 2 else 1) && heldSpan c.g o.a (if wide then 2 else 1))
      causeRegisterBounds c.mask
    let low := wide && !carriesF64 c o.a && (srcTag c o.a).isSome && !isRegSrc o.a
    let x (l : Nat) : Dword :=
      if low then (openLane s l).1.extractLsb' 32 32 ++ (srcVal c false o.a l).setWidth 32 else srcVal c wide o.a l
    let g := match o.d with
      | .reg n =>
        if wide then writeV1 (writeV1 c.g n M (loWords x) T) (n + 1) M (hiWords x) T else writeV1 c.g n M (loWords x) T
      | .none => c.g
      | .latch _ => c.g
      | .zero => c.g
      | .lane => c.g
      | .imm _ => c.g
      | .scalar _ => c.g
    return putGroup s (advanceGroup s c f.chain (some (makeLatch g o.d M x T)) g)

end Sys2Proof.Machine
end

