-- ==== Sys2Proof/Machine/LaneExchange.lean ====
section
/-! DEFINITION. Machine/LaneExchange.lean: values that cross the lanes of a split: exchange, vote, match and the lane
reductions (R211 to R218). -/
namespace Sys2Proof.Machine

/-- What sets an exchange apart: the tags it takes, its result's tag, and a lane's result and flags from the active
mask and every lane's values of a and b. -/
structure CrossSem where
  src : Tag → Bool
  ok : Tag → Option Tag → Bool
  res : Tag → Tag
  fn : Mask → Tag → (Nat → Dword) → (Nat → Dword) → Nat → Dword × Flags

/-- R196: an instruction of one source row whose lanes read one another; b is a 32-bit operand. -/
def runCross (i : Instr) (sem : CrossSem) (s : State) : Host.Outcome State Fault Refusal :=
  runCore i s fun c p f o => do
    let ta := tagA c o
    let M := activeMask c p.operand f.guard
    let t := sem.res ta
    let chk ← laneChecks c o M t (isF64 ta) false (passesA c o sem.src && sem.ok ta (srcTag c o.b))
    match chk with
    | .masked => return writeMasked s c f.chain M
    | .ok =>
      let r := sem.fn M ta (srcVal c (isF64 ta) o.a) (srcVal c false o.b)
      let x (l : Nat) : Dword × Flags := if sem.src ta then r l else openLane s l
      return writeResult s c f.chain o.d M (fun l => (x l).1) t (fun l => (x l).2)

/-- The tags of R70: every register and latch carries one. -/
def anyTag (_ : Tag) : Bool := true

/-- Any source b. -/
def anyB (_ : Tag) (_ : Option Tag) : Bool := true

/-- The value of lane k where it is active, else a lane's own. -/
def fromLane (M : Mask) (x : Nat → Dword) (k l : Nat) : Dword := if M.getLsbD k then x k else x l

/-- SWPP (R211): lane L XOR δ. -/
def execSwpp (w : LaneW) (s : State) : Host.Outcome State Fault Refusal :=
  runCross (.swpp w) ⟨anyTag, anyB, fun t => t, fun M _ x _ l => (fromLane M x (l ^^^ 2 ^ w.b.toNat) l, 0)⟩ s

/-- SHFL (R212): lane b[4:0]. -/
def execShfl (w : LaneW) (s : State) : Host.Outcome State Fault Refusal :=
  runCross (.shfl w)
    ⟨anyTag, fun _ tb => tagIn isInt32 tb, fun t => t, fun M _ x y l => (fromLane M x ((y l).toNat % 32) l, 0)⟩ s

/-- RFAL (R213): the lowest active lane. -/
def execRfal (w : LaneU) (s : State) : Host.Outcome State Fault Refusal :=
  runCross (.rfal w) ⟨anyTag, anyB, fun t => t, fun M _ x _ l => (fromLane M x (lowestLane M) l, 0)⟩ s

/-- BCAST (R213): lane k, or zero where it is not active. -/
def execBcast (w : LaneW) (s : State) : Host.Outcome State Fault Refusal :=
  runCross (.bcast w)
    ⟨anyTag, anyB, fun t => t, fun M _ x _ _ => (if M.getLsbD w.b.toNat then x w.b.toNat else 0, 0)⟩ s

/-- MATCH (R215): the active lanes whose bits equal this lane's. -/
def execMatchLanes (w : LaneU) (s : State) : Host.Outcome State Fault Refusal :=
  runCross (.matchLanes w)
    ⟨anyTag, anyB, fun _ => 0, fun M _ x _ l => ((maskOf fun k => M.getLsbD k && x k == x l).setWidth 64, 0)⟩ s

/-! ## vote (R214) -/

/-- The source predicate in the active lanes. -/
def voteBits (c : Ctx) (a : BitVec 7) (M : Mask) : Mask := vget c.g.q a.toNat 0 &&& M

/-- VOTE_ANY. -/
def execVoteAny (w : LaneU) (s : State) : Host.Outcome State Fault Refusal :=
  runCore (.voteAny w) s fun c p f _ =>
    let M := activeMask c p.operand f.guard
    .ok (writePred s c f.chain w.d.toNat M (if voteBits c w.a M = 0 then 0 else BitVec.allOnes 32) fun _ => 0)
/-- VOTE_ALL. -/
def execVoteAll (w : LaneU) (s : State) : Host.Outcome State Fault Refusal :=
  runCore (.voteAll w) s fun c p f _ =>
    let M := activeMask c p.operand f.guard
    .ok (writePred s c f.chain w.d.toNat M (if voteBits c w.a M = M then BitVec.allOnes 32 else 0) fun _ => 0)
/-- VOTE_BALLOT. -/
def execVoteBallot (w : LaneU) (s : State) : Host.Outcome State Fault Refusal :=
  runCore (.voteBallot w) s fun c p f o => do
    let M := activeMask c p.operand f.guard
    need (heldSpan c.g o.d 1) causeRegisterBounds c.mask
    return writeResult s c f.chain o.d M (fun _ => (voteBits c w.a M).setWidth 64) 0 (fun _ => 0)

/-! ## redl (R217, R218) -/

/-- R218: the tags redl.sum accepts. -/
def redlSumTag (t : Tag) : Bool := t == 1#6 || isFltW t
/-- R218: the tags redl.max and redl.min accept. -/
def redlMinMaxTag (t : Tag) : Bool := redlSumTag t || t == 0#6 || isB8 t

/-- R217: the root at each element position, and the status. -/
def redlWord (op : RedOp) (M : Mask) (t : Tag) (x : Nat → Dword) : Dword × Flags :=
  let r := (List.range (count t)).map fun e =>
    let (root, F) := reduceElems op t ((List.range 32).map fun l => if M.getLsbD l then some (elem t (x l) e) else none)
    (root.getD (redIdentity op t), F)
  (BitVec.ofNat 64 (joinElems (ewidth t) (r.map Prod.fst)), r.foldl (fun F z => F ||| z.2) 0)

/-- A lane reduction. -/
def redlSem (op : RedOp) (ok : Tag → Bool) : CrossSem :=
  ⟨ok, anyB, fun t => t, fun M t x _ _ => redlWord op M t x⟩

/-- REDL_SUM. -/
def execRedlSum (w : LaneU) (s : State) : Host.Outcome State Fault Refusal :=
  runCross (.redlSum w) (redlSem .sum redlSumTag) s
/-- REDL_MAX. -/
def execRedlMax (w : LaneU) (s : State) : Host.Outcome State Fault Refusal :=
  runCross (.redlMax w) (redlSem .max redlMinMaxTag) s
/-- REDL_MIN. -/
def execRedlMin (w : LaneU) (s : State) : Host.Outcome State Fault Refusal :=
  runCross (.redlMin w) (redlSem .min redlMinMaxTag) s

end Sys2Proof.Machine
end

