-- ==== Sys2Proof/Machine/Lantern.lean ====
section
/-! DEFINITION. Machine/Lantern.lean: the Lantern coprocessor: its owners and resources, filter instructions,
invocations, triggers, traces, commands and publication (R466 to R482). -/
namespace Sys2Proof.Machine

/-! ## Owners and resources (R469) -/

/-- R469: an owner's lnresa. -/
def lnResA (s : State) (owner : Nat) : Dword := if owner < 12 then (pregs s owner).lnresa else s.dev.lnresa
/-- R469: an owner's lnresb. -/
def lnResB (s : State) (owner : Nat) : Dword := if owner < 12 then (pregs s owner).lnresb else s.dev.lnresb

/-- The kinds of resource. -/
inductive LnRes where
  | filter | attach | hist | sketch | trig | trace
  deriving DecidableEq, Repr

/-- R468: how many of a resource there are. -/
def LnRes.total : LnRes → Nat
  | .filter => 64
  | .attach => 256
  | .hist => 256
  | .sketch => 64
  | .trig => 64
  | .trace => 16

/-- R469: the base and count of an owner's range. -/
def lnRange (s : State) (owner : Nat) (r : LnRes) : Nat × Nat :=
  let a := lnResA s owner
  let b := lnResB s owner
  match r with
  | .filter => (bits a 0 6, bits a 6 7)
  | .attach => (bits a 13 8, bits a 21 9)
  | .hist => (bits a 30 8, bits a 38 9)
  | .sketch => (bits a 47 6, bits a 53 7)
  | .trig => (bits b 0 6, bits b 6 7)
  | .trace => (bits b 13 4, bits b 17 5)

/-- The kinds of resource, listed. -/
def lnKinds : List LnRes := [.filter, .attach, .hist, .sketch, .trig, .trace]

/-- R469: an owner's ranges overlap another's, or run past the resource's end. [log DEDUCED 107] -/
def lnRangesBad (s : State) (owner : Nat) : Bool :=
  lnKinds.any fun r =>
    let (b, n) := lnRange s owner r
    decide (r.total < b + n) || (List.range 13).any fun o =>
      let (c, m) := lnRange s o r
      o != owner && 0 < n && 0 < m && b < c + m && c < b + n

/-- R469: the number of a resource an owner names by a local index. -/
def lnIndex (s : State) (owner : Nat) (r : LnRes) (i : Nat) : Option Nat :=
  let (b, n) := lnRange s owner r
  if i < n then some (b + i) else none

/-- R469: an owner's budget. -/
def lnBudget (s : State) (owner : Nat) : Nat := bits (lnResB s owner) 22 14

/-! ## Lantern's memory -/

/-- Lantern changed. -/
def modLn (s : State) (f : Lantern → Lantern) : State := { s with lantern := f s.lantern }

/-- An owner's part of Lantern. -/
def lnOwner (s : State) (o : Nat) : LnOwner := vget s.lantern.owners o LnOwner.reset

/-- An owner's part of Lantern changed. -/
def modOwner (s : State) (o : Nat) (f : LnOwner → LnOwner) : State :=
  modLn s fun l => { l with owners := vset l.owners o (f (vget l.owners o LnOwner.reset)) }

/-- A loaded filter. -/
def lnFilter (s : State) (i : Nat) : Option LnFilter := s.lantern.filters.find? fun f => f.idx == i

/-- A filter changed. -/
def modFilter (s : State) (i : Nat) (f : LnFilter → LnFilter) : State :=
  modLn s fun l => { l with filters := modify (fun x => x.idx == i) f l.filters }

/-- A counter of a histogram. -/
def histAt (s : State) (h c : Nat) : Dword :=
  match s.lantern.hist.find? fun x => x.1 == h && x.2.1 == c with
  | some x => x.2.2
  | none => 0

/-- A counter of a histogram set; one that is zero is not listed. -/
def putHist (s : State) (h c : Nat) (v : Dword) : State :=
  modLn s fun l =>
    let others := l.hist.filter fun x => !(x.1 == h && x.2.1 == c)
    { l with hist := if v = 0 then others else others ++ [(h, c, v)] }

/-- A counter of a sketch. -/
def sketchAt (s : State) (k c : Nat) : Word :=
  match s.lantern.sketch.find? fun x => x.1 == k && x.2.1 == c with
  | some x => x.2.2
  | none => 0

/-- A counter of a sketch set; one that is zero is not listed. -/
def putSketch (s : State) (k c : Nat) (v : Word) : State :=
  modLn s fun l =>
    let others := l.sketch.filter fun x => !(x.1 == k && x.2.1 == c)
    { l with sketch := if v = 0 then others else others ++ [(k, c, v)] }

/-- R473: SkRow. -/
def skRow (s : State) (k i : Nat) (key : Dword) : Nat :=
  let seeds := match s.lantern.seeds.find? fun x => x.1 == k with
    | some x => x.2
    | none => []
  let x := (key ^^^ seeds.getD i 0) * 0x9E37_79B9_7F4A_7C15#64
  bits (x ^^^ (x >>> 29)) 54 10

/-- A trace buffer. -/
def lnTrace (s : State) (i : Nat) : LnTrace :=
  (s.lantern.traces.find? fun t => t.idx == i).getD ⟨i, false, 0, []⟩

/-- A trace buffer replaced. -/
def putTrace (s : State) (t : LnTrace) : State :=
  modLn s fun l => { l with traces := l.traces.filter (fun x => x.idx != t.idx) ++ [t] }

/-- R479: a record appended to a trace buffer that is not frozen. -/
def record (s : State) (i : Nat) (r : TraceRec) : State :=
  let t := lnTrace s i
  if t.frozen then s
  else putTrace s { t with next := (t.next + 1) % 2048, recs := t.recs.filter (fun x => x.1 != t.next) ++ [(t.next, r)] }

/-! ## Triggers (R478) -/

/-- R475: the e2 word of an event. -/
def eventWord (e : TapEv) : Dword :=
  BitVec.ofNat 64 (e.source.toNat + e.kind.toNat * 2 ^ 11 + e.part.toNat * 2 ^ 21)

/-- R488: an owner's Lantern notification: cause 1 of its virtual function, or of the physical function for owner 12.
[log DEDUCED 107] -/
def lnNotify (s : State) (owner : Nat) : State :=
  raiseVector s (if owner < 12 then bits (pregs s owner).pctl 8 8 else 256) 1

/-- R478: an entry in an owner's event ring; the ring never holds more than 256. -/
def ringEntry (s : State) (owner : Nat) (e : RingEntry) : State :=
  modOwner s owner fun o =>
    { o with
      overruns := if o.ring.any fun x => x.1 == o.ringNext then o.overruns + 1 else o.overruns
      ring := o.ring.filter (fun x => x.1 != o.ringNext) ++ [(o.ringNext, e)]
      ringNext := (o.ringNext + 1) % 256 }

/-- R478: `trig` on a trigger: it fires, when it is armed, and is disarmed. -/
def fireTrigger (s : State) (r : LnRun) (t : Nat) (value : Dword) : State :=
  match s.lantern.trigs.find? fun x => x.idx == t with
  | none => s
  | some x =>
    if !x.armed then s
    else
      let s := modLn s fun l => { l with
        trigs := modify (fun y => y.idx == t) (fun y => { y with armed := false, firedAt := s.time.toNat }) l.trigs }
      let w := eventWord r.ev
      let own := t - (lnRange s x.owner .trig).1
      let s := if x.actions.getLsbD 0 then
          lnNotify (ringEntry s x.owner ⟨r.ev.time, w, value, BitVec.ofNat 64 own⟩) x.owner
        else s
      match x.trace with
      | none => s
      | some b =>
        let s := if x.actions.getLsbD 2 then
            record s b ⟨r.ev.time, w ||| 0x8000_0000#64, r.ev.payload.setWidth 64, value⟩
          else s
        if x.actions.getLsbD 1 then putTrace s { lnTrace s b with frozen := true } else s

/-- TRIGGER_REARM: the hold-off time has passed since the trigger fired. -/
def execTriggerRearm (idx : Nat) (s : State) : Host.Outcome State Fault Refusal :=
  .next (modLn s fun l => { l with
    trigs := modify (fun t => t.idx == idx && t.hold != 0 && !t.armed && decide (t.firedAt + 1000 * t.hold ≤ s.time.toNat))
      (fun t => { t with armed := true }) l.trigs })

/-! ## Invocations (R474 to R477) -/

/-- R475: an invocation of a filter for an event. -/
def LnRun.start (f : LnFilter) (e : TapEv) : LnRun :=
  ⟨f.idx, f.owner, e, 0, ((Vector.replicate 16 0).set 0 (e.payload.setWidth 64)).set 1 e.time |>.set 2 (eventWord e), 0⟩

/-- R477: the invocations still to run: each starts when its owner's bucket holds the filter's length, or is skipped. -/
def startTodo : List (Nat × TapEv) → State → State
  | [], s => modLn s fun l => { l with todo := [], run := none }
  | (i, e) :: rest, s =>
    match lnFilter s i with
    | none => startTodo rest s
    | some f =>
      if f.code.length ≤ (lnOwner s f.owner).bucket then
        modLn s fun l => { l with todo := rest, run := some (LnRun.start f e) }
      else
        startTodo rest (modOwner (modFilter s i fun f => { f with skips := f.skips + 1 }) f.owner fun o =>
          { o with skipped := o.skipped + 1 })

/-- R477: an invocation ends: what it executed is taken from the bucket, and the next one starts. -/
def endRun (s : State) (r : LnRun) : State :=
  let s := modOwner s r.owner fun o =>
    { o with bucket := o.bucket - r.executed, executed := o.executed + BitVec.ofNat 64 r.executed }
  startTodo s.lantern.todo s

/-- R472: the invocation goes on at an instruction; reaching L ends it. -/
def goOn (s : State) (r : LnRun) (pc : Nat) : State :=
  let r := { r with pc := pc, executed := r.executed + 1 }
  match lnFilter s r.filter with
  | none => endRun s r
  | some f => if pc < f.code.length then modLn s fun l => { l with run := some r } else endRun s r

/-- A filter instruction of the running invocation; without one nothing runs it. -/
def runFilter (s : State) (f : LnRun → State × LnRun × Nat) : Host.Outcome State Fault Refusal :=
  match s.lantern.run with
  | none => .fault .noIssuer
  | some r =>
    let (t, r', pc) := f r
    .next (goOn t r' pc)

/-- An e register. -/
def LnRun.get (r : LnRun) (i : BitVec 4) : Dword := vget r.e i.toNat 0
/-- An e register written. -/
def LnRun.put (r : LnRun) (i : BitVec 4) (v : Dword) : LnRun := { r with e := vset r.e i.toNat v }

/-- A filter instruction that writes ed and falls through. -/
def filterResult (s : State) (d : BitVec 4) (v : LnRun → Dword) : Host.Outcome State Fault Refusal :=
  runFilter s fun r => (s, r.put d (v r), r.pc + 1)

/-- R472: a binding's object: its number where the filter binds it. -/
def bound (s : State) (r : LnRun) (k : LnRes) (bs : LnFilter → List (BitVec 8)) (i : Nat) : Option Nat :=
  match lnFilter s r.filter with
  | none => none
  | some f =>
    match (bs f)[i]? with
    | none => none
    | some b => if b = 0xFF#8 then none else lnIndex s r.owner k b.toNat

/-- FILTER_END. -/
def execFilterEnd (s : State) : Host.Outcome State Fault Refusal :=
  match s.lantern.run with
  | none => .fault .noIssuer
  | some r => .next (endRun s { r with executed := r.executed + 1 })

/-- FILTER_ADD. -/
def execFilterAdd (b a d : BitVec 4) (s : State) : Host.Outcome State Fault Refusal :=
  filterResult s d fun r => r.get a + r.get b
/-- FILTER_SUB. -/
def execFilterSub (b a d : BitVec 4) (s : State) : Host.Outcome State Fault Refusal :=
  filterResult s d fun r => r.get a - r.get b
/-- FILTER_MUL. -/
def execFilterMul (b a d : BitVec 4) (s : State) : Host.Outcome State Fault Refusal :=
  filterResult s d fun r => r.get a * r.get b
/-- FILTER_AND. -/
def execFilterAnd (b a d : BitVec 4) (s : State) : Host.Outcome State Fault Refusal :=
  filterResult s d fun r => r.get a &&& r.get b
/-- FILTER_OR. -/
def execFilterOr (b a d : BitVec 4) (s : State) : Host.Outcome State Fault Refusal :=
  filterResult s d fun r => r.get a ||| r.get b
/-- FILTER_XOR. -/
def execFilterXor (b a d : BitVec 4) (s : State) : Host.Outcome State Fault Refusal :=
  filterResult s d fun r => r.get a ^^^ r.get b
/-- FILTER_SHL: 0 from a count of 64 on. -/
def execFilterShl (b a d : BitVec 4) (s : State) : Host.Outcome State Fault Refusal :=
  filterResult s d fun r => if 64 ≤ (r.get b).toNat then 0 else r.get a <<< (r.get b).toNat
/-- FILTER_SHR. -/
def execFilterShr (b a d : BitVec 4) (s : State) : Host.Outcome State Fault Refusal :=
  filterResult s d fun r => if 64 ≤ (r.get b).toNat then 0 else r.get a >>> (r.get b).toNat
/-- FILTER_MIN. -/
def execFilterMin (b a d : BitVec 4) (s : State) : Host.Outcome State Fault Refusal :=
  filterResult s d fun r => if (r.get b).toNat < (r.get a).toNat then r.get b else r.get a
/-- FILTER_MAX. -/
def execFilterMax (b a d : BitVec 4) (s : State) : Host.Outcome State Fault Refusal :=
  filterResult s d fun r => if (r.get a).toNat < (r.get b).toNat then r.get b else r.get a

/-- The bits of a value from its highest set one down; 0 for 0. -/
def bitLength (x : Dword) : Nat := if x = 0 then 0 else Nat.log2 x.toNat + 1

/-- FILTER_CLZ. -/
def execFilterClz (a d : BitVec 4) (s : State) : Host.Outcome State Fault Refusal :=
  filterResult s d fun r => BitVec.ofNat 64 (64 - bitLength (r.get a))
/-- FILTER_ADDI. -/
def execFilterAddi (imm : BitVec 14) (a d : BitVec 4) (s : State) : Host.Outcome State Fault Refusal :=
  filterResult s d fun r => r.get a + imm.signExtend 64
/-- FILTER_ANDI. -/
def execFilterAndi (imm : BitVec 14) (a d : BitVec 4) (s : State) : Host.Outcome State Fault Refusal :=
  filterResult s d fun r => r.get a &&& imm.setWidth 64
/-- FILTER_SHLI. -/
def execFilterShli (n : BitVec 6) (a d : BitVec 4) (s : State) : Host.Outcome State Fault Refusal :=
  filterResult s d fun r => r.get a <<< n.toNat
/-- FILTER_SHRI. -/
def execFilterShri (n : BitVec 6) (a d : BitVec 4) (s : State) : Host.Outcome State Fault Refusal :=
  filterResult s d fun r => r.get a >>> n.toNat
/-- FILTER_MOVI. -/
def execFilterMovi (imm : BitVec 14) (d : BitVec 4) (s : State) : Host.Outcome State Fault Refusal :=
  filterResult s d fun _ => imm.signExtend 64
/-- FILTER_LDK. -/
def execFilterLdk (k d : BitVec 4) (s : State) : Host.Outcome State Fault Refusal :=
  filterResult s d fun r => match lnFilter s r.filter with
    | some f => f.consts.getD k.toNat 0
    | none => 0
/-- FILTER_LDST. -/
def execFilterLdst (k d : BitVec 4) (s : State) : Host.Outcome State Fault Refusal :=
  filterResult s d fun r => match lnFilter s r.filter with
    | some f => f.words.getD k.toNat 0
    | none => 0
/-- FILTER_STST. -/
def execFilterStst (k a : BitVec 4) (s : State) : Host.Outcome State Fault Refusal :=
  runFilter s fun r =>
    (modFilter s r.filter fun f => { f with words := f.words.set k.toNat (r.get a) }, r, r.pc + 1)
/-- FILTER_LBKT. -/
def execFilterLbkt (a d : BitVec 4) (s : State) : Host.Outcome State Fault Refusal :=
  filterResult s d fun r => BitVec.ofNat 64 (min 63 (bitLength (r.get a)))

/-- FILTER_HADD. -/
def execFilterHadd (h b a : BitVec 4) (s : State) : Host.Outcome State Fault Refusal :=
  runFilter s fun r =>
    let t := match bound s r .hist LnFilter.hist h.toNat with
      | none => s
      | some x =>
        let c := bits (r.get a) 0 6
        putHist s x c (BitVec.ofNat 64 (min ((histAt s x c).toNat + (r.get b).toNat) (2 ^ 64 - 1)))
    (t, r, r.pc + 1)

/-- FILTER_KADD. -/
def execFilterKadd (k : BitVec 2) (b a : BitVec 4) (s : State) : Host.Outcome State Fault Refusal :=
  runFilter s fun r =>
    let t := match bound s r .sketch LnFilter.sketch k.toNat with
      | none => s
      | some x => (List.range 4).foldl (fun s i =>
          let c := 1024 * i + skRow s x i (r.get a)
          putSketch s x c (BitVec.ofNat 32 (min ((sketchAt s x c).toNat + bits (r.get b) 0 32) (2 ^ 32 - 1)))) s
    (t, r, r.pc + 1)

/-- FILTER_KEST. -/
def execFilterKest (k : BitVec 2) (a d : BitVec 4) (s : State) : Host.Outcome State Fault Refusal :=
  filterResult s d fun r => match bound s r .sketch LnFilter.sketch k.toNat with
    | none => 0
    | some x => BitVec.ofNat 64 ((List.range 4).foldl (fun m i =>
        min m (sketchAt s x (1024 * i + skRow s x i (r.get a))).toNat) (2 ^ 32))

/-- A branch: skip n where the condition holds. -/
def filterSkip (s : State) (n : BitVec 7) (p : LnRun → Bool) : Host.Outcome State Fault Refusal :=
  runFilter s fun r => (s, r, if p r then r.pc + 1 + n.toNat else r.pc + 1)

/-- FILTER_BEQ. -/
def execFilterBeq (n : BitVec 7) (b a : BitVec 4) (s : State) : Host.Outcome State Fault Refusal :=
  filterSkip s n fun r => r.get a == r.get b
/-- FILTER_BNE. -/
def execFilterBne (n : BitVec 7) (b a : BitVec 4) (s : State) : Host.Outcome State Fault Refusal :=
  filterSkip s n fun r => r.get a != r.get b
/-- FILTER_BLTU. -/
def execFilterBltu (n : BitVec 7) (b a : BitVec 4) (s : State) : Host.Outcome State Fault Refusal :=
  filterSkip s n fun r => decide ((r.get a).toNat < (r.get b).toNat)

/-- FILTER_TRIG. -/
def execFilterTrig (t : BitVec 2) (a : BitVec 4) (s : State) : Host.Outcome State Fault Refusal :=
  runFilter s fun r =>
    let s := match bound s r .trig LnFilter.trigs t.toNat with
      | none => s
      | some x => fireTrigger s r x (r.get a)
    (s, r, r.pc + 1)

/-! ## Events at the taps (R466, R467, R474, R476) -/

/-- TAP_EVENT: an event of a source whose event the steps of the model do not make. [log DEDUCED 109] -/
def execTapEvent (e : TapEv) (s : State) : Host.Outcome State Fault Refusal :=
  .next (let n := e.source.toNat
    if 2016 ≤ n && n < 2047 then s
    else tap s n (if n = 2047 then e.kind.toNat else 0) e.part.toNat e.payload.toNat)

/-- R467: the sources that are sampled. -/
def sampled (n : Nat) : Bool := (n < 1536 && n % 8 == 7) || (1824 ≤ n && n < 2016)

/-- TAP_SAMPLE: a sample of a source, which belongs to no partition. [log DEDUCED 109] -/
def execTapSample (e : TapEv) (s : State) : Host.Outcome State Fault Refusal :=
  .next (if sampled e.source.toNat then tap s e.source.toNat 0 15 e.payload.toNat else s)

/-- R474: an event matches an attachment. -/
def LnAttach.matches' (a : LnAttach) (e : TapEv) : Bool :=
  let n := e.source.toNat
  decide (a.lo ≤ n) && decide (n ≤ a.hi) && (n - a.lo) % a.step == 0 && (e.kind &&& a.mask) == (a.value &&& a.mask) &&
    (a.owner == 12 || e.part.toNat == a.owner)

/-- The attachments in ascending number. -/
def sortedAttaches (l : Lantern) : List LnAttach :=
  (List.range 256).filterMap fun i => l.attaches.find? fun a => a.idx == i

/-- R474, R477, R479: an event is admitted: traced for every attachment it matches, and each filter named invoked
once. [log DEDUCED 108] -/
def admitEvent (s : State) (e : TapEv) : State :=
  let as := (sortedAttaches s.lantern).filter fun a => a.matches' e
  let s := as.foldl (fun s a => match a.trace with
    | some b => record s b ⟨e.time, eventWord e, e.payload.setWidth 64, 0⟩
    | none => s) s
  startTodo ((as.map LnAttach.filter).eraseDups.map fun i => (i, e)) s

/-- Lantern does its work: no invocation is running or still to run, and its block is not under test (R489). [log
DEDUCED 108] -/
def lnIdle (s : State) : Bool := s.lantern.run.isNone && s.lantern.todo.isEmpty && !underTest s 3492

/-- FILTER_INVOCATION: the oldest event of a source is admitted. [log DEDUCED 109] -/
def execFilterInvocation (source : Nat) (s : State) : Host.Outcome State Fault Refusal :=
  .next (match s.lantern.taps.find? fun e => e.source.toNat == source with
    | none => s
    | some e => if lnIdle s then admitEvent (modLn s fun l => { l with taps := l.taps.erase e }) e else s)

/-- BUCKET_REFILL: the whole µs that have gone by. [log DEDUCED 108] -/
def execBucketRefill (s : State) : Host.Outcome State Fault Refusal :=
  .next (
    let us := s.time.toNat / 1000
    let n := us - s.lantern.refilled
    let fill (s : State) (o : Nat) : State :=
      modOwner s o fun x => { x with bucket := min (8 * lnBudget s o) (x.bucket + n * lnBudget s o) }
    modLn ((List.range 13).foldl fill s) fun l => { l with refilled := max us l.refilled })

/-! ## Commands (R480) -/

/-- R480: an owner's lncmd. -/
def lnCmd (s : State) (owner : Nat) : Dword := if owner < 12 then (pregs s owner).lncmd else s.dev.lncmd

/-- An owner's lncmd written. -/
def putLnCmd (s : State) (owner : Nat) (v : Dword) : State :=
  if owner < 12 then modPregs s owner fun r => { r with lncmd := v } else { s with dev := { s.dev with lncmd := v } }

/-- A range of memory that Lantern can read or write. -/
def lnMem (s : State) (a n : Nat) : Bool :=
  isMem s a && isMem s (a + n - 1) && !(poisoned s a n)

/-- What a command comes to: its status, and the state after it. -/
abbrev LnEnd := Nat × State

/-- The command ends: go reads 0, and status says how. -/
def lnFinish (owner : Nat) (e : LnEnd) : State :=
  let c := lnCmd e.2 owner
  putLnCmd e.2 owner (setBits (setBits c 0 1 0) 1 3 e.1)

/-- A command block: its index, address and operands (bytes from 0x10). -/
structure LnBlock where
  idx : Nat
  addr : Nat
  ops : List Byte
  deriving DecidableEq, Repr

/-- A number in a block's operands. -/
def LnBlock.num (b : LnBlock) (off n : Nat) : Nat := natOfBytes ((b.ops.drop off).take n)

/-- R8: the operands beyond an offset are zero. -/
def LnBlock.zeroFrom (b : LnBlock) (off : Nat) : Bool := (b.ops.drop off).all fun x => x == 0

/-- R480: an owner's command of a code, once go is set and between invocations (R476): refused where its ranges
overlap
another's, failed where its block cannot be read, and else carried out. [log DEDUCED 107] -/
def lnCommand (owner code : Nat) (s : State) (k : LnBlock → LnEnd) : Host.Outcome State Fault Refusal :=
  .next (
    let c := lnCmd s owner
    let a := bits c 6 46 * 64
    if 13 ≤ owner || !c.getLsbD 0 || !lnIdle s then s
    else if !lnMem s a 64 then lnFinish owner (3, s)
    else if readNat s a 2 ≠ code then s
    else if lnRangesBad s owner then lnFinish owner (2, s)
    else if readNat s (a + 4) 4 ≠ 0 then lnFinish owner (1, s)
    else lnFinish owner (k ⟨readNat s (a + 2) 2, readNat s (a + 8) 8, bytesAt s.mem (a + 16) 48⟩))

/-- R470: a filter image's bindings name resources the owner has. -/
def bindingsOk (s : State) (owner : Nat) (r : LnRes) (bs : List Byte) : Bool :=
  bs.all fun b => b == 0xFF#8 || (lnIndex s owner r b.toNat).isSome

/-- R471: an instruction at a place of an image of length L: its bindings bound, its branch within L. -/
def filterOpOk (hs ks ts : List Byte) (len pc : Nat) (i : Instr) : Bool :=
  let isBound (bs : List Byte) (k : Nat) : Bool := bs.getD k 0xFF != 0xFF#8
  match view i with
  | .filter w =>
    match (w.extractLsb' 0 6).toNat with
    | 21 => isBound hs (w.extractLsb' 18 4).toNat
    | 22 => isBound ks (w.extractLsb' 18 2).toNat
    | 23 => isBound ks (w.extractLsb' 18 2).toNat
    | 24 => pc + 1 + (w.extractLsb' 18 7).toNat ≤ len
    | 25 => pc + 1 + (w.extractLsb' 18 7).toNat ≤ len
    | 26 => pc + 1 + (w.extractLsb' 18 7).toNat ≤ len
    | 27 => isBound ts (w.extractLsb' 18 2).toNat
    | _ => true
  | .core _ _ _ => false
  | .half _ _ => false
  | .event => false

/-- R470, R471: the filter in an image; none where the image is malformed. -/
def readImage (s : State) (owner idx a : Nat) : Option LnFilter :=
  let len := readNat s a 1
  let hs := bytesAt s.mem (a + 0x10) 16
  let ks := bytesAt s.mem (a + 0x20) 4
  let ts := bytesAt s.mem (a + 0x24) 4
  let code := (List.range len).filterMap fun i =>
    match decodeFilter (BitVec.ofNat 32 (readNat s (a + 0xC0 + 4 * i) 4)) with
    | .ok x => some x
    | .error _ => none
  if len = 0 || 128 < len || readNat s (a + 1) 15 ≠ 0 || readNat s (a + 0x28) 24 ≠ 0 || code.length ≠ len ||
      !bindingsOk s owner .hist hs || !bindingsOk s owner .sketch ks || !bindingsOk s owner .trig ts ||
      !(((List.range len).zip code).all fun (pc, i) => filterOpOk hs ks ts len pc i) then none
  else
    let skips := match lnFilter s idx with
      | some f => f.skips
      | none => 0
    some ⟨idx, owner, hs, ks, ts, (List.range 16).map (fun i => read64 s (a + 0x40 + 8 * i)), code,
      List.replicate 16 0, skips⟩

/-- LOAD. [log DEDUCED 108] -/
def execLnLoad (owner : Nat) (s : State) : Host.Outcome State Fault Refusal :=
  lnCommand owner 1 s fun b =>
    match lnIndex s owner .filter b.idx with
    | none => (1, s)
    | some i =>
      if !b.zeroFrom 0 then (1, s)
      else if !lnMem s b.addr 0xC0 || !lnMem s b.addr (0xC0 + 4 * readNat s b.addr 1) then (3, s)
      else
        match readImage s owner i b.addr with
        | none => (1, s)
        | some f => (0, modLn s fun l => { l with filters := l.filters.filter (fun x => x.idx != i) ++ [f] })

/-- A trace buffer byte: a local index, or 0xFF for none. -/
def traceOf (s : State) (owner b : Nat) : Option (Option Nat) :=
  if b = 0xFF then some none else (lnIndex s owner .trace b).map some

/-- ATTACH. -/
def execLnAttach (owner : Nat) (s : State) : Host.Outcome State Fault Refusal :=
  lnCommand owner 2 s fun b =>
    let step := b.num 6 2
    match lnIndex s owner .attach b.idx, lnIndex s owner .filter (b.num 0 2), traceOf s owner (b.num 12 1) with
    | some i, some f, some t =>
      if b.addr ≠ 0 || !b.zeroFrom 13 || step = 0 || 2047 < step || 2047 < b.num 2 2 || 2047 < b.num 4 2 ||
          1023 < b.num 8 2 || 1023 < b.num 10 2 then (1, s)
      else
        let a : LnAttach := ⟨i, owner, f, b.num 2 2, b.num 4 2, step, BitVec.ofNat 10 (b.num 8 2),
          BitVec.ofNat 10 (b.num 10 2), t⟩
        (0, modLn s fun l => { l with attaches := l.attaches.filter (fun x => x.idx != i) ++ [a] })
    | _, _, _ => (1, s)

/-- DETACH. -/
def execLnDetach (owner : Nat) (s : State) : Host.Outcome State Fault Refusal :=
  lnCommand owner 3 s fun b =>
    match lnIndex s owner .attach b.idx with
    | none => (1, s)
    | some i =>
      if b.addr ≠ 0 || !b.zeroFrom 0 then (1, s)
      else (0, modLn s fun l => { l with attaches := l.attaches.filter fun x => x.idx != i })

/-- R480: the resource a kind of CLEAR names. -/
def clearKind (k : Nat) : Option LnRes :=
  match k with
  | 0 => some .filter
  | 1 => some .hist
  | 2 => some .sketch
  | 3 => some .trace
  | _ => none

/-- An object cleared. [log DEDUCED 108] -/
def clearObject (s : State) (r : LnRes) (i : Nat) : State :=
  match r with
  | .filter => modFilter s i fun f => { f with words := List.replicate 16 0 }
  | .hist => modLn s fun l => { l with hist := l.hist.filter fun x => x.1 != i }
  | .sketch => modLn s fun l => { l with sketch := l.sketch.filter fun x => x.1 != i }
  | .trace => putTrace s { lnTrace s i with next := 0, recs := [] }
  | .attach => s
  | .trig => s

/-- CLEAR. -/
def execLnClear (owner : Nat) (s : State) : Host.Outcome State Fault Refusal :=
  lnCommand owner 4 s fun b =>
    match clearKind (b.num 0 1) with
    | none => (1, s)
    | some r =>
      match lnIndex s owner r b.idx with
      | none => (1, s)
      | some i => if b.addr ≠ 0 || !b.zeroFrom 1 then (1, s) else (0, clearObject s r i)

/-- SEEDS. -/
def execLnSeeds (owner : Nat) (s : State) : Host.Outcome State Fault Refusal :=
  lnCommand owner 5 s fun b =>
    match lnIndex s owner .sketch b.idx with
    | none => (1, s)
    | some i =>
      if b.addr ≠ 0 || !b.zeroFrom 32 then (1, s)
      else
        let seeds := (List.range 4).map fun k => BitVec.ofNat 64 (b.num (8 * k) 8)
        (0, modLn s fun l => { l with seeds := l.seeds.filter (fun x => x.1 != i) ++ [(i, seeds)] })

/-- TRIGGER: the trigger is configured and armed. -/
def execLnTrigger (owner : Nat) (s : State) : Host.Outcome State Fault Refusal :=
  lnCommand owner 6 s fun b =>
    match lnIndex s owner .trig b.idx, traceOf s owner (b.num 1 1) with
    | some i, some t =>
      if b.addr ≠ 0 || 7 < b.num 0 1 || b.num 2 2 ≠ 0 || !b.zeroFrom 8 then (1, s)
      else
        let x : LnTrigger := ⟨i, owner, BitVec.ofNat 3 (b.num 0 1), t, b.num 4 4, true, 0⟩
        (0, modLn s fun l => { l with trigs := l.trigs.filter (fun y => y.idx != i) ++ [x] })
    | _, _ => (1, s)

/-- ARM. -/
def execLnArm (owner : Nat) (s : State) : Host.Outcome State Fault Refusal :=
  lnCommand owner 7 s fun b =>
    match lnIndex s owner .trig b.idx with
    | none => (1, s)
    | some i =>
      if b.addr ≠ 0 || !b.zeroFrom 0 then (1, s)
      else (0, modLn s fun l => { l with trigs := modify (fun x => x.idx == i) (fun x => { x with armed := true }) l.trigs })

/-- UNFREEZE. -/
def execLnUnfreeze (owner : Nat) (s : State) : Host.Outcome State Fault Refusal :=
  lnCommand owner 8 s fun b =>
    match lnIndex s owner .trace b.idx with
    | none => (1, s)
    | some i =>
      if b.addr ≠ 0 || !b.zeroFrom 0 then (1, s) else (0, putTrace s { lnTrace s i with frozen := false })

/-! ## Publication (R481, R482) -/

/-- R481: the size of an owner's area. -/
def areaSize (s : State) (owner : Nat) : Nat :=
  0x1000 + 512 * (lnRange s owner .hist).2 + 16384 * (lnRange s owner .sketch).2 + 8192 +
    65536 * (lnRange s owner .trace).2

/-- R481: an area lies in bonded DRAM, in colours the owner's partition has. -/
def areaOk (s : State) (owner a : Nat) : Bool :=
  isBonded (a + areaSize s owner - 1) &&
    (owner == 12 || (List.range ((areaSize s owner + 4095) / 4096)).all fun i =>
      colourOk (pregs s owner).ccm (a + 4096 * i) 4096)

/-- PUBLISH. -/
def execLnPublish (owner : Nat) (s : State) : Host.Outcome State Fault Refusal :=
  lnCommand owner 9 s fun b =>
    let us := b.num 0 4
    if b.idx ≠ 0 || b.addr % 4096 ≠ 0 || us = 0 || 1000000 < us || !b.zeroFrom 4 then (1, s)
    else if !areaOk s owner b.addr then (3, s)
    else (0, modOwner s owner fun o => { o with area := b.addr, interval := us, lastPub := s.time.toNat })

/-- 8-byte values as bytes. -/
def dwords (xs : List Nat) : List Byte := xs.flatMap (bytesOfNat 8)

/-- R481: the head of an area, from offset 8 on. -/
def areaHead (s : State) (owner : Nat) : List Byte :=
  let o := lnOwner s owner
  let filters := (List.range 64).map fun i => match lnIndex s owner .filter i with
    | some f => (match lnFilter s f with
      | some x => x.skips.toNat
      | none => 0)
    | none => 0
  let traces := (List.range 16).map fun i => match lnIndex s owner .trace i with
    | some t => (lnTrace s t).next + (if (lnTrace s t).frozen then 2 ^ 63 else 0)
    | none => 0
  dwords ([s.time.toNat, o.skipped.toNat, o.dropped.toNat, o.executed.toNat, o.overruns.toNat, o.ringNext, 0] ++ filters ++
    List.replicate 24 0 ++ traces)

/-- R479: a trace record's bytes. -/
def traceBytes (r : TraceRec) : List Byte := dwords [r.time.toNat, r.e2.toNat, r.payload.toNat, r.value.toNat]

/-- R478: a ring entry's bytes. -/
def ringBytes (r : RingEntry) : List Byte := dwords [r.time.toNat, r.e2.toNat, r.value.toNat, r.trig.toNat]

/-- R481: the rest of an area, from offset 0x1000. -/
def areaBody (s : State) (owner : Nat) : List Byte :=
  let hs := lnRange s owner .hist
  let ks := lnRange s owner .sketch
  let ts := lnRange s owner .trace
  let ring := (lnOwner s owner).ring
  (List.range hs.2).flatMap (fun h => dwords ((List.range 64).map fun c => (histAt s (hs.1 + h) c).toNat)) ++
    (List.range ks.2).flatMap (fun k => (List.range 4096).flatMap fun c => bytesOfNat 4 (sketchAt s (ks.1 + k) c).toNat) ++
    (List.range 256).flatMap (fun i => match ring.find? fun x => x.1 == i with
      | some x => ringBytes x.2
      | none => List.replicate 32 0) ++
    (List.range ts.2).flatMap (fun t => (List.range 2048).flatMap fun i =>
      match (lnTrace s (ts.1 + t)).recs.find? fun x => x.1 == i with
      | some x => traceBytes x.2
      | none => List.replicate 32 0)

/-- PUBLICATION: a snapshot between invocations: the sequence word odd, the data, then the next even word as a release. -/
def execPublication (owner : Nat) (s : State) : Host.Outcome State Fault Refusal :=
  .next (
    let o := lnOwner s owner
    if 13 ≤ owner || o.interval = 0 || !lnIdle s then s
    else
      let t := write64 s o.area (o.seqw + 1)
      let t := writeBytes (writeBytes t (o.area + 8) (areaHead s owner)) (o.area + 0x1000) (areaBody s owner)
      let t := write64 t o.area (o.seqw + 2)
      modOwner t owner fun o => { o with seqw := o.seqw + 2, lastPub := s.time.toNat })

end Sys2Proof.Machine
end

