-- ==== Sys2Proof/Machine/Links.lean ====
section
/-! DEFINITION. Machine/Links.lean: Fallos links and their retraining, and the personalities of lane groups (R424, R436 to
R439, R444 to R448, R526). -/
namespace Sys2Proof.Machine

/-! ## Ports (R436, R437) -/

/-- A port changed. -/
def modPort (s : State) (i : Nat) (f : Port → Port) : State :=
  match s.ports[i]? with
  | some p => { s with ports := vset s.ports i (f p) }
  | none => s

/-- R467: a link state's number, in the order of R436. -/
def LinkState.num : LinkState → Nat
  | .up => 0
  | .replay => 1
  | .retrain => 2
  | .down => 3

/-- R424: the port exists: an optical port, or one of a Fallos-local lane group. -/
def portExists (s : State) (i : Nat) : Bool := (32 ≤ i && i < 48) || i / 4 < min 8 (localGroups s).length

/-- R494: the block of a port. -/
def portBlock (i : Nat) : Nat := 3424 + i

/-- A port's link enters a state, which its tap reports (R467). -/
def setLink (s : State) (i : Nat) (st : LinkState) (f : Port → Port) : State :=
  match s.ports[i]? with
  | none => s
  | some p => tap (modPort s i fun p => { f p with state := st }) (1728 + 2 * i) 0 15 (p.state.num + 8 * st.num)

/-- R437: a port leaves routing: every packet its retry buffer holds is sent again on another path. -/
def leaveRouting (s : State) (i : Nat) : State :=
  match s.ports[i]? with
  | none => s
  | some p => { modPort s i (fun p => { p with routing := false, retry := [] }) with outbox := s.outbox ++ p.retry.map Prod.fst }

/-- R436: a link goes to Retrain. What its channels held goes on by other ports (R437). -/
def startRetrain (s : State) (i : Nat) : State :=
  setLink (leaveRouting s i) i .retrain fun p => { p with attempts := 0, trainFrom := s.time.toNat, vcs := [] }

/-- The state of a port's link, where the port exists. -/
def linkState (s : State) (i : Nat) : Option LinkState :=
  if portExists s i then (s.ports[i]?).map Port.state else none

/-- FLIT_ERROR: a replay; the eighth within 1 ms sends the link to Retrain. [log DEDUCED 99] -/
def execFlitError (port : Nat) (s : State) : Host.Outcome State Fault Refusal :=
  .next (
    let now := s.time.toNat
    let note (p : Port) : Port := { p with replays := p.replays.filter (fun t => decide (now < t + 1000000)) ++ [now] }
    let eighth (s : State) : State :=
      match s.ports[port]? with
      | some p => if 8 ≤ p.replays.length then startRetrain s port else s
      | none => s
    match linkState s port with
    | some .up => eighth (setLink s port .replay note)
    | some .replay => eighth (modPort s port note)
    | some .retrain => s
    | some .down => s
    | none => s)

/-- LOSS_OF_LOCK. [log DEDUCED 99] -/
def execLossOfLock (port : Nat) (s : State) : Host.Outcome State Fault Refusal :=
  .next (if linkState s port = some .replay then startRetrain s port else s)

/-- REPLAY_COMPLETE: the replayed flits are received good. [log DEDUCED 99] -/
def execReplayComplete (port : Nat) (s : State) : Host.Outcome State Fault Refusal :=
  .next (if linkState s port = some .replay then setLink s port .up fun p => { p with upSince := s.time.toNat } else s)

/-- R436, R487: a link is Down. -/
def linkDown (s : State) (i : Nat) : State :=
  errDev (setLink s i .down id) ⟨9, 93, portBlock i, 0, i⟩

/-- R436: an attempt has 10 ms to train, in ns. -/
def trainLimit : Nat := 10000000

/-- R436: the attempt of a port's link has taken too long. -/
def trainLate (s : State) (i : Nat) : Bool :=
  match s.ports[i]? with
  | some p => p.state == .retrain && decide (p.trainFrom + trainLimit < s.time.toNat)
  | none => false

/-- LINK_TRAIN_RESULT: the link has trained, or an attempt has failed; the third failure takes it Down. [log DEDUCED
99] -/
def execLinkTrainResult (port : Nat) (trained : Bool) (s : State) : Host.Outcome State Fault Refusal :=
  .next (
    if linkState s port ≠ some .retrain then s
    else if trained && !trainLate s port then
      setLink s port .up fun p => { p with attempts := 0, replays := [], upSince := s.time.toNat }
    else
      let s := modPort s port fun p => { p with attempts := p.attempts + 1, trainFrom := s.time.toNat }
      match s.ports[port]? with
      | some p => if 3 ≤ p.attempts then linkDown s port else s
      | none => s)

/-- PORT_REJOIN: 100 µs without error after the link came Up. -/
def execPortRejoin (port : Nat) (s : State) : Host.Outcome State Fault Refusal :=
  .next (match s.ports[port]? with
    | none => s
    | some p =>
      if portExists s port && p.state == .up && !p.routing && decide (p.upSince + 100000 ≤ s.time.toNat) then
        modPort s port fun p => { p with routing := true }
      else s)

/-- MANAGEMENT_RETRAIN. -/
def execManagementRetrain (port : Nat) (s : State) : Host.Outcome State Fault Refusal :=
  .next (if linkState s port = some .down && !fenced s (portBlock port) then startRetrain s port else s)

/-! ## Lane groups (R438, R439, R444 to R448) -/

/-- A lane group. -/
def lgAt (s : State) (n : Nat) : LaneGroup := vget s.lgs n (LaneGroup.boot 0)

/-- The personality in an entry or a target. -/
def persOf (t : BitVec 8) : Nat := t.toNat % 8
/-- The port form in an entry or a target. -/
def modeOf (t : BitVec 8) : Nat := t.toNat / 8 % 4
/-- The CXL slot in an entry or a target. -/
def slotOf (t : BitVec 8) : Nat := t.toNat / 32

/-- R424: the ports move with their lane groups when the Fallos-local ones change; a new one's ports are Up and in
routing, its links having trained (R448). [log DEDUCED 100] -/
def remapPorts (old new : List Nat) (ps : Vector Port 48) : Vector Port 48 :=
  Vector.ofFn fun i : Fin 48 =>
    if 32 ≤ i.val then vget ps i.val Port.absent
    else
      match new[i.val / 4]? with
      | none => Port.absent
      | some n =>
        match (List.range old.length).find? fun k => old[k]? == some n with
        | some k => if k < 8 then vget ps (4 * k + i.val % 4) Port.absent else Port.absent
        | none => Port.up

/-- Lane groups changed, and the ports renumbered in the same step (R448). -/
def putLgs (s : State) (f : State → State) : State :=
  let old := localGroups s
  let t := f s
  { t with ports := remapPorts old (localGroups t) t.ports }

/-- A lane group changed. -/
def modLg (s : State) (n : Nat) (f : LaneGroup → LaneGroup) : State :=
  putLgs s fun s => match s.lgs[n]? with
    | some g => { s with lgs := vset s.lgs n (f g) }
    | none => s

/-- R438, R439: the lane group is half of a bonded CXL memory or CXL host pair. -/
def LaneGroup.bonded (g : LaneGroup) : Bool := (g.cur == 4#3 || g.cur == 3#3) && g.paired

/-- R439: the lane groups that move with one. -/
def lgTogether (s : State) (n : Nat) : List Nat :=
  if n % 2 = 0 && (lgAt s n).paired && (lgAt s (n + 1)).paired then [n, n + 1] else [n]

/-- R444: a change has failed: the lane group carries nothing. [log DEDUCED 101] -/
def failLg (s : State) (cause : Nat) (n : Nat) : State :=
  modLg s n fun g => { g with
    state := 5, cause := BitVec.ofNat 4 cause, cur := 0, cap := 0, paired := false, stateSince := s.time.toNat }

/-- R424, R438, R439: the cause a change of a lane group to a target fails with; 0 for none. [log DEDUCED 101] -/
def lgBreach (s : State) (n : Nat) (t : BitVec 8) (reserved : Bool) : Nat :=
  let g := lgAt s n
  let others := (List.range 20).filter fun m => m != n && !(n % 2 == 0 && m == n + 1 && persOf t == 4 && modeOf t == 1)
  let busy (m : Nat) : Bool := (1 ≤ (lgAt s m).state.toNat && (lgAt s m).state.toNat ≤ 4)
  let heads (p : Nat) (m : Nat) : Bool :=
    (lgAt s m).cur.toNat == p || (busy m && persOf (lgAt s m).tgt == p)
  if n % 2 = 1 && (lgAt s (n - 1)).bonded then 5
  else if g.cur = 3#3 || persOf t = 3 then 1
  else if reserved || 6 ≤ persOf t || 2 ≤ modeOf t || (persOf t = 1 && modeOf t ≠ 0) || (n < 2 && persOf t ≠ 0) then 2
  else if n % 2 = 1 && persOf t = 4 && modeOf t = 1 then 5
  else if persOf t = 4 && modeOf t = 1 && (lgAt s (n + 1)).state ≠ 0#3 then 5
  else if persOf t = 4 && others.any (fun m => heads 4 m && slotOf (lgAt s m).tgt == slotOf t) then 3
  else if persOf t = 1 && 8 ≤ (others.filter (heads 1)).length then 6
  else 0

/-- R444, R445: a lane group enters Quiesce: its new traffic stops. -/
def quiesceLg (s : State) (t : BitVec 8) (paired : Bool) (n : Nat) : State :=
  let s := (match (List.range (localGroups s).length).find? fun k => (localGroups s)[k]? == some n with
    | some k => (List.range 4).foldl (fun s i => leaveRouting s (4 * k + i)) s
    | none => s)
  modLg s n fun g => { g with state := 1, cause := 0, tgt := t, paired := paired, stateSince := s.time.toNat }

/-- R444, R446: lgctl[n] written; with go a change starts, and one that breaks R424, R438 or R439 fails. [log DEDUCED
100] -/
def lgctlWrite (s : State) (n : Nat) (value : BitVec 64) : State :=
  let g := lgAt s n
  let t := BitVec.ofNat 8 (bits value 0 8)
  let keep (s : State) : State := modLg s n fun g =>
    { g with pers := BitVec.ofNat 3 (persOf t), mode := BitVec.ofNat 2 (modeOf t), slot := BitVec.ofNat 3 (slotOf t) }
  if 20 ≤ n then s
  else if !value.getLsbD 8 then keep s
  else if 1 ≤ g.state.toNat && g.state.toNat ≤ 4 then errDev s ⟨9, 94, 3472 + n, 0, n⟩
  else
    let bond := persOf t = 4 && modeOf t = 1
    let pair := n % 2 = 0 && (g.bonded || bond)
    let cause := if fenced s (3472 + n) then 4 else lgBreach s n t (bits value 9 55 ≠ 0)
    let s := keep s
    if cause ≠ 0 then (lgTogether s n).foldl (fun s m => failLg s cause m) (quiesceLg s t g.paired n)
    else
      let s := quiesceLg s t pair n
      if pair then quiesceLg s (if bond then t else 0) true (n + 1) else s

/-- LGCTL_GO: a write of lgctl; with go a change starts, and one that breaks R424, R438 or R439 fails. [log DEDUCED
100] -/
def execLgctlGo (n : Nat) (value : BitVec 64) (s : State) : Host.Outcome State Fault Refusal :=
  .next (lgctlWrite s n value)

/-- A lane group, and its partner with it, enter a state. -/
def lgEnter (s : State) (n : Nat) (st : BitVec 3) : State :=
  (lgTogether s n).foldl (fun t m => modLg t m fun g => { g with state := st, stateSince := s.time.toNat }) s

/-- LG_QUIESCE_END. -/
def execLgQuiesceEnd (n : Nat) (s : State) : Host.Outcome State Fault Refusal :=
  .next (if n < 20 && (lgAt s n).state = 1#3 then lgEnter s n 2 else s)

/-- R445: the bound of Drain, in ns; CXL memory has none that ends it. -/
def drainBound (cur : BitVec 3) : Option Nat :=
  match cur.toNat with
  | 1 => some 2000000
  | 2 => some 2000000
  | 5 => some 4000000
  | 4 => none
  | _ => some 0

/-- R445: what the model holds of the traffic to be drained is done. -/
def drainClear (s : State) (n : Nat) : Bool :=
  ((lgAt s n).cur != 5#3 || !(s.ueOut.any fun m => m.lg == n)) &&
    ((lgAt s n).cur != 2#3 || !(s.reqs.any fun r => r.via == some n))

/-- R445: at the bound, every request a lane group in UALink-standard has no response to counts negative with cause 3. -/
def dropUa (s : State) (n : Nat) : State :=
  let lost := s.reqs.filter fun r => r.via == some n
  lost.foldl (fun s r => negative s r 3) { s with reqs := s.reqs.filter fun r => r.via != some n }

/-- R445: at the bound, every message a lane group has not had acknowledged fails its plan with status 5. -/
def dropUe (s : State) (n : Nat) : State :=
  let lost := s.ueOut.filter fun m => m.lg == n
  lost.foldl (fun s m => planDone s m.ctx m.op 5) { s with ueOut := s.ueOut.filter fun m => m.lg != n }

/-- LG_DRAIN_END: Drain is met, as the event says and the model holds, or its bound is reached; Off trains nothing. -/
def execLgDrainEnd (n : Nat) (met : Bool) (s : State) : Host.Outcome State Fault Refusal :=
  .next (
    let g := lgAt s n
    if 20 ≤ n || g.state ≠ 2#3 then s
    else
      let late := match drainBound g.cur with
        | some b => decide (g.stateSince + b ≤ s.time.toNat)
        | none => false
      if (met && drainClear s n) || late then lgEnter (dropUa (dropUe s n) n) n (if persOf g.tgt = 0 then 4 else 3) else s)

/-- R442, R447: bytes of CXL memory in the map, beside a lane group's own. [log DEDUCED 101] -/
def cxlTotal (s : State) (n : Nat) : Nat :=
  (((List.range 20).filter fun m => m != n && (lgAt s m).state != 5#3).map fun m => match (lgAt s m).mapped with
    | some (_, cap) => cap.toNat * 2 ^ 28
    | none => 0).sum

/-- LG_RETRAIN_END: the lanes have trained in the target personality, or training has failed. -/
def execLgRetrainEnd (n : Nat) (trained : Bool) (lanes : BitVec 8) (cap : Nat) (s : State) :
    Host.Outcome State Fault Refusal :=
  .next (
    let g := lgAt s n
    if 20 ≤ n || g.state ≠ 3#3 then s
    else
      let all := lgTogether s n
      let show' (s : State) : State := all.foldl (fun s m => modLg s m fun g => { g with lanes := lanes }) s
      if !trained then all.foldl (fun s m => failLg s 4 m) (show' s)
      else if persOf g.tgt = 4 && (cap = 0 || 4096 < cap || 4 * 10 ^ 12 < cxlTotal s n + cap * 2 ^ 28) then
        all.foldl (fun s m => failLg s 3 m) (show' s)
      else
        lgEnter (modLg (show' s) n fun g => { g with cap := if persOf g.tgt = 4 then BitVec.ofNat 13 cap else 0 }) n 4)

/-- R447, R448: one lane group as Map leaves it. -/
def mapLg (head : Bool) (g : LaneGroup) : LaneGroup :=
  let p := persOf g.tgt
  { g with
    cur := BitVec.ofNat 3 p
    state := 0
    cause := 0
    lanes := if p = 0 then 0 else g.lanes
    sent := []
    paired := p == 4 && modeOf g.tgt == 1
    cap := if p = 4 && head then g.cap else 0
    mapped := if p = 4 && head then some (BitVec.ofNat 3 (slotOf g.tgt), g.cap) else none }

/-- LG_MAP: the address map and routing change in one step, and the lane group is Active. -/
def execLgMap (n : Nat) (s : State) : Host.Outcome State Fault Refusal :=
  .next (
    if 20 ≤ n || (lgAt s n).state ≠ 4#3 then s
    else
      let now := s.time.toNat
      let all := lgTogether s n
      putLgs s fun s => all.foldl (fun s m =>
        { s with lgs := vset s.lgs m { mapLg (m == n) (lgAt s m) with stateSince := now } }) s)

/-- BOOT_TABLE_ACCESS: management reads an entry of the boot personality table, or writes one for the next reset. -/
def execBootTableAccess (n : Nat) (write : Option (BitVec 8)) (s : State) : Host.Outcome State Fault Refusal :=
  .next (
    match s.trust.bootTable[n]?, write with
    | none, _ => s
    | some _, some v => { s with trust := { s.trust with bootTable := vset s.trust.bootTable n v } }
    | some e, none => { s with trust := { s.trust with reply := e.setWidth 64 } })

end Sys2Proof.Machine
end

