-- ==== Sys2Proof/Machine/Reliab.lean ====
section
/-! DEFINITION. Machine/Reliab.lean: errors, self-tests and fences, power, reset and the root of trust, debug stops,
attestation and management (R486, R489 to R506, R526). -/
namespace Sys2Proof.Machine

/-! ## Block status (R486, R494, R496) -/

/-- The status of a block; one that is not listed is good and has counted nothing. -/
def blockOf (s : State) (num : Nat) : Block :=
  match s.blocks.find? fun b => b.num == num with
  | some b => b
  | none => ⟨num, 0, 0, 0, 0, false⟩

/-- A block's status replaced. -/
def putBlock (s : State) (b : Block) : State :=
  { s with blocks := s.blocks.filter (fun x => x.num != b.num) ++ [b] }

/-- R494: an assigned block number. -/
def blockAssigned (num : Nat) : Bool :=
  num < 192 || (256 ≤ num && num < 256 + 16 * 192) || (3328 ≤ num && num < 3424) || (3424 ≤ num && num < 3472) ||
    (3472 ≤ num && num ≤ 3493)

/-- A block of R494, or a frame of DRAM. -/
def blockKnown (num : Nat) : Bool := blockAssigned num || 65536 ≤ num

/-- R486: hlth as the blocks and frames stand. -/
def hlthOf (s : State) : Dword :=
  let fenced := (s.blocks.filter fun b => b.state == 2#2 && b.num < 65536).length
  let deg := if fenced = 0 && s.retired.isEmpty then 0 else 1
  BitVec.ofNat 64 (deg + (if s.trust.recovery then 2 else 0) + 2 ^ 16 * (fenced % 65536) +
    2 ^ 32 * min 65535 s.retired.length)

/-- hlth brought up to date. -/
def noteHlth (s : State) : State := { s with dev := { s.dev with hlth := hlthOf s } }

/-! ## Errors (R489, R491) -/

/-- R491: the 8-byte word at an address of memory is poisoned. [log DESIGN CHOICE 112] -/
def poisonWord (s : State) (pa : Nat) : State :=
  let w := pa / 8 * 8
  if s.poison.contains w then s
  else { s with poison := s.poison ++ [w], reported := s.reported.filter fun x => x != w }

/-- The core and the physical bank of a stage bank's block. -/
def bankOfBlock (num : Nat) : Nat × Nat := ((num - 256) / 16, (num - 256) % 16)

/-- R494: the team that holds a stage bank. -/
def bankTeam (s : State) (num : Nat) : Option Team :=
  s.teams.find? fun t => t.core == (bankOfBlock num).1 && t.banks.any fun b => b.phys == (bankOfBlock num).2

/-- R491: the word at an offset of a stage bank is poisoned. [log DEDUCED 50] -/
def poisonBank (s : State) (num off : Nat) : State :=
  let w := off / 8 * 8
  match bankTeam s num with
  | none => s
  | some t =>
    let hit (b : Bank) : Bank := if b.bad.contains w then b else { b with bad := b.bad ++ [w] }
    let at' (b : Bank) : Bool := b.phys == (bankOfBlock num).2
    let s := modTeam s t.gid t.team fun t => { t with banks := modify at' hit t.banks }
    { s with reported := s.reported.filter fun x => x != 2 ^ 64 * (num + 1) + w }

/-- R491: a fragment held in a pairing entry is poisoned: its descriptor goes to state 3, with no root written. [log
DEDUCED 53] -/
def poisonFrag (s : State) (f : Frag) : State :=
  match openRed s f with
  | some r => failRed s r none
  | none => s

/-- R491: what an uncorrected error in a block hits: a word of memory at the address given, a word of a stage bank at
the offset given, the team of the group slot given, or, in a core or a slice with no place given, the pairing entry
held longest. [log DESIGN CHOICE 112] -/
def uncorrected (s : State) (num : Nat) (place : Option Nat) : State :=
  match place with
  | some p =>
    if num < 192 then
      (match groupAt s num p with
      | some g => failGrid s g.gid 7
      | none => s)
    else if num < 3328 then poisonBank s num p
    else if num < 3424 || 65536 ≤ num then poisonWord s p
    else s
  | none =>
    if num < 192 then
      (match s.coreHeld.find? fun h => h.core == num && h.frag.remote.isNone with
      | some h => poisonFrag s h.frag
      | none => s)
    else if 3328 ≤ num && num < 3424 then
      (match s.sliceHeld.find? fun h => h.slice == num - 3328 with
      | some h => poisonFrag s h.frag
      | none => s)
    else s

/-! ## Tests and fences (R490, R492, R493) -/

/-- R493: a fenced core: its teams fail, and what its pairing buffer holds goes on. -/
def fenceCore (s : State) (core : Nat) : State :=
  let s := ((s.teams.filter fun t => t.core == core).map Team.gid).eraseDups.foldl (fun s g => failGrid s g 7) s
  let held := s.coreHeld.filter fun h => h.core == core
  held.foldl (fun s h => forwardFrag s core none h.frag) { s with coreHeld := s.coreHeld.filter fun h => h.core != core }

/-- R493: a fenced slice: what its pairing entries hold arrives again, and spills. -/
def fenceSlice (s : State) (slice : Nat) : State :=
  let held := s.sliceHeld.filter fun h => h.slice == slice
  { s with
    sliceHeld := s.sliceHeld.filter fun h => h.slice != slice
    flights := s.flights ++ held.map fun h => ⟨.slice slice, 0, h.frag, none⟩ }

/-- R493: with Lantern fenced, the events it still holds are dropped and counted. -/
def fenceLantern (s : State) : State :=
  let held := s.lantern.taps
  let s := modLn s fun l => { l with taps := [], todo := [], run := none }
  held.foldl (fun s e => if e.part.toNat < 12 then modOwner s e.part.toNat fun o => { o with dropped := o.dropped + 1 } else s) s

/-- R493: what a block's fence does beside its status. -/
def fenceEffect (s : State) (num : Nat) : State :=
  if num < 192 then fenceCore s num
  else if num < 3328 then
    (match bankTeam s num with
    | some t => failGrid s t.gid 7
    | none => s)
  else if num < 3424 then fenceSlice s (num - 3328)
  else if num < 3472 then linkDown (leaveRouting s (num - 3424)) (num - 3424)
  else if num < 3492 then (lgTogether s (num - 3472)).foldl (fun s m => failLg s 4 m) s
  else if num = 3492 then fenceLantern s
  else s

/-- R490, R493: a failed test: a block is fenced, and a row of DRAM retires its frame. -/
def failTest (s : State) (b : Block) (result : BitVec 8) : State :=
  let s := errDev s ⟨7, 71, if b.num < 65536 then b.num else 0xFFFF, 0, if b.num < 65536 then 0 else (b.num - 65536) * 4096⟩
  if 65536 ≤ b.num then
    let f := b.num - 65536
    let s := { s with
      blocks := s.blocks.filter fun x => x.num != b.num
      retired := if s.retired.contains f then s.retired else s.retired ++ [f] }
    noteHlth (errDev s ⟨8, 82, 0xFFFF, 0, f * 4096⟩)
  else
    let s := fenceEffect (putBlock s { b with state := 2, res := result, retested := false }) b.num
    noteHlth (errDev s ⟨8, 81, b.num, 0, 0⟩)

/-- ECC_ERROR: the error is counted, uncorrected data poisoned, and the block tests itself; an error under test
restarts
the test once, and the next one fails it. [log DESIGN CHOICE 112] -/
def execEccError (block : Nat) (corrected : Bool) (pa : Option Nat) (s : State) : Host.Outcome State Fault Refusal :=
  .next (
    if !blockKnown block then s
    else
      let b := blockOf s block
      let b : Block :=
        { b with
          ce := if corrected && b.ce != BitVec.allOnes 32 then b.ce + 1 else b.ce
          ue := if !corrected && b.ue != BitVec.allOnes 16 then b.ue + 1 else b.ue }
      let s := putBlock s b
      let s := if corrected then errDev s ⟨7, 70, if block < 65536 then block else 0xFFFF, 0, pa.getD 0⟩
        else uncorrected s block pa
      if b.state = 0 then putBlock s { b with state := 1, retested := false }
      else if b.state = 1 then
        if b.retested then failTest s b 1 else putBlock s { b with retested := true }
      else s)

/-- SELF_TEST_END: result 0 is a pass. [log DESIGN CHOICE 111] -/
def execSelfTestEnd (block : Nat) (result : BitVec 8) (s : State) : Host.Outcome State Fault Refusal :=
  .next (
    let b := blockOf s block
    if b.state ≠ 1 then s
    else if result = 0 then
      let s := putBlock s { b with state := 0, res := 0, retested := false }
      drainChans (errDev s ⟨7, 71, if block < 65536 then block else 0xFFFF, 0, 0⟩)
    else drainChans (failTest s b result))

/-- MARGIN_REPLAN (R497): only the clock and voltage change, which POWER_BLOCK_UPDATE reports; no result does. [log
DEDUCED 114] -/
def execMarginReplan (_block : Nat) (s : State) : Host.Outcome State Fault Refusal := .next s

/-! ## Power (R409, R498) -/

/-- R409, R421: the slices of a block's teams go on after its clock was below 0.5 GHz; those of a paused partition stand
still on that account. [log DEDUCED 88] -/
def resumeBlock (s : State) (b since : Nat) : State :=
  let upto (t : Team) : Nat := if (psched s t.part).paused then (psched s t.part).pausedAt else s.time.toNat
  let go (t : Team) : Team := shiftSlice since (upto t) t
  { s with teams := modify (fun t => t.core / 8 == b) go s.teams }

/-- POWER_BLOCK_UPDATE: a power block's clock, power and temperature, and its Lantern event. [log DEDUCED 113] -/
def execPowerBlockUpdate (b mhz milliwatts celsius : Nat) (s : State) : Host.Outcome State Fault Refusal :=
  .next (match s.power[b]? with
    | none => s
    | some p =>
      let slow := b < 24 && mhz < 500
      let was := b < 24 && p.mhz < 500
      let s := if was && !slow then resumeBlock s b p.slowSince else s
      let p' : Power := ⟨mhz, milliwatts, celsius, if slow then (if was then p.slowSince else s.time.toNat) else 0⟩
      tap { s with power := vset s.power b p' } (1984 + b) 0 15 (milliwatts % 2 ^ 48))

/-! ## Boot and reset (R424, R425, R500 to R502, R506, R526) -/

/-- R500: an image verifies. The images the part ships with do. -/
def imageGood (k : Nat) (i : FwImage) : Bool :=
  i == FwImage.shipped ||
    (Config.signatureGood ((List.range 64).map fun j => (Config.shake256 i.body).extractLsb' (8 * j) 8) i.signature &&
      Config.shake256 i.key == Config.fusedKeyDigest && decide (Config.fusedSvn k ≤ i.svn))

/-- R526: an entry of the boot personality table that breaks R424, R438 or R439, beside those below it that stand. [log
DEDUCED 102] -/
def entryBreaks (table : Vector Byte 20) (below : List Byte) (n : Nat) : Bool :=
  let e := vget table n 0
  let p := persOf e
  6 ≤ p || 2 ≤ modeOf e || (p = 1 && modeOf e ≠ 0) || (n < 2 && p ≠ 0 && p ≠ 3) || (2 ≤ n && p = 3) ||
    (n = 1 && p = 3 && !(persOf (vget table 0 0) == 3 && modeOf (vget table 0 0) == 1 && modeOf e == 1)) ||
    (p = 4 && modeOf e = 1 && n % 2 = 1) ||
    (p = 4 && below.any fun x => persOf x == 4 && slotOf x == slotOf e) ||
    (p = 1 && 8 ≤ (below.filter fun x => persOf x == 1).length)

/-- R526: the entries below a number as they stand: one that breaks a rule leaves its lane group Off. -/
def bootStands (table : Vector Byte 20) : Nat → List Byte
  | 0 => []
  | n + 1 =>
    let below := bootStands table n
    below ++ [if entryBreaks table below n then 0 else vget table n 0]

/-- R526: an entry breaks R424, R438 or R439. -/
def bootBreach (table : Vector Byte 20) (n : Nat) : Bool := entryBreaks table (bootStands table n) n

/-- R526: the entry whose personality a lane group takes at boot: its own, that of the lower half of a bonded pair, or
none where it breaks a rule. -/
def bootEntry (table : Vector Byte 20) (n : Nat) : Byte :=
  let low := vget table (n - 1) 0
  let bond := (persOf low == 4 || (n == 1 && persOf low == 3)) && modeOf low == 1
  if n % 2 = 1 && bond && !bootBreach table (n - 1) then low
  else if bootBreach table n then 0 else vget table n 0

/-- R439, R447: the capacity a Type 3 device reports at boot, in 256 MiB units; the device is outside the manual.
[log DEDUCED 102] -/
def bootCap (ctr n : Nat) : Nat := 1 + bits (Config.freeValue (ctr + n)) 0 12

/-- R526: which lanes of a lane group train at boot, and whether it trains: what is attached is outside the manual. [log
DESIGN CHOICE 134] -/
def bootLanes (ctr n : Nat) : BitVec 8 × Bool :=
  let v := Config.freeValue (ctr + 32 + n)
  (v.extractLsb' 8 8, v.getLsbD 0)

/-- R526: a lane group after boot; its lgctl fields are those of its own entry. The halves of a bonded pair train
together. [log DEDUCED 102] -/
def bootLg (table : Vector Byte 20) (ctr n : Nat) : LaneGroup :=
  let e := vget table n 0
  let t := bootEntry table n
  let first := if n % 2 = 1 && (LaneGroup.boot t).paired then n - 1 else n
  let trained := persOf t == 0 || (bootLanes ctr first).2
  let g := LaneGroup.boot t
  let g := if persOf t = 0 then g else { g with lanes := (bootLanes ctr n).1 }
  let g := if trained then g else { g with state := 5, cause := 4, cur := 0, paired := false }
  let heads := trained && persOf t == 4 && (n % 2 == 0 || modeOf t == 0)
  let cap := BitVec.ofNat 13 (bootCap ctr n)
  { g with
    pers := BitVec.ofNat 3 (persOf e)
    mode := BitVec.ofNat 2 (modeOf e)
    slot := BitVec.ofNat 3 (slotOf e)
    cap := if heads then cap else 0
    mapped := if heads then some (BitVec.ofNat 3 (slotOf t), cap) else none }

/-- R439: CXL memory beyond 4 TB in all: the lane group that brings it there fails with cause 3. -/
def bootCapCheck (s : State) (n : Nat) : State :=
  let g := lgAt s n
  let upTo := ((List.range (n + 1)).map fun m => match (lgAt s m).mapped with
    | some (_, cap) => cap.toNat * 2 ^ 28
    | none => 0).sum
  if g.mapped.isSome && 4 * 10 ^ 12 < upTo then
    { s with lgs := vset s.lgs n { g with state := 5, cause := 3, cur := 0, cap := 0, mapped := none, paired := false } }
  else s

/-- R500 to R503: the root of trust after a boot from the images stored. [log DEDUCED 115] -/
def bootTrust (t : Trust) : Trust :=
  let image (k : Nat) : FwImage := t.images.getD k FwImage.shipped
  { t with
    m := Vector.ofFn fun k : Fin 5 =>
      if k.val = 4 then measure Config.fuseConfig
      else if imageGood k.val (image k.val) then measure (image k.val).body else 0
    recovery := (List.range 4).any fun k => !imageGood k (image k)
    reply := 0
    overtemp := false
    svns := Vector.ofFn fun k : Fin 4 => (image k.val).svn }

/-- R506: the device at the end of a reset. What stands outside it stays: its place in the domain, the images and the
table management stored, and the memory of CXL devices. [log DEDUCED 6, 113] -/
def resetDevice (s : State) : State :=
  let table := s.trust.bootTable
  let m := s.devid.toNat % 32
  let g := s.devid.toNat / 32
  let t : State :=
    { State.reset with
      freeCtr := s.freeCtr + 1024
      devid := s.devid
      mem := s.mem.filter fun c => decide (cxlBase ≤ c.1)
      trust := bootTrust s.trust
      lgs := Vector.ofFn fun n : Fin 20 => bootLg table s.freeCtr n.val
      gtab := Vector.ofFn fun h : Fin 512 => gtabReset g h.val }
  let t := (List.range 20).foldl bootCapCheck t
  let t := { t with ltab := Vector.ofFn fun j : Fin 32 => ltabReset (localGroups t) m j.val, ports := Vector.ofFn fun i : Fin 48 =>
    if 32 ≤ i.val || i.val / 4 < min 8 (localGroups t).length then Port.up else Port.absent }
  noteHlth (((List.range 20).filter (bootBreach table)).foldl (fun t n => errDev t ⟨9, 94, 3472 + n, 0, n⟩) t)

/-- DEVICE_RESET. -/
def execDeviceReset (s : State) : Host.Outcome State Fault Refusal := .next (resetDevice s)

/-- JUNCTION_OVERTEMP: the device resets itself and keeps a record of it for management. [log DEDUCED 113] -/
def execJunctionOvertemp (s : State) : Host.Outcome State Fault Refusal :=
  .next (
    let t := resetDevice s
    { t with trust := { t.trust with overtemp := true } })

/-! ## Debug stops (R486, R499) -/

/-- R499: the recorded stop is done with, and the first held one that still stands is recorded. [log DEDUCED 45] -/
def nextStop (s : State) (part : Nat) : State :=
  let live := (psched s part).stops.filter fun x => (teamOf s x.1 x.2.1).isSome
  let s := modPregs s part fun r => { r with dbgsta := 0 }
  match live with
  | [] => modSched s part fun p => { p with stops := [] }
  | x :: rest => recordStop (modSched s part fun p => { p with stops := rest }) part x

/-- The team that the recorded stop names. -/
def stoppedTeam (s : State) (part : Nat) : Option Team :=
  let d := (pregs s part).dbgsta
  if d.getLsbD 0 then
    match groupAt s (bits d 8 8) (bits d 16 6) with
    | some g => if g.gid = bits d 32 32 then teamOf s g.gid g.team else none
    | none => none
  else none

/-- R499: dbgctl.go: the stopped team goes on, unless another of its splits has stopped it too. -/
def debugResume (s : State) (part : Nat) : State :=
  if !(pregs s part).dbgsta.getLsbD 0 then s
  else
    let s := (match stoppedTeam s part with
      | some t =>
        if (psched s part).stops.any fun x => x.1 == t.gid && x.2.1 == t.team then s
        else modTeam s t.gid t.team fun t => { t with stopped := none }
      | none => s)
    nextStop s part

/-- R486: dbgctl.kill: the stopped team's grid fails with cause 0x06. -/
def debugFail (s : State) (part : Nat) : State :=
  if !(pregs s part).dbgsta.getLsbD 0 then s
  else
    let s := (match stoppedTeam s part with
      | some t => failGrid s t.gid 6
      | none => s)
    nextStop s part

/-- DEBUG_GO. -/
def execDebugGo (part : Nat) (s : State) : Host.Outcome State Fault Refusal := .next (debugResume s part)
/-- DEBUG_KILL. -/
def execDebugKill (part : Nat) (s : State) : Host.Outcome State Fault Refusal := .next (debugFail s part)

/-! ## Attestation (R503) -/

/-- R503: attctl written; go starts a report and reads 1 until it is written. [log DEDUCED 117] -/
def attctlWrite (s : State) (value : BitVec 64) : State :=
  let c := s.dev.attctl
  let c' := setBits c 16 36 (bits value 16 36)
  { s with dev := { s.dev with attctl := if value.getLsbD 0 then c' ||| 1#64 else c' } }

/-- A digest's bytes. -/
def digestBytes (d : BitVec 512) : List Byte := (List.range 64).map fun i => d.extractLsb' (8 * i) 8

/-- R503: the signed part of a report. -/
def reportBody (s : State) : List Byte :=
  1#8 :: [0x4D#8, 0x56, 0x2D, 0x42, 0x34, 0x38, 0x30] ++ bytesOfNat 8 s.devid.toNat ++
    s.dev.attn.toList.flatMap (fun x => bytesOfNat 8 x.toNat) ++ (List.range 64).map Config.identityKey ++
    s.trust.m.toList.flatMap digestBytes ++ s.trust.svns.toList.flatMap (bytesOfNat 2) ++ bytesOfNat 8 s.dev.hlth.toNat

/-- R503: a report. [log DEDUCED 115] -/
def reportBytes (s : State) : List Byte :=
  let b := reportBody s
  b ++ (List.range 49856).map (Config.reportSignature b)

/-- R503: the report is written to the area, or the area refused. -/
def reportWritten (s : State) : State :=
  let c := s.dev.attctl
  let a := bits c 16 36 * 65536
  let ended (s : State) (st : Nat) : State :=
    { s with dev := { s.dev with attctl := setBits (setBits c 0 1 0) 62 2 st } }
  if !c.getLsbD 0 then s
  else if isBonded (a + 65535) then ended (writeBytes s a (reportBytes s)) 1
  else ended s 2

/-- ATTESTATION_REQUEST. -/
def execAttestationRequest (value : BitVec 64) (s : State) : Host.Outcome State Fault Refusal :=
  .next (attctlWrite s value)
/-- ATTESTATION_WRITTEN. -/
def execAttestationWritten (s : State) : Host.Outcome State Fault Refusal := .next (reportWritten s)

/-! ## Management (R505) -/

/-- PLDM_FIRMWARE_UPDATE: an image that verifies is stored, for the next reset. The reply says whether it was. [log
DEDUCED 115] -/
def execPldmFirmwareUpdate (k : Nat) (image : FwImage) (s : State) : Host.Outcome State Fault Refusal :=
  .next (
    if k < 4 && imageGood k image then
      { s with trust := { s.trust with images := s.trust.images.set k image, reply := 1 } }
    else { s with trust := { s.trust with reply := 0 } })

/-- R505: what a sensor reads. The manual lists the sensors without numbers: the model gives a power block's power the
number b and its temperature 32 + b; 64 is module power, 65 to 67 are deg, fcnt and rcnt. [log DESIGN CHOICE 116] -/
def sensorValue (s : State) (n : Nat) : Dword :=
  match s.power[n]?, s.power[n - 32]? with
  | some p, _ => BitVec.ofNat 64 p.milliwatts
  | none, some p => BitVec.ofNat 64 p.celsius
  | none, none =>
    if n = 64 then BitVec.ofNat 64 (s.power.toList.map Power.milliwatts).sum
    else if n = 65 then BitVec.ofNat 64 (bits s.dev.hlth 0 1)
    else if n = 66 then BitVec.ofNat 64 (bits s.dev.hlth 16 16)
    else if n = 67 then BitVec.ofNat 64 (bits s.dev.hlth 32 16)
    else 0

/-- PLDM_SENSOR_READ. [log DESIGN CHOICE 116] -/
def execPldmSensorRead (sensor : Nat) (s : State) : Host.Outcome State Fault Refusal :=
  .next { s with trust := { s.trust with reply := sensorValue s sensor } }

end Sys2Proof.Machine
end

