-- ==== Sys2Proof/Machine/Regs.lean ====
section
/-! DEFINITION. Machine/Regs.lean: the register spaces of privileged software and the host, written and read (R484 to
R486, R496). -/
namespace Sys2Proof.Machine

/-! ## Queue registers (R382, R487) -/

/-- R377, R382, R486: rqcfg, eqcfg or deqcfg written: lgn and head are software's, full is cleared when head moves, and a
write with any bit of ovf set clears it. -/
def ringRegWrite (cfg value : Dword) : Dword :=
  let c := setBits (setBits cfg 0 5 (bits value 0 5)) 16 16 (bits value 16 16)
  let c := if bits value 16 16 ≠ bits cfg 16 16 then setBits c 5 1 0 else c
  if bits value 48 16 ≠ 0 then setBits c 48 16 0 else c

/-- The queue register written. -/
def ringHeadWrite (s : State) (reg : RingReg) (value : Dword) : State :=
  match reg with
  | .rqcfg p => modPregs s p fun r => { r with rqcfg := ringRegWrite r.rqcfg value }
  | .eqcfg p => modPregs s p fun r => { r with eqcfg := ringRegWrite r.eqcfg value }
  | .deqcfg => { s with dev := { s.dev with deqcfg := ringRegWrite s.dev.deqcfg value } }

/-- QUEUE_HEAD_WRITE. -/
def execQueueHeadWrite (reg : RingReg) (value : BitVec 64) (s : State) : Host.Outcome State Fault Refusal :=
  .next (ringHeadWrite s reg value)

/-! ## The partition control block -/

/-- R485, R486: the registers whose writes only replace their fields; R8 gives their reserved bits 0. -/
def partPut (r : PartRegs) (off : Nat) (value : Dword) : PartRegs :=
  match off with
  | 0x008 => { r with ftid := value &&& 0xFFFF#64 }
  | 0x010 => { r with slent := value &&& 0x3FFF#64 }
  | 0x018 => { r with swres := value &&& 0x3FF#64 }
  | 0x040 => { r with pslot := value &&& 0x1FFF#64 }
  | 0x048 => { r with pblk := value &&& 0x1FFFF#64 }
  | 0x050 => { r with pbank := value &&& 0x1FF#64 }
  | 0x058 => { r with pacc := value &&& 0x1FF#64 }
  | 0x060 => { r with pctag := value &&& 0x1FFF#64 }
  | 0x068 => { r with ppair := value &&& 0x1FF#64 }
  | 0x070 => { r with pclass := value &&& 0x3#64 }
  | 0x078 => { r with dlquota := value &&& 0x1FFF#64 }
  | 0x080 => { r with tslice := value &&& 0xFFFFF#64 }
  | 0x088 => { r with ctxbase := value &&& 0xFFFFFFFFF0000#64 }
  | 0x090 => { r with ctxcfg := value &&& 0xFFFFFFFF#64 }
  | 0x100 => { r with ptroot := value &&& 0xFFFFFFFFFF000#64 }
  | 0x108 => { r with s2cfg := value &&& 0xFFFFFFFFFF001#64 }
  | 0x110 => { r with ccm := value &&& 0xFFFFFFFF#64 }
  | 0x118 => { r with rqbase := value &&& 0xFFFFFFFFFFFF0#64 }
  | 0x128 => { r with rqepoch := value &&& 0xFFFFFFFFFFFFF8#64 }
  | 0x130 => { r with tinva := value &&& 0xFFFFFFFFFFF03F#64 }
  | 0x180 => { r with rwcctl := value &&& 0x7#64 }
  | 0x188 => { r with bvbase := value &&& 0xFFFFFFFFFFC00#64 }
  | 0x190 => { r with bvcfg := value &&& 0xFFFFFFFF1F#64 }
  | 0x198 => { r with iwtab := value &&& 0xFFFFFFFFE0000#64 }
  | 0x1A0 => { r with uetab := value &&& 0xFFFFFFFFF8000#64 }
  | 0x200 => { r with lnresa := value &&& 0xFFFFFFFFFFFFFFF#64 }
  | 0x240 => { r with eqbase := value &&& 0xFFFFFFFFFFFE0#64 }
  | _ => r

/-- R486, R502: pctl written; no partition can be enabled in recovery mode. [log DEDUCED 115] -/
def pctlWrite (s : State) (part : Nat) (value : Dword) : State :=
  let v := value &&& (if s.trust.recovery then 0xFF02#64 else 0xFF03#64)
  modPregs s part fun r => { r with pctl := v }

/-- R469: lnresb written, unless the budgets would come to more than 8,000. [log DEDUCED 110] -/
def lnresbWrite (s : State) (owner : Nat) (value : Dword) : State :=
  let v := value &&& 0xF_FFFF_FFFF#64
  let rest := (((List.range 13).filter fun o => o != owner).map (lnBudget s)).sum
  if 8000 < rest + bits v 22 14 && lnBudget s owner < bits v 22 14 then errDev s ⟨9, 95, 3492, 0, owner⟩
  else if owner < 12 then modPregs s owner fun r => { r with lnresb := v }
  else { s with dev := { s.dev with lnresb := v } }

/-- R480: lncmd written, unless a command runs; go starts the block's command, and one with no such code is
malformed. [log DEDUCED 110] -/
def lncmdWrite (s : State) (owner : Nat) (value : Dword) : State :=
  let c := lnCmd s owner
  if c.getLsbD 0 then s
  else
    let a := bits value 6 46 * 64
    let s := putLnCmd s owner (setBits (setBits c 6 46 (bits value 6 46)) 0 1 (bits value 0 1))
    if value.getLsbD 0 && lnMem s a 64 && (readNat s a 2 = 0 || 9 < readNat s a 2) then lnFinish owner (1, s) else s

/-- R486, R499: dbgctl written. [log DEDUCED 45] -/
def dbgctlWrite (s : State) (part : Nat) (value : Dword) : State :=
  if value.getLsbD 1 then debugFail s part else if value.getLsbD 0 then debugResume s part else s

/-- R377, R385: tinvc written: kind, and with go an invalidation. [log DEDUCED 117] -/
def tinvcWrite (s : State) (part : Nat) (value : Dword) : State :=
  if value.getLsbD 0 then startTinv s part (bits value 1 2)
  else modPregs s part fun r => { r with tinvc := setBits r.tinvc 1 2 (bits value 1 2) }

/-- R485: a register of a partition control block written. -/
def partWrite (s : State) (part off : Nat) (value : Dword) : State :=
  if part < 12 then
    match off with
    | 0x000 => pctlWrite s part value
    | 0x120 => ringHeadWrite s (.rqcfg part) value
    | 0x138 => tinvcWrite s part value
    | 0x208 => lnresbWrite s part value
    | 0x210 => lncmdWrite s part value
    | 0x248 => ringHeadWrite s (.eqcfg part) value
    | 0x258 => dbgctlWrite s part value
    | _ => modPregs s part fun r => partPut r off value
  else s

/-! ## The device registers -/

/-- R420: shedord written: what the steps taken mean follows the new order. [log DEDUCED 89] -/
def shedordWrite (s : State) (value : Dword) : State :=
  let s := { s with dev := { s.dev with shedord := value &&& 0xF_FFFF_FFFF_FFFF#64 } }
  (List.range 12).foldl applyShed { s with shed := min s.shed (3 * shedCount s) }

/-- R485: a device register below the tables written. -/
def devPut (s : State) (off : Nat) (value : Dword) : State :=
  match off with
  | 0x10 => shedordWrite s value
  | 0x18 => { s with dev := { s.dev with shedcfg := value &&& 0xFFF#64 } }
  | 0x20 => { s with dev := { s.dev with swto := value &&& 0x3FF#64 } }
  | 0x28 => mcctlWrite s value
  | 0x30 => { s with dev := { s.dev with mcbase := value &&& 0xF_FFFF_FFFF_FFC0#64 } }
  | 0x40 => { s with dev := { s.dev with lnresa := value &&& 0xFFF_FFFF_FFFF_FFFF#64 } }
  | 0x48 => lnresbWrite s 12 value
  | 0x50 => lncmdWrite s 12 value
  | 0x60 => { s with dev := { s.dev with deqbase := value &&& 0xF_FFFF_FFFF_FFE0#64 } }
  | 0x68 => ringHeadWrite s .deqcfg value
  | 0x70 => chrstWrite s value
  | 0x80 => attctlWrite s value
  | 0x88 => { s with dev := { s.dev with attn := vset s.dev.attn 0 value } }
  | 0x90 => { s with dev := { s.dev with attn := vset s.dev.attn 1 value } }
  | 0x98 => { s with dev := { s.dev with attn := vset s.dev.attn 2 value } }
  | 0xA0 => { s with dev := { s.dev with attn := vset s.dev.attn 3 value } }
  | _ => s

/-- R485: a device register written. The status registers are read-only. [log DEDUCED 118] -/
def devWrite (s : State) (off : Nat) (value : Dword) : State :=
  if off < 0x1000 then devPut s off value
  else if off < 0x1800 then modVf s ((off - 0x1000) / 8) fun r => { r with vfmap := value &&& 0x10F#64 }
  else if 0x2000 ≤ off && off < 0x2100 then { s with ltab := vset s.ltab ((off - 0x2000) / 8) (value &&& 0xFF#64) }
  else if 0x3000 ≤ off && off < 0x4000 then { s with gtab := vset s.gtab ((off - 0x3000) / 8) (value &&& 0x3FF#64) }
  else if 0x4000 ≤ off && off < 0x40A0 then lgctlWrite s ((off - 0x4000) / 8) value
  else s

/-! ## The window of a virtual function (R397, R486) -/

/-- R397, R486: a register of a virtual function's window written; a function that is off ignores it. [log DEDUCED
117] -/
def vfWrite (s : State) (v off : Nat) (value : Dword) : State :=
  match vfOwner s v with
  | none => s
  | some _ =>
    match off with
    | 0x00 => modVf s v fun r => { r with lqbase := value &&& 0xF_FFFF_FFFF_FF80#64 }
    | 0x08 => modVf s v fun r => { r with lqcfg := value &&& 0xF#64, off := false }
    | 0x10 => lqwrWrite s v value
    | 0x20 => modVf s v fun r => { r with vfint := r.vfint &&& ~~~value }
    | _ => s

/-- R484: an aligned 8-byte write to a register; another is ignored. -/
def registerWrite (s : State) (space : RegSpace) (off : Nat) (value : Dword) : State :=
  if off % 8 ≠ 0 then s
  else
    match space with
    | .device => devWrite s off value
    | .partition p => partWrite s p off value
    | .function v => vfWrite s v off value

/-- REGISTER_WRITE. -/
def execRegisterWrite (space : RegSpace) (offset : Nat) (value : BitVec 64) (s : State) :
    Host.Outcome State Fault Refusal :=
  .next (registerWrite s space offset value)

/-! ## What the registers read as -/

/-- R485: a register of a partition control block. -/
def partRead (r : PartRegs) (off : Nat) : Dword :=
  match off with
  | 0x000 => r.pctl
  | 0x008 => r.ftid
  | 0x010 => r.slent
  | 0x018 => r.swres
  | 0x040 => r.pslot
  | 0x048 => r.pblk
  | 0x050 => r.pbank
  | 0x058 => r.pacc
  | 0x060 => r.pctag
  | 0x068 => r.ppair
  | 0x070 => r.pclass
  | 0x078 => r.dlquota
  | 0x080 => r.tslice
  | 0x088 => r.ctxbase
  | 0x090 => r.ctxcfg
  | 0x100 => r.ptroot
  | 0x108 => r.s2cfg
  | 0x110 => r.ccm
  | 0x118 => r.rqbase
  | 0x120 => r.rqcfg
  | 0x128 => r.rqepoch
  | 0x130 => r.tinva
  | 0x138 => r.tinvc
  | 0x180 => r.rwcctl
  | 0x188 => r.bvbase
  | 0x190 => r.bvcfg
  | 0x198 => r.iwtab
  | 0x1A0 => r.uetab
  | 0x200 => r.lnresa
  | 0x208 => r.lnresb
  | 0x210 => r.lncmd
  | 0x240 => r.eqbase
  | 0x248 => r.eqcfg
  | 0x250 => r.dbgsta
  | 0x258 => r.dbgctl
  | _ => 0

/-- R439: lgctl. -/
def lgctlRead (g : LaneGroup) : Dword := BitVec.ofNat 64 (g.pers.toNat + 8 * g.mode.toNat + 32 * g.slot.toNat)

/-- R439: lgsta. -/
def lgstaRead (g : LaneGroup) : Dword :=
  BitVec.ofNat 64 (g.cur.toNat + 8 * g.state.toNat + 64 * g.cause.toNat + 2 ^ 10 * g.lanes.toNat + 2 ^ 18 * g.cap.toNat)

/-- R495, R496: blkst; an unassigned one reads zero. -/
def blkstRead (s : State) (num : Nat) : Dword :=
  if blockAssigned num then
    let b := blockOf s num
    BitVec.ofNat 64 (b.state.toNat + 2 ^ 8 * b.res.toNat + 2 ^ 16 * b.ce.toNat + 2 ^ 48 * b.ue.toNat)
  else 0

/-- R485: a device register below the tables. -/
def devGet (s : State) (off : Nat) : Dword :=
  match off with
  | 0x00 => s.dev.hlth
  | 0x08 => s.dev.lp6size
  | 0x10 => s.dev.shedord
  | 0x18 => s.dev.shedcfg
  | 0x20 => s.dev.swto
  | 0x28 => s.dev.mcctl
  | 0x30 => s.dev.mcbase
  | 0x40 => s.dev.lnresa
  | 0x48 => s.dev.lnresb
  | 0x50 => s.dev.lncmd
  | 0x60 => s.dev.deqbase
  | 0x68 => s.dev.deqcfg
  | 0x70 => s.dev.chrst
  | 0x80 => s.dev.attctl
  | 0x88 => vget s.dev.attn 0 0
  | 0x90 => vget s.dev.attn 1 0
  | 0x98 => vget s.dev.attn 2 0
  | 0xA0 => vget s.dev.attn 3 0
  | _ => 0

/-- R485: a device register. -/
def devRead (s : State) (off : Nat) : Dword :=
  if off < 0x1000 then devGet s off
  else if off < 0x1800 then (vfRegs s ((off - 0x1000) / 8)).vfmap
  else if 0x2000 ≤ off && off < 0x2100 then vget s.ltab ((off - 0x2000) / 8) 0
  else if 0x3000 ≤ off && off < 0x4000 then vget s.gtab ((off - 0x3000) / 8) 0
  else if 0x4000 ≤ off && off < 0x40A0 then lgctlRead (lgAt s ((off - 0x4000) / 8))
  else if 0x4100 ≤ off && off < 0x41A0 then lgstaRead (lgAt s ((off - 0x4100) / 8))
  else if 0x10000 ≤ off then blkstRead s ((off - 0x10000) / 8)
  else 0

/-- R397, R486: a register of a virtual function's window; a function that is off reads zero. -/
def vfRead (s : State) (v off : Nat) : Dword :=
  match vfOwner s v with
  | none => 0
  | some _ =>
    let r := vfRegs s v
    match off with
    | 0x00 => r.lqbase
    | 0x08 => r.lqcfg
    | 0x10 => r.lqwr
    | 0x18 => r.lqrd
    | 0x20 => r.vfint
    | _ => 0

/-- R484: what an aligned 8-byte read of a register gives; another reads zero. [log DEDUCED 118] -/
def registerRead (s : State) (space : RegSpace) (off : Nat) : Dword :=
  if off % 8 ≠ 0 then 0
  else
    match space with
    | .device => devRead s off
    | .partition p => if p < 12 then partRead (pregs s p) off else 0
    | .function v => vfRead s v off

end Sys2Proof.Machine
end

