-- ==== Sys2Proof/Machine/Elementary.lean ====
section
/-! DEFINITION. Machine/Elementary.lean: the exact values of the special functions (R197, R199, R206), to enough
bits below the last place of every format that the rounding of the value is the rounding of the function, and the
compatibility tables (R200 to R202). A fixed-point number N at precision P stands for N / 2^P. -/
namespace Sys2Proof.Machine

/-! ## Series -/

/-- The sum of term / (2k + 1), each term made from the one before it; signs alternate when alt is true. -/
def oddSum (alt : Bool) (next : Nat → Nat) : Nat → Nat → Nat → Int
  | 0, _, _ => 0
  | fuel + 1, k, term =>
    if term = 0 then 0
    else
      let v : Int := ((term / (2 * k + 1) : Nat) : Int)
      (if alt && k % 2 == 1 then -v else v) + oddSum alt next fuel (k + 1) (next term)

/-- The sum of a Taylor series whose term k + 1 is the term k times z over an integer. -/
def taylor (alt : Bool) (P z : Nat) (den : Nat → Nat) : Nat → Nat → Nat → Int
  | 0, _, _ => 0
  | fuel + 1, k, term =>
    if term = 0 then 0
    else (if alt && k % 2 == 1 then -(term : Int) else term) +
      taylor alt P z den fuel (k + 1) (term * z / 2 ^ P / den k)

/-- ln 2. -/
def ln2Fix (P : Nat) : Nat := 2 * (oddSum false (fun t => t / 9) P 0 (2 ^ P / 3)).toNat

/-- π, as 16 arctan(1/5) − 4 arctan(1/239). -/
def piFix (P : Nat) : Nat :=
  (16 * oddSum true (fun t => t / 25) P 0 (2 ^ P / 5) - 4 * oddSum true (fun t => t / 57121) P 0 (2 ^ P / 239)).toNat

/-- e^y for 0 ≤ y < 1. -/
def expSmall (P y : Nat) : Nat := (taylor false P y (fun k => k + 1) P 0 (2 ^ P)).toNat

/-- e^y for y ≥ 0: the value r and the power k of 2 that multiplies it. -/
def expFix (P y : Nat) : Nat × Nat :=
  let l := ln2Fix P
  (expSmall P (y % l), y / l)

/-- sin θ for 0 ≤ θ < 2. -/
def sinFix (P th : Nat) : Nat := (taylor true P (th * th / 2 ^ P) (fun k => (2 * k + 2) * (2 * k + 3)) P 0 th).toNat
/-- cos θ for 0 ≤ θ < 2. -/
def cosFix (P th : Nat) : Nat := (taylor true P (th * th / 2 ^ P) (fun k => (2 * k + 1) * (2 * k + 2)) P 0 (2 ^ P)).toNat

/-- ln(a / b) for b ≤ a < 2b. -/
def lnFix (P a b : Nat) : Nat :=
  let z := (a - b) * 2 ^ P / (a + b)
  2 * (oddSum false (fun t => t * (z * z / 2 ^ P) / 2 ^ P) P 0 z).toNat

/-- m × 2^e at precision P, rounded down. -/
def toFix (P m : Nat) (e : Int) : Nat :=
  if 0 ≤ (P : Int) + e then m * 2 ^ ((P : Int) + e).toNat else m / 2 ^ (-((P : Int) + e)).toNat

/-- An inexact value at precision P. -/
def fixVal (neg : Bool) (P N : Nat) : XVal := .fin neg N (-(P : Int)) true

/-- A precision that leaves at least 400 bits below the leading bit of any of the functions at m × 2^e. -/
def precFor (m : Nat) (e : Int) : Nat := 400 + 3 * (-((Nat.log2 m : Int) + e)).toNat

/-- A positive value below a half of every format's least one. -/
def tinyVal (neg : Bool) : XVal := .fin neg 1 (-3000) true
/-- A value just below 1. -/
def nearOne (neg : Bool) : XVal := .fin neg (2 ^ 200 - 1) (-200) true

/-! ## The functions of R197 at a finite value m × 2^e, m > 0 -/

/-- A bound on |x|: 2^k ≤ |x|. -/
def atLeastPow (m : Nat) (e : Int) (k : Int) : Bool := decide (k ≤ (Nat.log2 m : Int) + e)

/-- 2^x. -/
def exp2Val (neg : Bool) (m : Nat) (e : Int) : XVal :=
  if atLeastPow m e 12 then (if neg then tinyVal false else .fin false 1 5000 false)
  else
    let P := precFor m e
    let x : Int := (if neg then -1 else 1) * (m * 2 ^ e.toNat : Nat)
    let d : Nat := 2 ^ (-e).toNat
    let n := x / d
    let f := (x % d).toNat
    if f = 0 then .fin false 1 n false
    else .fin false (expSmall P (f * ln2Fix P / d)) (n - P) true

/-- log₂ x, x > 0. -/
def log2Val (m : Nat) (e : Int) : XVal :=
  let l := Nat.log2 m
  if m = 2 ^ l then xint (l + e)
  else
    let P := 700
    let v : Int := ((l : Int) + e) * 2 ^ P + (lnFix P m (2 ^ l) * 2 ^ P / ln2Fix P : Nat)
    .fin (decide (v < 0)) v.natAbs (-(P : Int)) true

/-- The quarter turn of x modulo 1 and the angle in it, as a fraction v / D of a quarter turn. -/
def quarter (neg : Bool) (m : Nat) (e : Int) : Nat × Nat × Nat :=
  if 0 ≤ e then (0, 0, 1)
  else
    let D := 2 ^ (-e).toNat
    let u := m % D
    let u := if neg then (D - u) % D else u
    (4 * u / D, 4 * u % D, D)

/-- sin(2πx); an exactly zero result takes the sign of x. -/
def sinpVal (neg : Bool) (m : Nat) (e : Int) : XVal :=
  let (q, v, D) := quarter false m e
  if v = 0 then (if q % 2 = 0 then xzero neg else .fin (neg != (q == 3)) 1 0 false)
  else
    let P := precFor m e
    let th := piFix P * v / (2 * D)
    fixVal (neg != (2 ≤ q)) P (if q % 2 = 0 then sinFix P th else cosFix P th)

/-- cos(2πx); an exactly zero result is +0. -/
def cospVal (m : Nat) (e : Int) : XVal :=
  let (q, v, D) := quarter false m e
  if v = 0 then (if q % 2 = 1 then xzero false else .fin (q == 2) 1 0 false)
  else
    let P := precFor m e
    let th := piFix P * v / (2 * D)
    fixVal (q == 1 || q == 2) P (if q % 2 = 0 then cosFix P th else sinFix P th)

/-- tanh x. -/
def tanhVal (neg : Bool) (m : Nat) (e : Int) : XVal :=
  if atLeastPow m e 6 then nearOne neg
  else
    let P := precFor m e
    let (r, k) := expFix P (toFix P m (e + 1))
    let E := r * 2 ^ k
    fixVal neg P ((E - 2 ^ P) * 2 ^ P / (E + 2 ^ P))

/-- 1 / (1 + e^(−x)). -/
def sigmVal (neg : Bool) (m : Nat) (e : Int) : XVal :=
  if atLeastPow m e 7 then (if neg then tinyVal false else nearOne false)
  else
    let P := precFor m e
    let (r, k) := expFix P (toFix P m e)
    let E := r * 2 ^ k
    fixVal false P ((if neg then 2 ^ P else E) * 2 ^ P / (E + 2 ^ P))

/-- e^(−y) for y = m × 2^e. -/
def expNegVal (m : Nat) (e : Int) : XVal :=
  if m = 0 then .fin false 1 0 false
  else if atLeastPow m e 8 then tinyVal false
  else
    let P := precFor m e
    let (r, k) := expFix P (toFix P m e)
    .fin false (2 ^ (2 * P) / r) (-(P : Int) - k) true

/-- R199: 1 / (2π) times 2^66, to the nearest integer. -/
def turnsK : Nat := 11743562013128004906

/-- R199: r of the product x × K. -/
def rredVal (neg : Bool) (m : Nat) (e : Int) : XVal :=
  if 66 ≤ e then xzero false
  else
    let D : Int := ((2 ^ (66 - e).toNat : Nat) : Int)
    let p : Int := (if neg then -1 else 1) * (m * turnsK : Nat)
    let r := p - D * ((2 * p + D) / (2 * D))
    if r = 0 then xzero false else .fin (decide (r < 0)) r.natAbs (e - 66) false

/-! ## Compatibility mode (R200 to R202) -/

/-- The tables of R200. -/
inductive CompatFn where
  | exp2 | log2 | sin | tanh
  deriving DecidableEq, Repr

/-- The precision of the tables' values. -/
def tblP : Nat := 240

/-- One over the width of a segment. -/
def CompatFn.inv : CompatFn → Nat
  | .exp2 => 64
  | .log2 => 64
  | .sin => 64
  | .tanh => 8

/-- g, g′ and g″ at i × w, at precision tblP. -/
def CompatFn.at (g : CompatFn) (i : Nat) : Int × Int × Int :=
  let P := tblP
  let one : Int := 2 ^ P
  let t := i * 2 ^ P / g.inv
  match g with
  | .exp2 =>
    let l := ln2Fix P
    let v : Int := if i = 64 then 2 * one else expSmall P (l * i / 64)
    (v, v * l / one, v * l / one * l / one)
  | .log2 =>
    let l : Int := ln2Fix P
    let v : Int := if i = 64 then one else (lnFix P (64 + i) 64 * 2 ^ P / ln2Fix P : Nat)
    let d : Int := one * one / l * 64 / (64 + i)
    (v, d, -(d * 64 / (64 + i)))
  | .sin =>
    let h := piFix P / 2
    let th := h * i / 64
    (sinFix P th, h * cosFix P th / one, -(((h * h / 2 ^ P * sinFix P th / 2 ^ P : Nat)) : Int))
  | .tanh =>
    let (r, k) := expFix P (2 * t)
    let E := r * 2 ^ k
    let v : Int := ((E - 2 ^ P) * 2 ^ P / (E + 2 ^ P) : Nat)
    let d := one - v * v / one
    (v, d, -(2 * v * d / one))

/-- RoundInt of a value at precision P. -/
def roundInt (P : Nat) (v : Int) : Int := (v + 2 ^ (P - 1)) / 2 ^ P

/-- R201: C0(g, i). -/
def compatC0 (g : CompatFn) (i : Nat) : Int := roundInt tblP ((g.at i).1 * 2 ^ 27)
/-- R201: C1(g, i). -/
def compatC1 (g : CompatFn) (i : Nat) : Int := roundInt tblP ((g.at i).2.1 * 2 ^ 27 / g.inv)
/-- R201: C2(g, i). -/
def compatC2 (g : CompatFn) (i : Nat) : Int :=
  max (roundInt tblP ((g.at i).2.2 * 2 ^ 26 / (g.inv * g.inv))) (-(compatC1 g i / 2))

/-- R202: CompatEval at t = m × 2^e, times 2^27. -/
def compatEval (g : CompatFn) (m : Nat) (e : Int) : Int :=
  let A := toFix 16 (m * g.inv) e
  let i := min (A / 2 ^ 16) 63
  let H : Int := ((A - i * 2 ^ 16 : Nat) : Int)
  let V := compatC0 g i + (compatC1 g i * H * 2 ^ 16 + compatC2 g i * H * H) / 2 ^ 32
  min (max V (compatC0 g i)) (compatC0 g (i + 1))

/-- A value over 2^27. -/
def over27 (v : Int) : XVal := .fin (decide (v < 0)) v.natAbs (-27) false

/-- R200: exp2. -/
def compatExp2 (neg : Bool) (m : Nat) (e : Int) : XVal :=
  if atLeastPow m e 12 then (if neg then tinyVal false else .fin false 1 5000 false)
  else
    let x : Int := (if neg then -1 else 1) * (m * 2 ^ e.toNat : Nat)
    let d : Nat := 2 ^ (-e).toNat
    .fin false (compatEval .exp2 (x % d).toNat (min e 0)).toNat (x / d - 27) false

/-- R200: log2, x > 0. -/
def compatLog2 (m : Nat) (e : Int) : XVal :=
  let l := Nat.log2 m
  over27 (((l : Int) + e) * 2 ^ 27 + compatEval .log2 (m - 2 ^ l) (-(l : Int)))

/-- R200: |r| of x, over 2^k, with the sign of r: x − Nearest(x), ties to even. -/
def nearestRem (neg : Bool) (m : Nat) (e : Int) : Bool × Nat × Nat :=
  let k := (-e).toNat
  let D := 2 ^ k
  let u := if 0 ≤ e then 0 else m % D
  let even := decide (m / D % 2 = 0)
  if D < 2 * u || (2 * u == D && !even) then (!neg, D - u, k) else (neg, u, k)

/-- R200: sinp. -/
def compatSinp (neg : Bool) (m : Nat) (e : Int) : XVal :=
  let (sg, r, k) := nearestRem neg m e
  let D := 2 ^ k
  let sv := if D < 4 * r then D - 2 * r else 2 * r
  let T := compatEval .sin (2 * sv) (-(k : Int))
  if T = 0 then xzero neg else .fin sg T.toNat (-27) false

/-- R200: cosp. -/
def compatCosp (m : Nat) (e : Int) : XVal :=
  let (_, r, k) := nearestRem false m e
  let D := 2 ^ k
  let T := compatEval .sin (if 4 * r ≤ D then D - 4 * r else 4 * r - D) (-(k : Int))
  if T = 0 then xzero false else .fin (decide (D < 4 * r)) T.toNat (-27) false

/-- R200: the tanh reduction: the value before the final rounding, and whether it is x itself. -/
def compatTanh (neg : Bool) (m : Nat) (e : Int) : XVal × Bool :=
  if !atLeastPow m e (-12) then (.fin neg m e false, true)
  else if atLeastPow m e 3 then (.fin neg 1 0 false, false)
  else (.fin neg (compatEval .tanh m e).toNat (-27) false, false)

/-- R200: sigm. -/
def compatSigm (neg : Bool) (m : Nat) (e : Int) : XVal :=
  match (compatTanh neg m (e - 1)).1 with
  | .nan => .nan
  | .inf n => .inf n
  | .fin n y k _ => addFin false 1 (-1) n y (k - 1) .rn

end Sys2Proof.Machine
end

