-- ==== Sys2Proof/Machine/Special.lean ====
section
/-! DEFINITION. Machine/Special.lean: the special functions and the angle reduction (R197 to R203). -/
namespace Sys2Proof.Machine

/-- R195: the tags the special functions take. -/
def isSfn (t : Tag) : Bool := t == 2#6 || t == 4#6 || t == 5#6

/-- The six special functions (R197). -/
inductive SfnOp where
  | exp2 | log2 | sinp | cosp | tanh | sigm
  deriving DecidableEq, Repr

/-- R198: the special operands, in both modes; none for the operands the function itself takes. -/
def sfnSpecial (op : SfnOp) (f : Flt) (x : Nat) : Option (Nat × Flags) :=
  let one (neg : Bool) : Nat := f.roundNE (.fin neg 1 0 false)
  let half : Nat := f.roundNE (.fin false 1 (-1) false)
  match f.decode x with
  | .nan => some (f.nanCode, snanFlag f [x])
  | .inf n =>
    match op with
    | .exp2 => some (if n then f.zeroEnc false else f.infCode, 0)
    | .log2 => some (if n then (f.nanCode, flagNV) else (f.infCode, 0))
    | .sinp => some (f.nanCode, flagNV)
    | .cosp => some (f.nanCode, flagNV)
    | .tanh => some (one n, 0)
    | .sigm => some (if n then f.zeroEnc false else one false, 0)
  | .fin n m e _ =>
    if m = 0 then
      match op with
      | .exp2 => some (one false, 0)
      | .log2 => some (f.withSign true f.infCode, flagDZ)
      | .sinp => some (f.zeroEnc n, 0)
      | .cosp => some (one false, 0)
      | .tanh => some (f.zeroEnc n, 0)
      | .sigm => some (half, 0)
    else
      match op with
      | .exp2 => none
      | .log2 => if n then some (f.nanCode, flagNV) else if m * 2 ^ e.toNat = 2 ^ (-e).toNat then some (f.zeroEnc false, 0) else none
      | .sinp => none
      | .cosp => none
      | .tanh => none
      | .sigm => none

/-- R197: F at a finite nonzero value. -/
def sfnNative (op : SfnOp) (n : Bool) (m : Nat) (e : Int) : XVal :=
  match op with
  | .exp2 => exp2Val n m e
  | .log2 => log2Val m e
  | .sinp => sinpVal n m e
  | .cosp => cospVal m e
  | .tanh => tanhVal n m e
  | .sigm => sigmVal n m e

/-- R200, R203: the compatibility function of an element. -/
def sfnCompat (op : SfnOp) (f : Flt) (x : Nat) (n : Bool) (m : Nat) (e : Int) : Nat × Flags :=
  match op with
  | .exp2 => f.round .rn (compatExp2 n m e)
  | .log2 => f.round .rn (compatLog2 m e)
  | .sinp => f.round .rn (compatSinp n m e)
  | .cosp => f.round .rn (compatCosp m e)
  | .tanh => if (compatTanh n m e).2 then (x, 0) else f.round .rn (compatTanh n m e).1
  | .sigm => f.round .rn (compatSigm n m e)

/-- R197, R198, R203: sfn of one element; compat is ctl.sfg. -/
def sfnElem (op : SfnOp) (compat : Bool) (f : Flt) (x : Nat) : Nat × Flags :=
  match sfnSpecial op f x with
  | some r => r
  | none =>
    match f.decode x with
    | .nan => (f.nanCode, 0)
    | .inf _ => (f.nanCode, 0)
    | .fin n m e _ => if compat then sfnCompat op f x n m e else f.round .rn (sfnNative op n m e)

/-- A special-function row of R195; capability bit 7 is set (R149), so compatibility mode is there. -/
def sfnSem (op : SfnOp) (g : Group) : LaneSem := fltSem isSfn fun f x _ _ => sfnElem op (g.ctl.getLsbD 0) f x

/-- SFN_EXP2. -/
def execSfnExp2 (w : LaneU) (s : State) : Host.Outcome State Fault Refusal := runLaneBy (.sfnExp2 w) (sfnSem .exp2) s
/-- SFN_LOG2. -/
def execSfnLog2 (w : LaneU) (s : State) : Host.Outcome State Fault Refusal := runLaneBy (.sfnLog2 w) (sfnSem .log2) s
/-- SFN_SINP. -/
def execSfnSinp (w : LaneU) (s : State) : Host.Outcome State Fault Refusal := runLaneBy (.sfnSinp w) (sfnSem .sinp) s
/-- SFN_COSP. -/
def execSfnCosp (w : LaneU) (s : State) : Host.Outcome State Fault Refusal := runLaneBy (.sfnCosp w) (sfnSem .cosp) s
/-- SFN_TANH. -/
def execSfnTanh (w : LaneU) (s : State) : Host.Outcome State Fault Refusal := runLaneBy (.sfnTanh w) (sfnSem .tanh) s
/-- SFN_SIGM. -/
def execSfnSigm (w : LaneU) (s : State) : Host.Outcome State Fault Refusal := runLaneBy (.sfnSigm w) (sfnSem .sigm) s

/-- R199: rred of one element. -/
def rredElem (f : Flt) (x : Nat) : Nat × Flags :=
  match f.decode x with
  | .nan => (f.nanCode, snanFlag f [x])
  | .inf _ => (f.nanCode, flagNV)
  | .fin n m e _ => if m = 0 then (x, 0) else f.round .rn (rredVal n m e)

/-- RRED. -/
def execRred (w : LaneU) (s : State) : Host.Outcome State Fault Refusal :=
  runLane (.rred w) (fltSem isSfn fun f x _ _ => rredElem f x) s

end Sys2Proof.Machine
end

