-- ==== Sys2Proof/Machine/Rows.lean ====
section
/-! DEFINITION. Machine/Rows.lean: the row operations (R204 to R210). -/
namespace Sys2Proof.Machine

/-- One result of a row operation: the register offset, a lane's value, the tag. -/
structure RowOut where
  off : Nat
  val : Nat → Dword
  tag : Tag

/-- R204: the elements of the row in index order, absent outside the active mask. [log DEDUCED 34] -/
def rowLeaves (c : Ctx) (M : Mask) (t : Tag) (r n : Nat) : List (Option Nat) :=
  (List.range n).flatMap fun j => (List.range 32).flatMap fun l => (List.range (count t)).map fun e =>
    if M.getLsbD l then some (elem t (srcVal c (isF64 t) (.reg (r + (if isF64 t then 2 else 1) * j)) l) e) else none

/-- What sets a row operation apart: the tags it takes, how many destination registers it writes, whether they start
at an even one, and its results and flags from the row's leaves. -/
structure RowSem where
  ok : Tag → Bool
  dst : Tag → Nat
  evenD : Tag → Bool
  fn : Tag → List (Option Nat) → List RowOut × Flags

/-- Two registers a multiple apart. [log DEDUCED 27] -/
def regOf (x : Src) : Option Nat :=
  match x with
  | .reg r => some r
  | .none => none
  | .latch _ => none
  | .zero => none
  | .lane => none
  | .imm _ => none
  | .scalar _ => none

/-- R205, R208: the results written from the destination up. -/
def writeRow (g : Group) (d : Src) (M : Mask) (outs : List RowOut) : Group :=
  match regOf d with
  | some n => outs.foldl (fun g x => writeV g (n + x.off) M x.val x.tag) g
  | none => g

/-- R196: the latch of the last register written. -/
def rowLatch (g : Group) (d : Src) (M : Mask) (outs : List RowOut) : Option Latch :=
  outs.getLast?.map fun x =>
    makeLatch g (match regOf d with
      | some n => .reg (n + x.off)
      | none => .none) M x.val x.tag

/-- R204, R205, R210: a row operation of row length n. [log DEDUCED 27, 33] -/
def runRow (i : Instr) (n : Nat) (sem : RowSem) (s : State) : Host.Outcome State Fault Refusal :=
  runCore i s fun c p f o => do
    let M := activeMask c p.operand f.guard
    match regOf o.a with
    | none => trapOn causeIllegalOperand c.mask
    | some r =>
      let t := tagOf c.g r
      let k := (if isF64 t then 2 else 1) * n
      need (!(oddPair (isF64 t) o.a || oddPair (sem.evenD t) o.d)) causeIllegalOperand c.mask
      need (heldSpan c.g o.a k && heldSpan c.g o.d (sem.dst t)) causeRegisterBounds c.mask
      need (!(isF64 t && (List.range n).any fun j => brokenPair c true (.reg (r + 2 * j)))) causeFormatMismatch M
      let chk ← checkFmt c (sem.ok t && (List.range k).all fun j => tagOf c.g (r + j) == t) M
      match chk with
      | .masked => return writeMasked s c f.chain M
      | .ok =>
        let (outs, F) := sem.fn t (rowLeaves c M t r n)
        let g := writeRow c.g o.d M outs
        let g := addSticky g fun l => if M.getLsbD l then F else 0
        return putGroup s (advanceGroup s c f.chain (rowLatch g o.d M outs) g)

/-! ## The maximum and the sum (R205, R206) -/

/-- R205: the format M widens to. -/
def wideFlt (t : Tag) : Flt := if isF64 t then fp64 else fp32
/-- The tag of that format. -/
def wideTag (t : Tag) : Tag := if isF64 t then 3 else 2

/-- R205: M, widened exactly. -/
def rowMax (t : Tag) (xs : List (Option Nat)) : Nat × Flags :=
  let (r, F) := reduceElems .max t xs
  ((wideFlt t).roundNE ((fltOf t).decode (r.getD (redIdentity .max t))), F)

/-- R206: ExpLeaf(x, M), an FP32 code. -/
def expLeaf (x M : XVal) : Nat :=
  match M, x with
  | .nan, _ => fp32.nanCode
  | _, .nan => fp32.nanCode
  | _, .inf true => 0
  | .inf false, .inf false => fp32.roundNE (.fin false 1 0 false)
  | .inf false, .fin _ _ _ _ => 0
  | .inf true, .inf false => 0
  | .inf true, .fin _ _ _ _ => 0
  | .fin _ _ _ _, .inf false => 0
  | .fin n1 m1 e1 _, .fin n2 m2 e2 _ =>
    match addFin n2 m2 e2 (!n1) m1 e1 .rn with
    | .nan => fp32.nanCode
    | .inf _ => 0
    | .fin _ m e _ => fp32.roundNE (expNegVal m e)

/-- R206: the leaves of a row under M, and S with the status of its tree. -/
def expRow (t : Tag) (M : Nat) (xs : List (Option Nat)) : List (Option Nat) × Nat × Flags :=
  let ls := xs.map fun x => x.map fun v => expLeaf ((fltOf t).decode v) (fp32.decode M)
  let (r, F) := reduceElems .sum 2 ls
  (ls, r.getD 0, F)

/-- A result written to every lane. -/
def uniform (off : Nat) (v : Nat) (t : Tag) : RowOut := ⟨off, fun _ => BitVec.ofNat 64 v, t⟩

/-- RMAX. -/
def execRmax (w : LaneW) (s : State) : Host.Outcome State Fault Refusal :=
  runRow (.rmax w) w.b.toNat
    { ok := isFlt, dst := fun t => if isF64 t then 2 else 1, evenD := isF64
      fn := fun t xs =>
        let (m, F) := rowMax t xs
        ([uniform 0 m (wideTag t)], F) } s

/-- RSEXP. -/
def execRsexp (w : LaneW) (s : State) : Host.Outcome State Fault Refusal :=
  runRow (.rsexp w) w.b.toNat
    { ok := fun t => isFlt t && !isF64 t, dst := fun _ => 2, evenD := fun _ => false
      fn := fun t xs =>
        let (m, F) := rowMax t xs
        let (_, S, G) := expRow t m xs
        ([uniform 0 m 2, uniform 1 S 2], F ||| G) } s

/-- R207: the triple of a row, and its status. -/
def rowStat (t : Tag) (xs : List (Option Nat)) : Stat × Flags :=
  let f := wideFlt t
  let leaf (v : Nat) : Stat := ⟨1, f.roundNE ((fltOf t).decode v), 0⟩
  let (r, F) := treeRoot (statNode f) (treeDepth xs.length) (xs.map fun x => x.map leaf)
  (r.getD ⟨0, 0, 0⟩, xs.foldl (fun G x => match x with
    | some v => G ||| leafFlag t v
    | none => G) F)

/-- RSTAT. -/
def execRstat (w : LaneW) (s : State) : Host.Outcome State Fault Refusal :=
  runRow (.rstat w) w.b.toNat
    { ok := isFlt, dst := fun t => if isF64 t then 6 else 3, evenD := isF64
      fn := fun t xs =>
        let (r, F) := rowStat t xs
        (if isF64 t then [uniform 0 r.n 0, uniform 1 0 0, uniform 2 r.mu 3, uniform 4 r.ss 3]
          else [uniform 0 r.n 0, uniform 1 r.mu 2, uniform 2 r.ss 2], F) } s

/-! ## smx and rnorm (R208, R209) -/

/-- The results of a row of new elements: element codes by index. -/
def rowWords (t : Tag) (n : Nat) (ys : List Nat) : List RowOut :=
  (List.range n).map fun j =>
    ⟨j, fun l => BitVec.ofNat 64 (joinElems (ewidth t) ((ys.drop ((j * 32 + l) * count t)).take (count t))), t⟩

/-- R208: y of one leaf. -/
def smxElem (f : Flt) (S : Nat) (leaf : Option Nat) : Nat × Flags :=
  match leaf with
  | none => (0, 0)
  | some v => f.round .rn (xdiv (fp32.decode v) (fp32.decode S)).1

/-- SMX. -/
def execSmx (w : LaneW) (s : State) : Host.Outcome State Fault Refusal :=
  runRow (.smx w) w.b.toNat
    { ok := isSfn, dst := fun _ => w.b.toNat, evenD := fun _ => false
      fn := fun t xs =>
        let (m, F) := rowMax t xs
        if fp32.decode m = .inf true then (rowWords t w.b.toNat (xs.map fun _ => 0), F ||| flagNV)
        else
          let (ls, S, G) := expRow t m xs
          let r := ls.map (smxElem (fltOf t) S)
          (rowWords t w.b.toNat (r.map Prod.fst), r.foldl (fun F z => F ||| z.2) (F ||| G)) } s

/-- R209: the scale s of a row, or none when every element is written unchanged; with the status of the tree. -/
def normScale (t : Tag) (xs : List (Option Nat)) : Option Nat × Flags :=
  let sq (v : Nat) : Nat := fp32.roundNE (xmul ((fltOf t).decode v) ((fltOf t).decode v)).1
  let (r, F) := reduceElems .sum 2 (xs.map fun x => x.map sq)
  let c := (xs.filter Option.isSome).length
  let q := if c = 0 then 0 else fp32.roundNE (xdiv (fp32.decode (r.getD 0)) (xint c)).1
  if q = 0 then (none, F) else (some (frsqElem .rn fp32 q).1, F)

/-- R209: y of one element. [log DEDUCED 34] -/
def normElem (f : Flt) (sc : Option Nat) (x : Option Nat) : Nat × Flags :=
  match x, sc with
  | none, _ => (0, 0)
  | some v, none => (v, 0)
  | some v, some k =>
    let (p, F) := xmul (f.decode v) (fp32.decode k)
    let (y, G) := f.round .rn p
    (y, F ||| G)

/-- RNORM. -/
def execRnorm (w : LaneW) (s : State) : Host.Outcome State Fault Refusal :=
  runRow (.rnorm w) w.b.toNat
    { ok := isSfn, dst := fun _ => w.b.toNat, evenD := fun _ => false
      fn := fun t xs =>
        let (sc, F) := normScale t xs
        let r := xs.map (normElem (fltOf t) sc)
        (rowWords t w.b.toNat (r.map Prod.fst), (xs.foldl (fun G x => match x with
          | some v => G ||| leafFlag t v
          | none => G) (r.foldl (fun F z => F ||| z.2) F))) } s

end Sys2Proof.Machine
end

