-- ==== Sys2Proof/Machine/Dispatch.lean ====
section
/-! DEFINITION. Machine/Dispatch.lean: each instruction's meaning, one arm for each constructor. -/
namespace Sys2Proof.Machine

def exec (i : Instr) (s : State) : Host.Outcome State Fault Refusal :=
  match i with
  | .add w => Sys2Proof.Machine.execAdd w s
  | .sub w => Sys2Proof.Machine.execSub w s
  | .mul w => Sys2Proof.Machine.execMul w s
  | .mulh w => Sys2Proof.Machine.execMulh w s
  | .mad w => Sys2Proof.Machine.execMad w s
  | .min w => Sys2Proof.Machine.execMin w s
  | .max w => Sys2Proof.Machine.execMax w s
  | .and w => Sys2Proof.Machine.execAnd w s
  | .or w => Sys2Proof.Machine.execOr w s
  | .xor w => Sys2Proof.Machine.execXor w s
  | .andn w => Sys2Proof.Machine.execAndn w s
  | .shl w => Sys2Proof.Machine.execShl w s
  | .shr w => Sys2Proof.Machine.execShr w s
  | .sra w => Sys2Proof.Machine.execSra w s
  | .rot w => Sys2Proof.Machine.execRot w s
  | .iunAbs w => Sys2Proof.Machine.execIunAbs w s
  | .iunNeg w => Sys2Proof.Machine.execIunNeg w s
  | .iunNot w => Sys2Proof.Machine.execIunNot w s
  | .iunClz w => Sys2Proof.Machine.execIunClz w s
  | .iunPopc w => Sys2Proof.Machine.execIunPopc w s
  | .iunBrev w => Sys2Proof.Machine.execIunBrev w s
  | .iunMov w => Sys2Proof.Machine.execIunMov w s
  | .bfx w => Sys2Proof.Machine.execBfx w s
  | .bfi w => Sys2Proof.Machine.execBfi w s
  | .sel w => Sys2Proof.Machine.execSel w s
  | .cmp w => Sys2Proof.Machine.execCmp w s
  | .addsat w => Sys2Proof.Machine.execAddsat w s
  | .subsat w => Sys2Proof.Machine.execSubsat w s
  | .sad w => Sys2Proof.Machine.execSad w s
  | .movi w => Sys2Proof.Machine.execMovi w s
  | .lsa w => Sys2Proof.Machine.execLsa w s
  | .fadd w => Sys2Proof.Machine.execFadd w s
  | .fsub w => Sys2Proof.Machine.execFsub w s
  | .fmul w => Sys2Proof.Machine.execFmul w s
  | .ffma w => Sys2Proof.Machine.execFfma w s
  | .fmin w => Sys2Proof.Machine.execFmin w s
  | .fmax w => Sys2Proof.Machine.execFmax w s
  | .fminp w => Sys2Proof.Machine.execFminp w s
  | .fmaxp w => Sys2Proof.Machine.execFmaxp w s
  | .fcmp w => Sys2Proof.Machine.execFcmp w s
  | .fclass w => Sys2Proof.Machine.execFclass w s
  | .fdiv w => Sys2Proof.Machine.execFdiv w s
  | .fsqrt w => Sys2Proof.Machine.execFsqrt w s
  | .frcp w => Sys2Proof.Machine.execFrcp w s
  | .frsq w => Sys2Proof.Machine.execFrsq w s
  | .frint w => Sys2Proof.Machine.execFrint w s
  | .fscale w => Sys2Proof.Machine.execFscale w s
  | .cvt w => Sys2Proof.Machine.execCvt w s
  | .cvti w => Sys2Proof.Machine.execCvti w s
  | .cvtf w => Sys2Proof.Machine.execCvtf w s
  | .pk w => Sys2Proof.Machine.execPk w s
  | .upk w => Sys2Proof.Machine.execUpk w s
  | .retag w => Sys2Proof.Machine.execRetag w s
  | .fabs w => Sys2Proof.Machine.execFabs w s
  | .fneg w => Sys2Proof.Machine.execFneg w s
  | .fcpsgn w => Sys2Proof.Machine.execFcpsgn w s
  | .sfnExp2 w => Sys2Proof.Machine.execSfnExp2 w s
  | .sfnLog2 w => Sys2Proof.Machine.execSfnLog2 w s
  | .sfnSinp w => Sys2Proof.Machine.execSfnSinp w s
  | .sfnCosp w => Sys2Proof.Machine.execSfnCosp w s
  | .sfnTanh w => Sys2Proof.Machine.execSfnTanh w s
  | .sfnSigm w => Sys2Proof.Machine.execSfnSigm w s
  | .rred w => Sys2Proof.Machine.execRred w s
  | .swpp w => Sys2Proof.Machine.execSwpp w s
  | .shfl w => Sys2Proof.Machine.execShfl w s
  | .rfal w => Sys2Proof.Machine.execRfal w s
  | .bcast w => Sys2Proof.Machine.execBcast w s
  | .voteAny w => Sys2Proof.Machine.execVoteAny w s
  | .voteAll w => Sys2Proof.Machine.execVoteAll w s
  | .voteBallot w => Sys2Proof.Machine.execVoteBallot w s
  | .matchLanes w => Sys2Proof.Machine.execMatchLanes w s
  | .redlSum w => Sys2Proof.Machine.execRedlSum w s
  | .redlMax w => Sys2Proof.Machine.execRedlMax w s
  | .redlMin w => Sys2Proof.Machine.execRedlMin w s
  | .rmax w => Sys2Proof.Machine.execRmax w s
  | .rsexp w => Sys2Proof.Machine.execRsexp w s
  | .rstat w => Sys2Proof.Machine.execRstat w s
  | .smx w => Sys2Proof.Machine.execSmx w s
  | .rnorm w => Sys2Proof.Machine.execRnorm w s
  | .sadd w => Sys2Proof.Machine.execSadd w s
  | .ssub w => Sys2Proof.Machine.execSsub w s
  | .smul w => Sys2Proof.Machine.execSmul w s
  | .smad w => Sys2Proof.Machine.execSmad w s
  | .sand w => Sys2Proof.Machine.execSand w s
  | .sor w => Sys2Proof.Machine.execSor w s
  | .sxor w => Sys2Proof.Machine.execSxor w s
  | .sshl w => Sys2Proof.Machine.execSshl w s
  | .sshr w => Sys2Proof.Machine.execSshr w s
  | .ssra w => Sys2Proof.Machine.execSsra w s
  | .smin w => Sys2Proof.Machine.execSmin w s
  | .smax w => Sys2Proof.Machine.execSmax w s
  | .scmp w => Sys2Proof.Machine.execScmp w s
  | .smov w => Sys2Proof.Machine.execSmov w s
  | .slsa w => Sys2Proof.Machine.execSlsa w s
  | .sli w => Sys2Proof.Machine.execSli w s
  | .bru pfx guard off => Sys2Proof.Machine.execBru pfx guard off s
  | .brd pfx guard off => Sys2Proof.Machine.execBrd pfx guard off s
  | .jmp a => Sys2Proof.Machine.execJmp a s
  | .jmpx pfx guard a => Sys2Proof.Machine.execJmpx pfx guard a s
  | .call pfx guard off => Sys2Proof.Machine.execCall pfx guard off s
  | .ret => Sys2Proof.Machine.execRet s
  | .exit pfx guard => Sys2Proof.Machine.execExit pfx guard s
  | .yld => Sys2Proof.Machine.execYld s
  | .kill pfx guard => Sys2Proof.Machine.execKill pfx guard s
  | .ld w => Sys2Proof.Machine.execLd w s
  | .st w => Sys2Proof.Machine.execSt w s
  | .lds w => Sys2Proof.Machine.execLds w s
  | .sts w => Sys2Proof.Machine.execSts w s
  | .ldu w => Sys2Proof.Machine.execLdu w s
  | .stu w => Sys2Proof.Machine.execStu w s
  | .pgreq pfx guard a => Sys2Proof.Machine.execPgreq pfx guard a s
  | .rgnBegin pfx => Sys2Proof.Machine.execRgnBegin pfx s
  | .rgnCommit pfx => Sys2Proof.Machine.execRgnCommit pfx s
  | .atmAdd w => Sys2Proof.Machine.execAtmAdd w s
  | .atmMin w => Sys2Proof.Machine.execAtmMin w s
  | .atmMax w => Sys2Proof.Machine.execAtmMax w s
  | .atmAnd w => Sys2Proof.Machine.execAtmAnd w s
  | .atmOr w => Sys2Proof.Machine.execAtmOr w s
  | .atmXor w => Sys2Proof.Machine.execAtmXor w s
  | .atmXchg w => Sys2Proof.Machine.execAtmXchg w s
  | .atmCas w => Sys2Proof.Machine.execAtmCas w s
  | .ctrb pfx guard d a b => Sys2Proof.Machine.execCtrb pfx guard d a b s
  | .redInit pfx a => Sys2Proof.Machine.execRedInit pfx a s
  | .redNull pfx guard d a => Sys2Proof.Machine.execRedNull pfx guard d a s
  | .redQuery pfx d a => Sys2Proof.Machine.execRedQuery pfx d a s
  | .mst pfx d a b => Sys2Proof.Machine.execMst pfx d a b s
  | .fence pfx scope a => Sys2Proof.Machine.execFence pfx scope a s
  | .fenceS pfx => Sys2Proof.Machine.execFenceS pfx s
  | .fencex pfx path2 path1 scope a => Sys2Proof.Machine.execFencex pfx path2 path1 scope a s
  | .bar pfx spec scope a => Sys2Proof.Machine.execBar pfx spec scope a s
  | .mmt pfx d a => Sys2Proof.Machine.execMmt pfx d a s
  | .tcon pfx d a => Sys2Proof.Machine.execTcon pfx d a s
  | .accZero pfx d => Sys2Proof.Machine.execAccZero pfx d s
  | .accBind d => Sys2Proof.Machine.execAccBind d s
  | .accLoad pfx d a => Sys2Proof.Machine.execAccLoad pfx d a s
  | .accStore pfx d a => Sys2Proof.Machine.execAccStore pfx d a s
  | .accFold pfx d => Sys2Proof.Machine.execAccFold pfx d s
  | .accCtrb pfx d a => Sys2Proof.Machine.execAccCtrb pfx d a s
  | .cpyLoad pfx d a => Sys2Proof.Machine.execCpyLoad pfx d a s
  | .cpyStore pfx d a => Sys2Proof.Machine.execCpyStore pfx d a s
  | .cpyGather pfx d a => Sys2Proof.Machine.execCpyGather pfx d a s
  | .cpyScatter pfx d a => Sys2Proof.Machine.execCpyScatter pfx d a s
  | .cpyFill pfx d a => Sys2Proof.Machine.execCpyFill pfx d a s
  | .cpyL2pf pfx d a => Sys2Proof.Machine.execCpyL2pf pfx d a s
  | .cpyXfer pfx d a => Sys2Proof.Machine.execCpyXfer pfx d a s
  | .wtgAny a => Sys2Proof.Machine.execWtgAny a s
  | .wtgAll a => Sys2Proof.Machine.execWtgAll a s
  | .wtgFirst d a => Sys2Proof.Machine.execWtgFirst d a s
  | .wtgTest d a => Sys2Proof.Machine.execWtgTest d a s
  | .engGset a => Sys2Proof.Machine.execEngGset a s
  | .engPlan pfx a => Sys2Proof.Machine.execEngPlan pfx a s
  | .engLaunch pfx d a => Sys2Proof.Machine.execEngLaunch pfx d a s
  | .engWaitl d a => Sys2Proof.Machine.execEngWaitl d a s
  | .engLnt pfx a => Sys2Proof.Machine.execEngLnt pfx a s
  | .sysTrap a => Sys2Proof.Machine.execSysTrap a s
  | .sysRte => Sys2Proof.Machine.execSysRte s
  | .sysMovsr d a => Sys2Proof.Machine.execSysMovsr d a s
  | .sysMovcr a => Sys2Proof.Machine.execSysMovcr a s
  | .sysRegacq a => Sys2Proof.Machine.execSysRegacq a s
  | .sysRegrel a => Sys2Proof.Machine.execSysRegrel a s
  | .sysXiset a => Sys2Proof.Machine.execSysXiset a s
  | .sysStat d => Sys2Proof.Machine.execSysStat d s
  | .sysNop => Sys2Proof.Machine.execSysNop s
  | .sysBrk a => Sys2Proof.Machine.execSysBrk a s
  | .sysMode d a => Sys2Proof.Machine.execSysMode d a s
  | .sysClk d => Sys2Proof.Machine.execSysClk d s
  | .ill raw => Sys2Proof.Machine.execIll raw s
  | .movC16 w => Sys2Proof.Machine.execMovC16 w s
  | .addC16 w => Sys2Proof.Machine.execAddC16 w s
  | .subC16 w => Sys2Proof.Machine.execSubC16 w s
  | .mulC16 w => Sys2Proof.Machine.execMulC16 w s
  | .andC16 w => Sys2Proof.Machine.execAndC16 w s
  | .orC16 w => Sys2Proof.Machine.execOrC16 w s
  | .xorC16 w => Sys2Proof.Machine.execXorC16 w s
  | .shlC16 w => Sys2Proof.Machine.execShlC16 w s
  | .shrC16 w => Sys2Proof.Machine.execShrC16 w s
  | .faddC16 w => Sys2Proof.Machine.execFaddC16 w s
  | .fsubC16 w => Sys2Proof.Machine.execFsubC16 w s
  | .fmulC16 w => Sys2Proof.Machine.execFmulC16 w s
  | .fminC16 w => Sys2Proof.Machine.execFminC16 w s
  | .fmaxC16 w => Sys2Proof.Machine.execFmaxC16 w s
  | .fnegC16 w => Sys2Proof.Machine.execFnegC16 w s
  | .sraC16 w => Sys2Proof.Machine.execSraC16 w s
  | .filterEnd => Sys2Proof.Machine.execFilterEnd s
  | .filterAdd b a d => Sys2Proof.Machine.execFilterAdd b a d s
  | .filterSub b a d => Sys2Proof.Machine.execFilterSub b a d s
  | .filterMul b a d => Sys2Proof.Machine.execFilterMul b a d s
  | .filterAnd b a d => Sys2Proof.Machine.execFilterAnd b a d s
  | .filterOr b a d => Sys2Proof.Machine.execFilterOr b a d s
  | .filterXor b a d => Sys2Proof.Machine.execFilterXor b a d s
  | .filterShl b a d => Sys2Proof.Machine.execFilterShl b a d s
  | .filterShr b a d => Sys2Proof.Machine.execFilterShr b a d s
  | .filterMin b a d => Sys2Proof.Machine.execFilterMin b a d s
  | .filterMax b a d => Sys2Proof.Machine.execFilterMax b a d s
  | .filterClz a d => Sys2Proof.Machine.execFilterClz a d s
  | .filterAddi imm a d => Sys2Proof.Machine.execFilterAddi imm a d s
  | .filterAndi imm a d => Sys2Proof.Machine.execFilterAndi imm a d s
  | .filterShli n a d => Sys2Proof.Machine.execFilterShli n a d s
  | .filterShri n a d => Sys2Proof.Machine.execFilterShri n a d s
  | .filterMovi imm d => Sys2Proof.Machine.execFilterMovi imm d s
  | .filterLdk k d => Sys2Proof.Machine.execFilterLdk k d s
  | .filterLdst k d => Sys2Proof.Machine.execFilterLdst k d s
  | .filterStst k a => Sys2Proof.Machine.execFilterStst k a s
  | .filterLbkt a d => Sys2Proof.Machine.execFilterLbkt a d s
  | .filterHadd h b a => Sys2Proof.Machine.execFilterHadd h b a s
  | .filterKadd k b a => Sys2Proof.Machine.execFilterKadd k b a s
  | .filterKest k a d => Sys2Proof.Machine.execFilterKest k a d s
  | .filterBeq n b a => Sys2Proof.Machine.execFilterBeq n b a s
  | .filterBne n b a => Sys2Proof.Machine.execFilterBne n b a s
  | .filterBltu n b a => Sys2Proof.Machine.execFilterBltu n b a s
  | .filterTrig t a => Sys2Proof.Machine.execFilterTrig t a s
  | .issueOpportunity core slot => Sys2Proof.Machine.execIssueOpportunity core slot s
  | .splitRotation core gslot => Sys2Proof.Machine.execSplitRotation core gslot s
  | .yldResume core gslot entry => Sys2Proof.Machine.execYldResume core gslot entry s
  | .regacqGrant core => Sys2Proof.Machine.execRegacqGrant core s
  | .coreBufferForward core => Sys2Proof.Machine.execCoreBufferForward core s
  | .fragmentReoffer core => Sys2Proof.Machine.execFragmentReoffer core s
  | .spillExhausted core => Sys2Proof.Machine.execSpillExhausted core s
  | .fenceRetire core gslot entry => Sys2Proof.Machine.execFenceRetire core gslot entry s
  | .issueAccessComplete core gslot entry => Sys2Proof.Machine.execIssueAccessComplete core gslot entry s
  | .engineQueueRetry core gslot entry => Sys2Proof.Machine.execEngineQueueRetry core gslot entry s
  | .commandStart cid => Sys2Proof.Machine.execCommandStart cid s
  | .commandComplete cid => Sys2Proof.Machine.execCommandComplete cid s
  | .guardFlagRead cid => Sys2Proof.Machine.execGuardFlagRead cid s
  | .cpyFifoElement cid => Sys2Proof.Machine.execCpyFifoElement cid s
  | .wtgWake core gslot entry => Sys2Proof.Machine.execWtgWake core gslot entry s
  | .waitlReturn core gslot entry => Sys2Proof.Machine.execWaitlReturn core gslot entry s
  | .gsetExchange core gslot entry => Sys2Proof.Machine.execGsetExchange core gslot entry s
  | .fifoAccessResume core gslot entry => Sys2Proof.Machine.execFifoAccessResume core gslot entry s
  | .bankDrainComplete core bank => Sys2Proof.Machine.execBankDrainComplete core bank s
  | .rwcLineDrain core => Sys2Proof.Machine.execRwcLineDrain core s
  | .invalidationComplete part => Sys2Proof.Machine.execInvalidationComplete part s
  | .launchQueueTake vf => Sys2Proof.Machine.execLaunchQueueTake vf s
  | .launchRecordRetry vf => Sys2Proof.Machine.execLaunchRecordRetry vf s
  | .pendingRelease part => Sys2Proof.Machine.execPendingRelease part s
  | .teamPlace gid cores => Sys2Proof.Machine.execTeamPlace gid cores s
  | .teamEnd gid team => Sys2Proof.Machine.execTeamEnd gid team s
  | .contextWritten gid team => Sys2Proof.Machine.execContextWritten gid team s
  | .teamRestore gid team core => Sys2Proof.Machine.execTeamRestore gid team core s
  | .timeSliceEnd gid team => Sys2Proof.Machine.execTimeSliceEnd gid team s
  | .accessCompletion core gslot => Sys2Proof.Machine.execAccessCompletion core gslot s
  | .requestTimeout tag => Sys2Proof.Machine.execRequestTimeout tag s
  | .slotTimeout slot => Sys2Proof.Machine.execSlotTimeout slot s
  | .planContextTake cid => Sys2Proof.Machine.execPlanContextTake cid s
  | .sliceRedInit => Sys2Proof.Machine.execSliceRedInit s
  | .arriveAt => Sys2Proof.Machine.execArriveAt s
  | .tinvFirstStage part => Sys2Proof.Machine.execTinvFirstStage part s
  | .tinvSecondStage part => Sys2Proof.Machine.execTinvSecondStage part s
  | .tinvAll part => Sys2Proof.Machine.execTinvAll part s
  | .tinvWindows part => Sys2Proof.Machine.execTinvWindows part s
  | .queueHeadWrite reg value => Sys2Proof.Machine.execQueueHeadWrite reg value s
  | .lqwrWrite vf value => Sys2Proof.Machine.execLqwrWrite vf value s
  | .preemptionRequest victims gid modes => Sys2Proof.Machine.execPreemptionRequest victims gid modes s
  | .shedStep milliwatts => Sys2Proof.Machine.execShedStep milliwatts s
  | .shedUndo milliwatts => Sys2Proof.Machine.execShedUndo milliwatts s
  | .rateRecovery part group => Sys2Proof.Machine.execRateRecovery part group s
  | .rd p => Sys2Proof.Machine.execRd p s
  | .wr p => Sys2Proof.Machine.execWr p s
  | .wrm p => Sys2Proof.Machine.execWrm p s
  | .atmPacket p => Sys2Proof.Machine.execAtmPacket p s
  | .frag p => Sys2Proof.Machine.execFrag p s
  | .mstPacket p => Sys2Proof.Machine.execMstPacket p s
  | .token p => Sys2Proof.Machine.execToken p s
  | .ack p => Sys2Proof.Machine.execAck p s
  | .nack p => Sys2Proof.Machine.execNack p s
  | .rdr p => Sys2Proof.Machine.execRdr p s
  | .atr p => Sys2Proof.Machine.execAtr p s
  | .mack p => Sys2Proof.Machine.execMack p s
  | .seqa p => Sys2Proof.Machine.execSeqa p s
  | .skip p => Sys2Proof.Machine.execSkip p s
  | .packetRoute p port => Sys2Proof.Machine.execPacketRoute p port s
  | .seqaSend dev tclass => Sys2Proof.Machine.execSeqaSend dev tclass s
  | .packetResend dev tclass => Sys2Proof.Machine.execPacketResend dev tclass s
  | .skipResend tag => Sys2Proof.Machine.execSkipResend tag s
  | .channelReset value => Sys2Proof.Machine.execChannelReset value s
  | .flitError port => Sys2Proof.Machine.execFlitError port s
  | .lossOfLock port => Sys2Proof.Machine.execLossOfLock port s
  | .linkTrainResult port trained => Sys2Proof.Machine.execLinkTrainResult port trained s
  | .portRejoin port => Sys2Proof.Machine.execPortRejoin port s
  | .managementRetrain port => Sys2Proof.Machine.execManagementRetrain port s
  | .lgctlGo n value => Sys2Proof.Machine.execLgctlGo n value s
  | .lgQuiesceEnd n => Sys2Proof.Machine.execLgQuiesceEnd n s
  | .lgDrainEnd n met => Sys2Proof.Machine.execLgDrainEnd n met s
  | .lgRetrainEnd n trained lanes cap => Sys2Proof.Machine.execLgRetrainEnd n trained lanes cap s
  | .lgMap n => Sys2Proof.Machine.execLgMap n s
  | .bootTableAccess n write => Sys2Proof.Machine.execBootTableAccess n write s
  | .keyPassExpiry key => Sys2Proof.Machine.execKeyPassExpiry key s
  | .multicastLoad value => Sys2Proof.Machine.execMulticastLoad value s
  | .memberTimeout group member => Sys2Proof.Machine.execMemberTimeout group member s
  | .planNop ctx op => Sys2Proof.Machine.execPlanNop ctx op s
  | .planCopy ctx op => Sys2Proof.Machine.execPlanCopy ctx op s
  | .planReduce ctx op => Sys2Proof.Machine.execPlanReduce ctx op s
  | .planWaitd ctx op => Sys2Proof.Machine.execPlanWaitd ctx op s
  | .planSignal ctx op => Sys2Proof.Machine.execPlanSignal ctx op s
  | .planUewrite ctx op => Sys2Proof.Machine.execPlanUewrite ctx op s
  | .planUetoken ctx op => Sys2Proof.Machine.execPlanUetoken ctx op s
  | .planOpComplete ctx op status => Sys2Proof.Machine.execPlanOpComplete ctx op status s
  | .tokenTimeout ctx => Sys2Proof.Machine.execTokenTimeout ctx s
  | .tokenResend tag => Sys2Proof.Machine.execTokenResend tag s
  | .uetokenReceipt ip job word => Sys2Proof.Machine.execUetokenReceipt ip job word s
  | .tapEvent e => Sys2Proof.Machine.execTapEvent e s
  | .tapSample e => Sys2Proof.Machine.execTapSample e s
  | .filterInvocation source => Sys2Proof.Machine.execFilterInvocation source s
  | .bucketRefill => Sys2Proof.Machine.execBucketRefill s
  | .triggerRearm idx => Sys2Proof.Machine.execTriggerRearm idx s
  | .publication owner => Sys2Proof.Machine.execPublication owner s
  | .lnLoad owner => Sys2Proof.Machine.execLnLoad owner s
  | .lnAttach owner => Sys2Proof.Machine.execLnAttach owner s
  | .lnDetach owner => Sys2Proof.Machine.execLnDetach owner s
  | .lnClear owner => Sys2Proof.Machine.execLnClear owner s
  | .lnSeeds owner => Sys2Proof.Machine.execLnSeeds owner s
  | .lnTrigger owner => Sys2Proof.Machine.execLnTrigger owner s
  | .lnArm owner => Sys2Proof.Machine.execLnArm owner s
  | .lnUnfreeze owner => Sys2Proof.Machine.execLnUnfreeze owner s
  | .lnPublish owner => Sys2Proof.Machine.execLnPublish owner s
  | .eccError block corrected pa => Sys2Proof.Machine.execEccError block corrected pa s
  | .selfTestEnd block result => Sys2Proof.Machine.execSelfTestEnd block result s
  | .marginReplan block => Sys2Proof.Machine.execMarginReplan block s
  | .powerBlockUpdate b mhz milliwatts celsius => Sys2Proof.Machine.execPowerBlockUpdate b mhz milliwatts celsius s
  | .junctionOvertemp => Sys2Proof.Machine.execJunctionOvertemp s
  | .deviceReset => Sys2Proof.Machine.execDeviceReset s
  | .debugGo part => Sys2Proof.Machine.execDebugGo part s
  | .debugKill part => Sys2Proof.Machine.execDebugKill part s
  | .attestationRequest value => Sys2Proof.Machine.execAttestationRequest value s
  | .attestationWritten => Sys2Proof.Machine.execAttestationWritten s
  | .pldmFirmwareUpdate k image => Sys2Proof.Machine.execPldmFirmwareUpdate k image s
  | .pldmSensorRead sensor => Sys2Proof.Machine.execPldmSensorRead sensor s
  | .registerWrite space offset value => Sys2Proof.Machine.execRegisterWrite space offset value s
  | .replayComplete port => Sys2Proof.Machine.execReplayComplete port s
  | .ueRmaWriteReceipt part va bytes => Sys2Proof.Machine.execUeRmaWriteReceipt part va bytes s

end Sys2Proof.Machine
end

