-- ==== Sys2Proof/Machine/Due.lean ====
section
/-! DEFINITION. Machine/Due.lean: what the device itself has due at the end of a core cycle. The manual gives these events
their conditions and bounds; the order in which a cycle takes them is the model's. -/
namespace Sys2Proof.Machine

/-! ## Events taken one a step -/

/-- The placement of a grid that is due. -/
def placeDue (s : State) (g : Grid) : List Instr :=
  if g.phase = .placing && g.nextTeam < g.record.teams && mayPlace s g.part && placeTurn s g then
    match placementOf s g with
    | some cs => [.teamPlace g.gid cs]
    | none => []
  else []

/-- What is due of a team. -/
def teamDue (s : State) (t : Team) : List Instr :=
  match t.phase with
  | .saving _ => [.contextWritten t.gid t.team]
  | .saved =>
    (match gridOf s t.gid with
    | none => []
    | some g =>
      let k := g.record.cw * g.record.chh
      if !((companions s g t.team).any fun x => x.team < t.team) && mayPlace s t.part && restoreTurn s t then
        match (List.range Config.cores).find? fun c => (restoreAll s g (t.team / k * k) c).isSome with
        | some c => [.teamRestore t.gid t.team c]
        | none => []
      else [])
  | .running => [.teamEnd t.gid t.team] ++ (if sliceOver s t then [.timeSliceEnd t.gid t.team] else [])
  | .draining => [.teamEnd t.gid t.team]
  | .removed => []

/-- The bank switches a team waits for. -/
def bankDue (t : Team) : List Instr :=
  (t.banks.filter fun b => b.target.isSome).map fun b => .bankDrainComplete t.core b.phys

/-- What may wake a waiting split. -/
def wakeDue (s : State) (w : Issuer) (p : Split) : List Instr :=
  match p.waitsIn with
  | none => []
  | some i =>
    if s.descs.any (DescRead.isOf w.core w.gslot p.arch.mask) then [.issueAccessComplete w.core w.gslot w.entry]
    else if (fenceScope i).isSome then [.fenceRetire w.core w.gslot w.entry]
    else if (wtgWaits i).isSome then [.wtgWake w.core w.gslot w.entry]
    else if (engWaits 3 i).isSome then [.waitlReturn w.core w.gslot w.entry]
    else if (engWaits 0 i).isSome then [.gsetExchange w.core w.gslot w.entry]
    else if isQueued i then [.engineQueueRetry w.core w.gslot w.entry]
    else [.fifoAccessResume w.core w.gslot w.entry]

/-- What is due of a split. -/
def splitDue (s : State) (g : Group) (e : Nat) : List Instr :=
  let p := splitIn g e
  (if p.yielded.isSome then [.yldResume g.core g.gslot e] else []) ++
    (if p.arch.state = .onEvent then wakeDue s ⟨g.core, g.gslot, e⟩ p else [])

/-- What is due of a group. -/
def groupDue (s : State) (g : Group) : List Instr :=
  (placesOf g).flatMap (splitDue s g) ++ (if g.parked.isEmpty then [] else [.splitRotation g.core g.gslot])

/-- What is due of a command. -/
def cmdDue (s : State) (k : Cmd) : List Instr :=
  match k.phase with
  | .queued => (if guardHasFlag s k && !k.flagMet then [.guardFlagRead k.cid] else []) ++ [.commandStart k.cid]
  | .started => [.commandComplete k.cid]
  | .streaming => [.cpyFifoElement k.cid, .commandComplete k.cid]
  | .planning => []
  | .worked => [.commandComplete k.cid]

/-- What is due of a virtual function's launch queue. -/
def queueDue (s : State) (v : Nat) : List Instr :=
  let q := vfRegs s v
  if q.lqrd = q.lqwr then [] else if q.retryAt.isSome then [.launchRecordRetry v] else [.launchQueueTake v]

/-- R357: a held fragment leaves the core pairing buffer within 2 µs; the model sends it at 1.9 µs. [log DEDUCED 119]
-/
def heldLimit : Nat := 1900

/-- The events a cycle leaves due, in the model's order. [log DEDUCED 15; DESIGN CHOICE 14] -/
def dueEvents (s : State) : List Instr :=
  let now := s.time.toNat
  s.flights.map (fun _ => Instr.arriveAt) ++
  s.redReqs.map (fun _ => Instr.sliceRedInit) ++
  s.ticks.map (fun t => Instr.accessCompletion t.core t.gslot) ++
  (s.coreHeld.filter fun h => h.entered + heldLimit ≤ now).map (fun h => Instr.coreBufferForward h.core) ++
  (s.refused.map Refused.core).eraseDups.map Instr.fragmentReoffer ++
  ((s.refused.filter fun x => x.since + stallLimit ≤ now).map Refused.core).eraseDups.map Instr.spillExhausted ++
  s.rwc.map (fun l => Instr.rwcLineDrain l.core) ++
  (s.regWaits.map RegWait.core).eraseDups.map Instr.regacqGrant ++
  s.groups.flatMap (groupDue s) ++
  s.cmds.flatMap (cmdDue s) ++
  s.teams.flatMap bankDue ++
  ((List.range 12).filter fun p => !(psched s p).tinv.isEmpty).map Instr.invalidationComplete ++
  (List.range 256).flatMap (queueDue s) ++
  ((List.range 12).filter fun p => s.grids.any fun g => g.part == p && g.phase == .pending).map Instr.pendingRelease ++
  s.grids.flatMap (placeDue s) ++
  s.teams.flatMap (teamDue s) ++
  (requesters s).filterMap (requestEvent s) ++
  (s.reqs.filter fun r => r.sentAt + receiptLimit ≤ now).map (fun r => Instr.requestTimeout r.tag) ++
  (s.slots.filter fun x => x.last + slotTimeoutNs s ≤ now).map (fun x => Instr.slotTimeout x.idx) ++
  (if s.lantern.refilled < now / 1000 then [Instr.bucketRefill] else [])

/-! ## Events taken together as the cycle ends -/

/-- The state after an event, which stays where the event does not answer a next one. -/
def after (s : State) (f : State → Host.Outcome State Fault Refusal) : State :=
  match f s with
  | .next t => t
  | .fault _ => s
  | .refused _ => s

/-- R460: an operation of a running plan is tried: it fires where its inputs are there, and completes where it may. An
Ultra Ethernet message completes only as its lane group acknowledges it. -/
def planTry (s : State) (ctx op kind : Nat) : State :=
  let s := after s (match kind with
    | 0 => execPlanNop ctx op
    | 1 => execPlanCopy ctx op
    | 2 => execPlanReduce ctx op
    | 3 => execPlanWaitd ctx op
    | 4 => execPlanSignal ctx op
    | 5 => execPlanUewrite ctx op
    | _ => execPlanUetoken ctx op)
  if kind < 5 then after s (execPlanOpComplete ctx op 0) else s

/-- R458: the started plans that wait for a context tried, and every running plan. -/
def plansTry (s : State) : State :=
  let s := (s.cmds.filter fun k => k.phase == .planning).foldl (fun s k => after s (execPlanContextTake k.cid)) s
  s.plans.foldl (fun s x =>
    if x.cid.isSome then
      after (((List.range x.ops.length).zip x.ops).foldl (fun s (i, o) => planTry s x.idx i o.kind) s) (execTokenTimeout x.idx)
    else s) s

/-- What the fabric acknowledges, sends again or gives up (R433, R434, R451, R456, R463). -/
def fabricTry (s : State) : State :=
  let s := s.chansIn.foldl (fun s c => after s (execSeqaSend c.dev.toNat c.tclass.toNat)) s
  let s := s.chansOut.foldl (fun s c =>
    c.kept.foldl (fun s x => after s (execSkipResend x.1.tag)) (after s (execPacketResend c.dev.toNat c.tclass.toNat))) s
  let s := s.reqs.foldl (fun s r => if r.refused then after s (execTokenResend r.tag) else s) s
  let s := s.mcFlights.foldl (fun s f =>
    if f.reply.isNone then f.pending.foldl (fun s m => after s (execMemberTimeout f.group m)) s else s) s
  let s := s.passing.foldl (fun s x => after s (execKeyPassExpiry x.1)) s
  let s := s.rates.foldl (fun s r => after s (execRateRecovery r.part r.group)) s
  let s := (List.range 48).foldl (fun s i =>
    if trainLate s i then after s (execLinkTrainResult i false) else after s (execPortRejoin i)) s
  creditsBack s

/-- R480: an owner's command, once go is set. -/
def commandTry (s : State) (o : Nat) : State :=
  if (lnCmd s o).getLsbD 0 then
    [execLnLoad o, execLnAttach o, execLnDetach o, execLnClear o, execLnSeeds o, execLnTrigger o, execLnArm o,
      execLnUnfreeze o, execLnPublish o].foldl after s
  else s

/-- Lantern's triggers, commands and publications (R478, R480, R481). -/
def lanternTry (s : State) : State :=
  let s := s.lantern.trigs.foldl (fun s t => after s (execTriggerRearm t.idx)) s
  let s := (List.range 13).foldl commandTry s
  (List.range 13).foldl (fun s o =>
    let x := lnOwner s o
    if x.interval ≠ 0 && x.lastPub + 1000 * x.interval ≤ s.time.toNat then after s (execPublication o) else s) s

/-- R420, R498, R503: a step of the shedding order is taken or undone at the power measured; a report asked for is
written; a junction at 115 °C resets the device. [log DEDUCED 15] -/
def deviceTry (s : State) : State :=
  let s := after s (execShedStep (measuredPower s))
  let s := after s (execShedUndo (measuredPower s))
  let s := if s.dev.attctl.getLsbD 0 then after s execAttestationWritten else s
  if s.power.toList.any fun p => 115 ≤ p.celsius then after s execJunctionOvertemp else s

/-- R398: the grids whose outcome stands end as their accesses are over. -/
def gridsTry (s : State) : State :=
  (s.grids.filter fun g => g.phase == .ending).foldl (fun s g => closeGrid s g.gid) s

/-- The end of a core cycle: two cycles make a tick (R13). [log DESIGN CHOICE 14] -/
def cycleEnd (s : State) : State :=
  let s := { s with clk := s.clk + 1, half := !s.half, time := if s.half then s.time + 1 else s.time }
  let s := deviceTry (gridsTry (lanternTry (fabricTry (plansTry s))))
  { s with agenda := dueEvents s }

end Sys2Proof.Machine
end

