-- ==== Sys2Proof/Machine/Step.lean ====
section
/-! DEFINITION. Machine/Step.lean: one step of the device, and the placing of an instruction where the next step fetches. -/
namespace Sys2Proof.Machine

/-- An outcome whose next state has the instruction being carried out cleared. -/
def endInstr (r : Host.Outcome State Fault Refusal) : Host.Outcome State Fault Refusal :=
  match r with
  | .next t => .next { t with cur := none }
  | .fault f => .fault f
  | .refused f => .refused f

/-- A split fetches and carries out the instruction at its pc, or takes the trap of its fetch (R119, R147). [log
DEDUCED 16] -/
def issueOne (s : State) (w : Issuer) : Host.Outcome State Fault Refusal :=
  match groupAt s w.core w.gslot with
  | none => .next s
  | some g =>
    let p := splitAt g w.entry
    if p.arch.state ≠ .ready then .next s
    else
      match fetchInstr s g.core (partOf s g) g.gid p.arch.mask p.arch.pc with
      | .instr i next =>
        let vas := (List.range ((next - p.arch.pc).toNat / 2)).map fun k => p.arch.pc.toNat + 2 * k
        let s := keepTlb s (coreTlb g.core) (partOf s g) g.gid vas
        endInstr (exec i { s with cur := some ⟨w, p.arch.pc, next⟩ })
      | .trap t => endInstr (finish s ⟨⟨w, p.arch.pc, p.arch.pc⟩, g, p, partOf s g⟩ (.error (.trap t)))

/-- R475, R489: the filter instruction that Lantern's running invocation stands at. -/
def filterNext (s : State) : Option Instr :=
  match s.lantern.run with
  | none => none
  | some r => if underTest s 3492 then none else (lnFilter s r.filter).bind fun f => f.code[r.pc]?

/-- R403: an issue slot has its opportunity, among its splits that can issue now. -/
def slotTurn (core slot : Nat) (s : State) : Host.Outcome State Fault Refusal :=
  let s := wakeIdle issueOne core slot s
  match exec (.issueOpportunity core slot) s with
  | .next t => .next (tagPort issueOne t s.turn)
  | .fault f => .fault f
  | .refused f => .refused f

/-- The next issue slot has its opportunity; after those of a core its chosen splits issue, and after those of the last
core the cycle ends. [log DESIGN CHOICE 14] -/
def nextOpportunity (s : State) : Host.Outcome State Fault Refusal :=
  if 768 ≤ s.cursor then .next (cycleEnd { s with cursor := 0 })
  else
    match slotTurn (s.cursor / 4) (s.cursor % 4) { s with cursor := s.cursor + 1 } with
    | .next t => .next (if t.cursor % 4 = 0 then { t with turn := byGroupSlot t.turn } else t)
    | .fault f => .fault f
    | .refused f => .refused f

/-- R236, R403: after the turn of a split with the lanes m: it has issued; or its instruction stalls, and its issue slot
chooses again. -/
def afterIssue (w : Issuer) (m : Mask) (r : Host.Outcome State Fault Refusal) : Host.Outcome State Fault Refusal :=
  match r with
  | .next t =>
    let idle := ((groupAt t w.core w.gslot).map fun g => (splitAt g w.entry).idle.isSome).getD false
    if idle then slotTurn w.core (w.gslot % 4) t else .next (noteIssue t w.core w.gslot m)
  | .fault f => .fault f
  | .refused f => .refused f

/-- The turn of a split: nothing where it is no longer Ready. -/
def issueTurn (s : State) (w : Issuer) : Host.Outcome State Fault Refusal :=
  match (groupAt s w.core w.gslot).map fun g => (splitAt g w.entry).arch with
  | none => .next s
  | some a => if a.state = .ready then afterIssue w a.mask (issueOne s w) else .next s

/-- The device goes on: Lantern takes its oldest event, a packet leaves, or an issue slot has its opportunity. [log
DESIGN CHOICE 14] -/
def deviceStep (s : State) : Host.Outcome State Fault Refusal :=
  match s.lantern.taps, nextPacket s with
  | e :: _, p => if lnIdle s then execFilterInvocation e.source.toNat s else
      (match p with
      | some p => execPacketRoute p none s
      | none => nextOpportunity s)
  | [], some p => execPacketRoute p none s
  | [], none => nextOpportunity s

/-- One step: an event that is due, the next split of an opportunity, Lantern's next filter instruction, or what the
device does next. [log DEDUCED 15; DESIGN CHOICE 14] -/
def step (s : State) : Host.Outcome State Fault Refusal :=
  match s.agenda with
  | i :: rest => endInstr (exec i { s with agenda := rest })
  | [] =>
    match s.turn, s.cursor % 4 with
    | w :: rest, 0 => issueTurn { s with turn := rest } w
    | _ :: _, _ + 1 => nextOpportunity s
    | [], _ =>
      match filterNext s with
      | some i => exec i s
      | none => deviceStep s

/-! ## Placing an instruction -/

/-- The bytes of a table word, each 16-bit halfword in the order R12 and R119 give, zero up to the longest instruction. -/
def wordBytes (nbits w : Nat) : List Byte := bytesOfNat 12 (w % 2 ^ nbits)

/-- Where the split that issues next fetches, when it can. [log DESIGN CHOICE 12] -/
def fetchPlace (s : State) : Option Nat :=
  match s.turn, s.cursor % 4 with
  | [], _ => none
  | _ :: _, _ + 1 => none
  | w :: _, 0 =>
    match groupAt s w.core w.gslot with
    | none => none
    | some g =>
      let p := splitAt g w.entry
      if p.arch.state = .ready && p.arch.pc.toNat < 2 ^ 56 then
        match access s (coreTlb g.core) (partOf s g) g.gid p.arch.pc.toNat false true with
        | .ok pa _ => some pa
        | .peer _ _ _ => none
        | .nonresident => none
        | .denied _ => none
      else none

/-- The launch that stands in for the loading of a program: one team of 32 lanes. -/
def benchRec : LaunchRec := { recordOf [] with entry := 0x20000#64, lanes := 32, cw := 1, chh := 1, regs := 32 }

/-- Its grid. -/
def benchGrid : Grid := ⟨0, 0, 0, benchRec, .placing, 1, 0, 0, false, 0, 0, [], false, false, []⟩

/-- A program loaded from outside: partition 0 with a first stage that maps the first GiB onto itself, one team of one
group on core 0, whose split issues next from 0x2_0000. [log DESIGN CHOICE 12] -/
def bench (s : State) : State :=
  let s := write64 (write64 (write64 s 0x10000 0x11001#64) 0x11000 0x12001#64) 0x12000 0x91B#64
  let s := modPregs s 0 fun r => { r with ptroot := 0x10000#64, s2cfg := 0 }
  { s with
    agenda := []
    turn := [⟨0, 0, 0⟩]
    cursor := 0
    grids := benchGrid :: s.grids.filter fun g => g.gid != 0
    teams := freshTeam s benchGrid 0 0 0 0 [] :: s.teams.filter fun t => t.gid != 0
    groups := freshGroup s benchGrid 0 0 0 0 :: s.groups.filter fun g => !(g.isAt 0 0) && g.gid != 0 }

/-- A filter of one instruction, in Lantern and about to run. [log DESIGN CHOICE 12] -/
def benchFilter (s : State) (i : Instr) : State :=
  let f : LnFilter := ⟨0, 0, List.replicate 16 0xFF, List.replicate 4 0xFF, List.replicate 4 0xFF, List.replicate 16 0, [i],
    List.replicate 16 0, 0⟩
  { s with
    agenda := []
    turn := []
    blocks := s.blocks.filter fun b => b.num != 3492
    lantern := { s.lantern with
      filters := f :: s.lantern.filters.filter fun x => x.idx != 0
      run := some (LnRun.start f ⟨0, 0, 0, 0, 0⟩) } }

/-- The instruction is one of Lantern's. -/
def isFilter (i : Instr) : Bool :=
  match view i with
  | .filter _ => true
  | .core _ _ _ => false
  | .half _ _ => false
  | .event => false

/-- An instruction of nbits bits w stored where the next step fetches. A program comes to run only as it is launched,
and
a filter as its owner loads it: where no split is about to issue, one is set up as bench says. [log DESIGN CHOICE 12]
-/
def State.withFetchWord (s : State) (nbits w : Nat) : State :=
  match (decodeTableWord nbits w).filter isFilter with
  | some i => benchFilter s i
  | none =>
    match s.agenda, fetchPlace s with
    | [], some pa => { s with mem := setBytes s.mem pa (wordBytes nbits w) }
    | _, _ =>
      let t := bench s
      { t with mem := setBytes t.mem 0x20000 (wordBytes nbits w) }

end Sys2Proof.Machine
end

