-- ==== Sys2Proof/Safety.lean ====
section
/-! DEFINITION. Safety.lean: what a safe step is, and the terms that statements about instructions use: the issuing split,
the operands it names, and what a completed instruction leaves. -/
namespace Sys2Proof

open Sys2Proof.Machine

/-- The device goes on: the step stops with no fault and no refusal. -/
def StepsSafely (s : State) : Prop := ∃ t, step s = .next t

/-! ## The issuing split -/

/-- A live split has come to an instruction: c is what the instruction works on. -/
structure Standing (s : State) (c : Ctx) : Prop where
  cur : s.cur = some c.cur
  group : groupAt s c.cur.who.core c.cur.who.gslot = some c.g
  split : c.p = splitAt c.g c.cur.who.entry
  live : c.p.live = true
  part : c.part = partOf s c.g

/-- It carries the instruction out: its group's region is not committing (R268). -/
structure Issuing (s : State) (c : Ctx) : Prop extends Standing s c where
  ready : c.g.closing = false

/-- R64, R65, R137, R146: the fields of i are legal where the split stands, and name the operands o. -/
def Names (i : Instr) (s : State) (c : Ctx) (p : Pfx) (f : WordF) (o : Opnds) : Prop :=
  ∃ u, coreView i = some (p, f, u) ∧ operands s c p f u = .ok o

/-- R28: no operand of a lane instruction is an FP64 pair at an odd register; t is the result's tag. -/
def pairsEven (c : Ctx) (o : Opnds) (t : Tag) : Bool :=
  !(oddPair (carriesF64 c o.a) o.a || oddPair (carriesF64 c o.b) o.b || oddPair (carriesF64 c o.c) o.c ||
    oddPair (isF64 t) o.d)

/-- R26, R28: every register of a lane instruction's operands is held. -/
def operandsHeld (c : Ctx) (o : Opnds) (t : Tag) (wideB : Bool) : Bool :=
  let n (wide : Bool) := if wide then 2 else 1
  heldSpan c.g o.d (n (isF64 t)) && heldSpan c.g o.a (n (isF64 (tagA c o))) &&
    heldSpan c.g o.b (n (isF64 (tagA c o) && wideB)) && heldSpan c.g o.c (n (isF64 (tagA c o)))

/-- R28, R49: both registers of every FP64 pair that the instruction reads carry FP64. -/
def pairsWhole (c : Ctx) (o : Opnds) (wideB : Bool) : Bool :=
  !(brokenPair c false o.a || (wideB && brokenPair c (isF64 (tagA c o)) o.b) || brokenPair c (isF64 (tagA c o)) o.c)

/-- R26, R28, R34: a lane instruction with a result of tag t can use its operands. -/
structure LaneUsable (c : Ctx) (o : Opnds) (t : Tag) (wideB : Bool) : Prop where
  even : pairsEven c o t = true
  held : operandsHeld c o t wideB = true
  whole : pairsWhole c o wideB = true

/-! ## What an instruction leaves -/

/-- t differs from s in the group of one slot, which is g' in t, and in the model's count of free values. -/
structure GroupStep (s t : State) (core gslot : Nat) (g' : Group) : Prop where
  group : groupAt t core gslot = some g'
  others : ∀ k j, ¬(k = core ∧ j = gslot) → groupAt t k j = groupAt s k j
  rest : t = { s with groups := t.groups, freeCtr := t.freeCtr }

/-- The instruction of the split of c completes, and of the device nothing but its group changes, to g'. -/
def OnlyGroup (i : Instr) (s : State) (c : Ctx) (g' : Group) : Prop :=
  ∃ t, exec i s = .next t ∧ GroupStep s t c.cur.who.core c.cur.who.gslot g'

/-- The same of an instruction that accesses memory: the TLBs may take what it translates (R383). -/
def AccessOnly (i : Instr) (s : State) (c : Ctx) (g' : Group) : Prop :=
  ∃ t, exec i s = .next t ∧ GroupStep { s with tlb := t.tlb } t c.cur.who.core c.cur.who.gslot g'

/-- The issuing split has gone on to the next instruction; the group's other splits stand as they stood. -/
structure FellThrough (c : Ctx) (g' : Group) : Prop where
  goesOn : (splitAt g' c.cur.who.entry).arch = { c.p.arch with pc := c.cur.next }
  others : ∀ e, e ≠ c.cur.who.entry → splitAt g' e = splitAt c.g e

/-- R66, R68: a lane instruction with destination d has written the values x of tag t in the lanes of M, raised the
flags F there, and left everything else of its group. -/
structure LaneWritten (c : Ctx) (d : Src) (M : Mask) (t : Tag) (x : Nat → Dword) (F : Nat → Flags) (g' : Group) :
    Prop where
  tag : ∀ n, d = .reg n → tagOf g' n = t
  value : ∀ n, d = .reg n → ∀ l, l < 32 → M.getLsbD l = true →
    laneGet (vreg g' n).lane l = (x l).setWidth 32
  upper : isF64 t = true → ∀ n, d = .reg n → tagOf g' (n + 1) = t ∧ ∀ l, l < 32 → M.getLsbD l = true →
    laneGet (vreg g' (n + 1)).lane l = (x l).extractLsb' 32 32
  otherLanes : ∀ n, d = .reg n → ∀ l, l < 32 → M.getLsbD l = false →
    laneGet (vreg g' n).lane l = if tagOf c.g n = t then laneGet (vreg c.g n).lane l else 0
  otherRegs : ∀ m, (∀ n, d = .reg n → m ≠ n ∧ (isF64 t = true → m ≠ n + 1)) → vreg g' m = vreg c.g m
  sticky : ∀ l, l < 32 → vget g'.lst l 0 = vget c.g.lst l 0 ||| (if M.getLsbD l then F l else 0)
  rest : g' = { c.g with v := g'.v, lst := g'.lst, splits := g'.splits }
  next : FellThrough c g'

/-- A lane instruction completes: its destination's active lanes take the values x of tag t with flags F. -/
def LaneCompletes (i : Instr) (s : State) (c : Ctx) (d : Src) (M : Mask) (t : Tag) (x : Nat → Dword)
    (F : Nat → Flags) : Prop :=
  ∃ g', OnlyGroup i s c g' ∧ LaneWritten c d M t x F g'

/-! ## Regions, splits and scalars -/

/-- R269: the state in which an instruction that commits its group's open region takes effect; s itself where no region
is open. -/
def afterCommit (s : State) (c : Ctx) : State := commitRegion s c.g

/-- What such an instruction then works on. -/
def committedCtx (c : Ctx) : Ctx := { c with g := { c.g with region := none } }

/-- The group g' is the group of c with the issuing split's record replaced; its other splits and all its registers stand as
they stood. -/
structure SplitMoved (c : Ctx) (r : SplitRec) (g' : Group) : Prop where
  record : (splitAt g' c.cur.who.entry).arch = r
  others : ∀ e, e ≠ c.cur.who.entry → splitAt g' e = splitAt c.g e
  rest : g' = { c.g with splits := g'.splits }

/-- From s the instruction completes, and all that changes is the issuing split's record, to r. -/
def OnlySplit (i : Instr) (s from' : State) (c : Ctx) (r : SplitRec) : Prop :=
  ∃ t g', exec i s = .next t ∧ GroupStep from' t c.cur.who.core c.cur.who.gslot g' ∧ SplitMoved c r g'

/-- The same of an instruction that accesses memory: the TLBs may take what it translates (R383). -/
def AccessSplit (i : Instr) (s : State) (c : Ctx) (r : SplitRec) : Prop :=
  ∃ t g', exec i s = .next t ∧ GroupStep { s with tlb := t.tlb } t c.cur.who.core c.cur.who.gslot g' ∧ SplitMoved c r g'

/-- R40, R67: t is s with v written to the scalar register of code d (0 to 63 an s register of the group, 64 to 79 a w
register of the team, on its way) and the issuing split gone on. -/
structure ScalarLeaves (s t : State) (c : Ctx) (d : BitVec 7) (v : Dword) : Prop where
  group : ∃ g', groupAt t c.cur.who.core c.cur.who.gslot = some g' ∧ FellThrough c g' ∧
    g' = { c.g with s := g'.s, splits := g'.splits } ∧
    ∀ n < 64, vget g'.s n 0 = if n = d.toNat then v else vget c.g.s n 0
  otherGroups : ∀ k j, ¬(k = c.cur.who.core ∧ j = c.cur.who.gslot) → groupAt t k j = groupAt s k j
  team : 64 ≤ d.toNat → d.toNat < 80 → teamOf t c.g.gid c.g.team =
    (teamOf s c.g.gid c.g.team).map (writeW s c.g.gslot (d.toNat - 64) v)
  otherTeams : ∀ a b, ¬(64 ≤ d.toNat ∧ d.toNat < 80 ∧ a = c.g.gid ∧ b = c.g.team) → teamOf t a b = teamOf s a b
  rest : t = { s with groups := t.groups, teams := t.teams, freeCtr := t.freeCtr }

end Sys2Proof
end

