-- ==== Sys2Proof/Certificates/Slice0/Obligations.lean ====
section
/-! DEFINITION. Certificates/Slice0/Obligations.lean: the statements made about the MV-B480, from the numbered rules. -/
namespace Sys2Proof

open Sys2Proof.Machine

/-! ## Lane instructions: terms -/

/-- What a rule says of a lane instruction: the instruction; the 32-bit form whose fields give its operands (R127); the
class of source a; the tags it accepts of b and c, beside a's; its result's tag; whether b is as wide as a; and what a
lane's result and flags are, from the tags and the three values. -/
structure LaneClaim where
  run : Instr
  form : Instr
  src : Tag → Bool
  accepts : Tag → Option Tag → Option Tag → Bool
  result : Tag → Option Tag → Tag
  wideB : Bool
  gives : Tag → Option Tag → Dword → Dword → Dword → Dword → Flags → Prop

/-- On operands it can use, of tags it accepts, the instruction completes (exec answers a next state): in each active lane
its destination takes a value x, its flags F are raised there, and nothing else changes; x and F are what the rule says. A
source a that is no register or latch is accepted too (R124); where its tag U32 is not of the class, x and F are the
model's free values (log 131), and nothing is said of them. -/
def LaneClaim.HoldsAt (r : LaneClaim) (s : State) (c : Ctx) : Prop :=
  ∀ (p : Pfx) (f : WordF) (o : Opnds),
    Names r.form s c p f o → LaneUsable c o (r.result (tagA c o) (readTag c o.c)) r.wideB →
    passesA c o r.src = true → r.accepts (tagA c o) (srcTag c o.b) (srcTag c o.c) = true →
    ∃ x F, LaneCompletes r.run s c o.d (activeMask c p.operand f.guard) (r.result (tagA c o) (readTag c o.c)) x F ∧
      (r.src (tagA c o) = true → ∀ l, r.gives (tagA c o) (readTag c o.b) (srcVal c (isF64 (tagA c o)) o.a l)
        (srcVal c (isF64 (tagA c o) && r.wideB) o.b l) (srcVal c (isF64 (tagA c o)) o.c l) (x l) (F l))

/-- The claim for every split that carries out an instruction. -/
def LaneClaim.Holds (r : LaneClaim) : Prop := ∀ (s : State) (c : Ctx), Issuing s c → r.HoldsAt s c

/-- Element e of the result is a function of elements e of the sources, and no flag is raised. -/
def perElem (v : Tag → Nat → Nat → Nat → Nat) (t : Tag) (_tb : Option Tag) (a b c x : Dword) (F : Flags) : Prop :=
  (∀ e < count t, elem t x e = v t (elem t a e) (elem t b e) (elem t c e)) ∧ F = 0

/-- R170: element e of the result is a function of elements e of the sources, and the flags of all elements are
raised. -/
def perElemF (v : Flt → Nat → Nat → Nat → Nat × Flags) (t : Tag) (_tb : Option Tag) (a b c x : Dword) (F : Flags) :
    Prop :=
  (∀ e < count t, elem t x e = (v (fltOf t) (elem t a e) (elem t b e) (elem t c e)).1 % 2 ^ ewidth t) ∧
    F = (List.range (count t)).foldl
      (fun G e => G ||| (v (fltOf t) (elem t a e) (elem t b e) (elem t c e)).2) 0

/-- A row on integers: sources of one tag of INT, the result in that tag. -/
def intClaim (run form : Instr) (v : Bool → Nat → Nat → Nat → Nat → Nat) : LaneClaim :=
  ⟨run, form, isInt, fun ta tb tc => sameTag ta tb && sameTag ta tc, fun ta _ => ta, true,
    perElem fun t => v (isSigned t) (ewidth t)⟩

/-- A row on floating-point elements of a tag class: sources of one tag, the result in that tag. -/
def fltClaim (cls : Tag → Bool) (run form : Instr) (v : Flt → Nat → Nat → Nat → Nat × Flags) : LaneClaim :=
  ⟨run, form, cls, fun ta tb tc => sameTag ta tb && sameTag ta tc, fun ta _ => ta, true, perElemF v⟩

/-! ## Integers (R172 to R180) -/

/-- The rows of R172. -/
def intClaims (w : LaneW) : List LaneClaim :=
  [intClaim (.add w) (.add w) fun _ n x y _ => (x + y) % 2 ^ n,
   intClaim (.sub w) (.sub w) fun _ n x y _ => (x + (2 ^ n - y)) % 2 ^ n,
   intClaim (.mul w) (.mul w) fun _ n x y _ => x * y % 2 ^ n,
   intClaim (.mulh w) (.mulh w) fun g n x y _ => patOf n (intOf g n x * intOf g n y / 2 ^ n),
   intClaim (.mad w) (.mad w) fun _ n x y z => (x * y + z) % 2 ^ n,
   intClaim (.min w) (.min w) fun g n x y _ => if intOf g n y < intOf g n x then y else x,
   intClaim (.max w) (.max w) fun g n x y _ => if intOf g n x < intOf g n y then y else x,
   intClaim (.addsat w) (.addsat w) fun g n x y _ => patOf n (clampInt g n (intOf g n x + intOf g n y)),
   intClaim (.subsat w) (.subsat w) fun g n x y _ => patOf n (clampInt g n (intOf g n x - intOf g n y)),
   ⟨.lsa w, .lsa w, isInt32, fun ta tb _ => sameTag ta tb, fun ta _ => ta, true,
     perElem fun _ x y _ => (x * 2 ^ w.pfx.operand.x.toNat + y) % 2 ^ 32⟩]

/-- The rows of R172 that have a 16-bit form (R127). -/
def intHalfClaims (w : HalfW) : List LaneClaim :=
  [intClaim (.addC16 w) (.add (halfW w)) fun _ n x y _ => (x + y) % 2 ^ n,
   intClaim (.subC16 w) (.sub (halfW w)) fun _ n x y _ => (x + (2 ^ n - y)) % 2 ^ n,
   intClaim (.mulC16 w) (.mul (halfW w)) fun _ n x y _ => x * y % 2 ^ n]

/-- A row on whole words: bit i of the result is a function of bits i of a and b. -/
def bitClaim (run form : Instr) (v : Bool → Bool → Bool) : LaneClaim :=
  ⟨run, form, fun ta => tagOk ta && !isF64 ta, fun ta tb _ => sameTag ta tb || sameTag 0 tb, fun ta _ => ta, true,
    fun _ _ a b _ x F => (∀ i < 32, x.getLsbD i = v (a.getLsbD i) (b.getLsbD i)) ∧ F = 0⟩

/-- A shift of each element by its count: element e of b, or the whole of b where b carries U32. -/
def shiftClaim (run form : Instr) (v : Nat → Nat → Nat → Nat) : LaneClaim :=
  ⟨run, form, isInt, fun ta tb _ => sameTag ta tb || sameTag 0 tb, fun ta _ => ta, true,
    fun t tb a b _ x F => (∀ e < count t, elem t x e =
      v (ewidth t) (elem t a e) (if tb = some 0 then b.toNat % 2 ^ 32 else elem t b e)) ∧ F = 0⟩

/-- The right shift of a pattern of n bits by Min(k, n - 1), filled with its top bit. -/
def sraBits (n x k : Nat) : Nat := patOf n (intOf true n x / 2 ^ min k (n - 1))

/-- The rotation of a pattern of n bits to the left by k mod n. -/
def rotBits (n x k : Nat) : Nat := x * 2 ^ (k % n) % 2 ^ n + x / 2 ^ (n - k % n)

/-- The rows of R174 and R175. -/
def logicClaims (w : LaneW) : List LaneClaim :=
  [bitClaim (.and w) (.and w) fun x y => x && y,
   bitClaim (.or w) (.or w) fun x y => x || y,
   bitClaim (.xor w) (.xor w) fun x y => x != y,
   bitClaim (.andn w) (.andn w) fun x y => x && !y,
   shiftClaim (.shl w) (.shl w) fun n x k => if k < n then x * 2 ^ k % 2 ^ n else 0,
   shiftClaim (.shr w) (.shr w) fun n x k => if k < n then x / 2 ^ k else 0,
   shiftClaim (.sra w) (.sra w) sraBits,
   shiftClaim (.rot w) (.rot w) rotBits]

/-- The rows of R174 and R175 that have a 16-bit form (R127). -/
def logicHalfClaims (w : HalfW) : List LaneClaim :=
  [bitClaim (.andC16 w) (.and (halfW w)) fun x y => x && y,
   bitClaim (.orC16 w) (.or (halfW w)) fun x y => x || y,
   bitClaim (.xorC16 w) (.xor (halfW w)) fun x y => x != y,
   shiftClaim (.shlC16 w) (.shl (halfW w)) fun n x k => if k < n then x * 2 ^ k % 2 ^ n else 0,
   shiftClaim (.shrC16 w) (.shr (halfW w)) fun n x k => if k < n then x / 2 ^ k else 0,
   shiftClaim (.sraC16 w) (.sra (halfW w)) sraBits]

/-- Bit i of the 32-bit word x, read as bfx reads it: above bit 31 the sign bit for I32 and 0 for U32. -/
def bfxBit (signed : Bool) (x i : Nat) : Bool := if i < 32 then x.testBit i else signed && x.testBit 31

/-- R177: bit i of bfx's result, for a field of n bits from bit p. -/
def bfxResult (signed : Bool) (x p n i : Nat) : Bool :=
  if i < n then bfxBit signed x (p + i) else signed && 0 < n && bfxBit signed x (p + n - 1)

/-- R177: bit i of bfi's result. -/
def bfiResult (x z p n i : Nat) : Bool := if p ≤ i ∧ i < p + n then x.testBit (i - p) else z.testBit i

/-- The rows of R173 and R177. -/
def fieldClaims (w : LaneW) : List LaneClaim :=
  [⟨.sad w, .sad w, isInt, fun ta tb tc => sameTag ta tb && tagIn isInt32 tc, fun _ _ => 0, true,
     fun t _ a b c x F => x.toNat = (c.toNat % 2 ^ 32 + ((List.range (count t)).map fun e =>
       (intOf (isSigned t) (ewidth t) (elem t a e) - intOf (isSigned t) (ewidth t) (elem t b e)).natAbs).sum) % 2 ^ 32 ∧
       F = 0⟩,
   ⟨.bfx w, .bfx w, isInt32, fun _ tb _ => tagIn isInt32 tb, fun ta _ => ta, true,
     fun t _ a b _ x F => (∀ i < 32, x.getLsbD i =
       bfxResult (isSigned t) (a.toNat % 2 ^ 32) (bits b 0 5) (min (bits b 5 6) 32) i) ∧ F = 0⟩,
   ⟨.bfi w, .bfi w, isInt32, fun _ tb tc => tagIn isInt32 tb && tagIn isInt32 tc, fun ta tc => tc.getD ta, true,
     fun _ _ a b c x F => (∀ i < 32, x.getLsbD i =
       bfiResult (a.toNat % 2 ^ 32) (c.toNat % 2 ^ 32) (bits b 0 5) (min (bits b 5 6) 32) i) ∧ F = 0⟩]

/-- A row of R176: one source of INT. -/
def iunClaim (run form : Instr) (v : Bool → Nat → Nat → Nat) : LaneClaim :=
  ⟨run, form, isInt, fun _ _ _ => true, fun ta _ => ta, true, perElem fun t x _ _ => v (isSigned t) (ewidth t) x⟩

/-- A move: the word, or the pair of words of an FP64 value, as it is. -/
def moveClaim (run form : Instr) : LaneClaim :=
  ⟨run, form, tagOk, fun _ _ _ => true, fun ta _ => ta, true, fun _ _ a _ _ x F => x = a ∧ F = 0⟩

/-- The rows of R176. -/
def iunClaims (w : LaneU) : List LaneClaim :=
  [iunClaim (.iunAbs w) (.iunAbs w) fun g n x => (intOf g n x).natAbs % 2 ^ n,
   iunClaim (.iunNeg w) (.iunNeg w) fun _ n x => (2 ^ n - x) % 2 ^ n,
   ⟨.iunNot w, .iunNot w, fun ta => tagOk ta && !isF64 ta, fun _ _ _ => true, fun ta _ => ta, true,
     fun _ _ a _ _ x F => (∀ i < 32, x.getLsbD i = !a.getLsbD i) ∧ F = 0⟩,
   ⟨.iunClz w, .iunClz w, isInt, fun _ _ _ => true, fun ta _ => ta, true,
     fun t _ a _ _ x F => (∀ e < count t, elem t x e ≤ ewidth t ∧
       (∀ i < ewidth t, ewidth t - elem t x e ≤ i → (elem t a e).testBit i = false) ∧
       (elem t x e < ewidth t → (elem t a e).testBit (ewidth t - 1 - elem t x e) = true)) ∧ F = 0⟩,
   iunClaim (.iunPopc w) (.iunPopc w) fun _ n x => ((List.range n).filter fun i => x.testBit i).length,
   ⟨.iunBrev w, .iunBrev w, isInt, fun _ _ _ => true, fun ta _ => ta, true,
     fun t _ a _ _ x F => (∀ e < count t, ∀ i < ewidth t,
       (elem t x e).testBit i = (elem t a e).testBit (ewidth t - 1 - i)) ∧ F = 0⟩,
   moveClaim (.iunMov w) (.iunMov w)]

/-- A predicate q has taken v in the lanes of M, the flags F have been raised there, and nothing else of the group has
changed (R37). -/
structure PredWritten (c : Ctx) (q : Nat) (M v : Mask) (F : Nat → Flags) (g' : Group) : Prop where
  value : ∀ l, l < 32 → M.getLsbD l = true → (vget g'.q q 0).getLsbD l = v.getLsbD l
  otherLanes : ∀ l, l < 32 → M.getLsbD l = false → (vget g'.q q 0).getLsbD l = (vget c.g.q q 0).getLsbD l
  otherPreds : ∀ m, m ≠ q → vget g'.q m 0 = vget c.g.q m 0
  sticky : ∀ l, l < 32 → vget g'.lst l 0 = vget c.g.lst l 0 ||| (if M.getLsbD l then F l else 0)
  rest : g' = { c.g with q := g'.q, lst := g'.lst, splits := g'.splits }
  next : FellThrough c g'

/-- An instruction that writes a predicate completes. -/
def PredCompletes (i : Instr) (s : State) (c : Ctx) (q : Nat) (M v : Mask) (F : Nat → Flags) : Prop :=
  ∃ g', OnlyGroup i s c g' ∧ PredWritten c q M v F g'

/-- R139: a condition on two integers, by its code. -/
def condHolds (k : Nat) (x y : Int) : Prop :=
  if k = 0 then x = y else if k = 1 then x ≠ y else if k = 2 then x < y else if k = 3 then x ≤ y
  else if k = 4 then y < x else y ≤ x

/-- R71, R186: the flags of a floating-point condition on two codes: NV for a signalling NaN, and for any NaN in an
ordering (LT, LE, GT, GE). -/
def fcondFlags (f : Flt) (k x y : Nat) : Flags :=
  if f.isSNaN x = true ∨ f.isSNaN y = true ∨ (2 ≤ k ∧ k ≤ 5 ∧ (f.isNaN x = true ∨ f.isNaN y = true)) then flagNV else 0

/-- R139: a floating-point condition on two codes, by its code; NaNs are unordered. -/
def fcondHolds (f : Flt) (k x y : Nat) : Prop :=
  let un := f.isNaN x = true ∨ f.isNaN y = true
  let X := f.decode x
  let Y := f.decode y
  if k = 0 then ¬un ∧ xeq X Y = true else if k = 1 then un ∨ xeq X Y = false
  else if k = 2 then ¬un ∧ xlt false X Y = true else if k = 3 then ¬un ∧ xlt false Y X = false
  else if k = 4 then ¬un ∧ xlt false Y X = true else if k = 5 then ¬un ∧ xlt false X Y = false
  else if k = 6 then un else ¬un

/-! ## Floating point (R181 to R188): terms -/

/-- The rows of R181 to R183 of two and three sources. -/
def fltClaims (w : LaneW) : List LaneClaim :=
  let rm := rmOf w.pfx.operand.x
  [fltClaim isFlt (.fadd w) (.fadd w) fun f x y _ => roundWith f rm [x, y] (xadd rm (f.decode x) (f.decode y)),
   fltClaim isFlt (.fsub w) (.fsub w) fun f x y _ => roundWith f rm [x, y] (xadd rm (f.decode x) (f.decode y).negate),
   fltClaim isFlt (.fmul w) (.fmul w) fun f x y _ => roundWith f rm [x, y] (xmul (f.decode x) (f.decode y)),
   fltClaim isFlt (.ffma w) (.ffma w) fun f x y z => ffmaElem rm f x y z,
   fltClaim isFltW (.fdiv w) (.fdiv w) fun f x y _ => roundWith f rm [x, y] (xdiv (f.decode x) (f.decode y)),
   ⟨.fscale w, .fscale w, isFltW, fun ta tb _ => sameTag (if count ta = 1 then 1 else 7) tb, fun ta _ => ta, false,
     fun t _ a b _ x F =>
       (∀ e < count t, elem t x e = (fscaleElem rm (fltOf t) (elem t a e)
         (intOf true (32 / count t) (b.toNat / 2 ^ (32 / count t * e) % 2 ^ (32 / count t)))).1 % 2 ^ ewidth t) ∧
       F = (List.range (count t)).foldl (fun G e => G ||| (fscaleElem rm (fltOf t) (elem t a e)
         (intOf true (32 / count t) (b.toNat / 2 ^ (32 / count t * e) % 2 ^ (32 / count t)))).2) 0⟩]

/-- The rows of R182 and R183 of one source. -/
def fltOneClaims (w : LaneU) : List LaneClaim :=
  let rm := rmOf w.pfx.operand.x
  [fltClaim isFltW (.fsqrt w) (.fsqrt w) fun f x _ _ => fsqrtElem rm f x,
   fltClaim isFltW (.frcp w) (.frcp w) fun f x _ _ => frcpElem rm f x,
   fltClaim isFltW (.frsq w) (.frsq w) fun f x _ _ => frsqElem rm f x,
   fltClaim isFltW (.frint w) (.frint w) fun f x _ _ => frintElem rm f x]

/-- The floating-point rows that have a 16-bit form (R127); a halfword has no pfx, so it rounds to nearest even. -/
def fltHalfClaims (w : HalfW) : List LaneClaim :=
  [fltClaim isFlt (.faddC16 w) (.fadd (halfW w)) fun f x y _ => roundWith f .rn [x, y] (xadd .rn (f.decode x) (f.decode y)),
   fltClaim isFlt (.fsubC16 w) (.fsub (halfW w)) fun f x y _ =>
     roundWith f .rn [x, y] (xadd .rn (f.decode x) (f.decode y).negate),
   fltClaim isFlt (.fmulC16 w) (.fmul (halfW w)) fun f x y _ => roundWith f .rn [x, y] (xmul (f.decode x) (f.decode y)),
   fltClaim isFlt (.fminC16 w) (.fmin (halfW w)) fun f x y _ => fminmaxElem false false f x y,
   fltClaim isFlt (.fmaxC16 w) (.fmax (halfW w)) fun f x y _ => fminmaxElem true false f x y,
   fltClaim (fun t => isFlt t && !isB8u t) (.fnegC16 w) (.fneg (halfU w)) fun f x _ _ => (fnegElem f x, 0)]

/-- The rows of R185, R187 and R188. -/
def fltPickClaims (w : LaneW) : List LaneClaim :=
  [fltClaim isFlt (.fmin w) (.fmin w) fun f x y _ => fminmaxElem false false f x y,
   fltClaim isFlt (.fmax w) (.fmax w) fun f x y _ => fminmaxElem true false f x y,
   fltClaim isFlt (.fminp w) (.fminp w) fun f x y _ => fminmaxElem false true f x y,
   fltClaim isFlt (.fmaxp w) (.fmaxp w) fun f x y _ => fminmaxElem true true f x y,
   fltClaim (fun t => isFlt t && !isB8u t) (.fcpsgn w) (.fcpsgn w) fun f x y _ => (fcpsgnElem f x y, 0)]

/-- The rows of R187 and R188 of one source. -/
def fltSignClaims (w : LaneU) : List LaneClaim :=
  [⟨.fclass w, .fclass w, isFlt, fun _ _ _ => true, fun _ _ => 0, true,
     fun t _ a _ _ x F => (∀ e < count t, x.toNat / 2 ^ (4 * e) % 16 = classOf (fltOf t) (elem t a e)) ∧
       x.toNat < 2 ^ (4 * count t) ∧ F = 0⟩,
   fltClaim isFlt (.fabs w) (.fabs w) fun f x _ _ => (fabsElem f x, 0),
   fltClaim (fun t => isFlt t && !isB8u t) (.fneg w) (.fneg w) fun f x _ _ => (fnegElem f x, 0)]

/-! ## Conversions and special functions (R189 to R203): terms -/

/-- A conversion to the tag in field b: the elements both tags have, the others zero. -/
def cvtClaim (run : Instr) (w : LaneW) (cls : Tag → Bool) : LaneClaim :=
  let T : Tag := w.b.setWidth 6
  ⟨run, run, cls, fun _ _ _ => true, fun _ _ => T, true, fun t _ a _ _ x F =>
    (∀ e < count T, elem T x e =
      if e < count t then (convertElem (rmOf w.pfx.operand.x) t T (elem t a e)).1 % 2 ^ ewidth T else 0) ∧
    F = (List.range (min (count t) (count T))).foldl
      (fun G e => G ||| (convertElem (rmOf w.pfx.operand.x) t T (elem t a e)).2) 0⟩

/-- The rows of R189, R190 and R192. -/
def convertClaims (w : LaneW) : List LaneClaim :=
  [cvtClaim (.cvt w) w isFlt, cvtClaim (.cvti w) w tagOk, cvtClaim (.cvtf w) w isInt,
   ⟨.upk w, .upk w, fun _ => true, fun ta _ _ => isPacked ta && w.b.toNat < count ta, fun ta _ => upkTag ta, true,
     fun t _ a _ _ x F =>
       x.toNat = (convertElem .rn t (upkTag t) (elem t a w.b.toNat)).1 % 2 ^ 64 ∧
       F = (convertElem .rn t (upkTag t) (elem t a w.b.toNat)).2⟩]

/-- The rows of R195 to R203. -/
def specialClaims (g : Group) (w : LaneU) : List LaneClaim :=
  let compat := g.ctl.getLsbD 0
  [fltClaim isSfn (.sfnExp2 w) (.sfnExp2 w) fun f x _ _ => sfnElem .exp2 compat f x,
   fltClaim isSfn (.sfnLog2 w) (.sfnLog2 w) fun f x _ _ => sfnElem .log2 compat f x,
   fltClaim isSfn (.sfnSinp w) (.sfnSinp w) fun f x _ _ => sfnElem .sinp compat f x,
   fltClaim isSfn (.sfnCosp w) (.sfnCosp w) fun f x _ _ => sfnElem .cosp compat f x,
   fltClaim isSfn (.sfnTanh w) (.sfnTanh w) fun f x _ _ => sfnElem .tanh compat f x,
   fltClaim isSfn (.sfnSigm w) (.sfnSigm w) fun f x _ _ => sfnElem .sigm compat f x,
   fltClaim isSfn (.rred w) (.rred w) fun f x _ _ => rredElem f x]

end Sys2Proof

open Sys2Proof Sys2Proof.Machine

/-! ## Lane instructions: statements -/

/-- R172, R127: add, sub, mul, mulh, mad, min, max, addsat, subsat and lsa complete, and the 16-bit add, sub and mul:
lane integer arithmetic works per element, modulo the element's width, and changes nothing but its destination. -/
def Sys2Proof.Claims.IntegerArithmeticPerElement : Prop :=
  (∀ w, ∀ r ∈ intClaims w, r.Holds) ∧ (∀ w, ∀ r ∈ intHalfClaims w, r.Holds)

/-- R174, R175, R127: and, or, xor, andn, shl, shr, sra and rot complete, and the 16-bit forms of all but andn and
rot: logic works bit by bit; shifts and rotations take their count from b's element or, of U32, from b's word. -/
def Sys2Proof.Claims.LogicAndShiftsPerElement : Prop :=
  (∀ w, ∀ r ∈ logicClaims w, r.Holds) ∧ (∀ w, ∀ r ∈ logicHalfClaims w, r.Holds)

/-- R173, R177: sad, bfx and bfi complete: sad sums the elements' distances; bfx takes a field of a and bfi puts one
into c, bit by bit. -/
def Sys2Proof.Claims.FieldsAndDistances : Prop := ∀ w, ∀ r ∈ fieldClaims w, r.Holds

/-- R176, R127: iun.abs, neg, not, popc, clz, brev and mov complete; MOV_C16 completes and moves as iun.mov does,
except the halfword 0x0000, which is no instruction. -/
def Sys2Proof.Claims.SingleSourceOperations : Prop :=
  (∀ w, ∀ r ∈ iunClaims w, r.Holds) ∧
  (∀ w : HalfW, ¬(w.a = 0#6 ∧ w.d = 0#5) → (moveClaim (.movC16 w) (.iunMov (halfU w))).Holds)

/-- R178, R180: sel and movi complete: sel takes a where the selecting predicate is 1 and b where it is 0; movi writes
its value, with the FP64 tag as the high half of a pair. -/
def Sys2Proof.Claims.SelectionAndImmediates : Prop :=
  (∀ (w : LaneW) (s : State) (c : Ctx) (p : Pfx) (f : WordF) (o : Opnds),
    Issuing s c → Names (.sel w) s c p f o → LaneUsable c o (tagA c o) true → tagOk (tagA c o) = true →
    sameTag (tagA c o) (srcTag c o.b) = true →
    LaneCompletes (.sel w) s c o.d (activeMask c p.operand f.guard) (tagA c o)
      (fun l => if (vget c.g.q (p.operand.x.toNat % 8) 0).getLsbD l then srcVal c (isF64 (tagA c o)) o.a l
        else srcVal c (isF64 (tagA c o)) o.b l) (fun _ => 0)) ∧
  (∀ (w : LaneW) (s : State) (c : Ctx) (p : Pfx) (f : WordF) (o : Opnds),
    Issuing s c → Names (.movi w) s c p f o → oddPair (isF64 p.operand.x) o.d = false →
    heldSpan c.g o.d (if isF64 p.operand.x then 2 else 1) = true →
    LaneCompletes (.movi w) s c o.d (activeMask c p.operand f.guard) p.operand.x
      (fun _ => if isF64 p.operand.x then (moviValue p w.a w.b).setWidth 64 <<< 32
        else (moviValue p w.a w.b).setWidth 64) (fun _ => 0))

/-- R179, R186, R222, R139: cmp and fcmp complete and write, in each active lane, whether every element meets the
condition, and fcmp raises there the flags of its elements; scmp completes and writes one answer in every lane of the
split; no other predicate, flag or register changes. Of an fcmp whose source a is no register or latch nothing is said
of answer and flags (log 131). -/
def Obligations.ComparisonsWritePredicates : Prop :=
  (∀ (w : LaneW) (s : State) (c : Ctx) (p : Pfx) (f : WordF) (o : Opnds),
    Issuing s c → Names (.cmp w) s c p f o → LaneUsable c o 0 true → isInt (tagA c o) = true →
    sameTag (tagA c o) (srcTag c o.b) = true →
    ∃ v, PredCompletes (.cmp w) s c (w.d.toNat % 8) (activeMask c p.operand f.guard) v (fun _ => 0) ∧
      ∀ l, l < 32 → (v.getLsbD l = true ↔ ∀ e < count (tagA c o), condHolds (w.d.toNat / 8)
        (intOf (isSigned (tagA c o)) (ewidth (tagA c o)) (elem (tagA c o) (srcVal c false o.a l) e))
        (intOf (isSigned (tagA c o)) (ewidth (tagA c o)) (elem (tagA c o) (srcVal c false o.b l) e)))) ∧
  (∀ (w : LaneW) (s : State) (c : Ctx) (p : Pfx) (f : WordF) (o : Opnds),
    Issuing s c → Names (.fcmp w) s c p f o → LaneUsable c o 0 true → passesA c o isFlt = true →
    sameTag (tagA c o) (srcTag c o.b) = true →
    ∃ v F, PredCompletes (.fcmp w) s c (w.d.toNat % 8) (activeMask c p.operand f.guard) v F ∧
      (isFlt (tagA c o) = true → ∀ l, l < 32 →
        let x := elem (tagA c o) (srcVal c (isF64 (tagA c o)) o.a l)
        let y := elem (tagA c o) (srcVal c (isF64 (tagA c o)) o.b l)
        (v.getLsbD l = true ↔ ∀ e < count (tagA c o), fcondHolds (fltOf (tagA c o)) (w.d.toNat / 8) (x e) (y e)) ∧
        F l = (List.range (count (tagA c o))).foldl
          (fun G e => G ||| fcondFlags (fltOf (tagA c o)) (w.d.toNat / 8) (x e) (y e)) 0)) ∧
  (∀ (w : ScalarW) (s : State) (c : Ctx) (p : Pfx) (f : WordF) (o : Opnds),
    Issuing s c → Names (.scmp w) s c p f o →
    ∃ v, PredCompletes (.scmp w) s c (w.d.toNat % 8) c.mask v (fun _ => 0) ∧
      ∀ l, l < 32 → (v.getLsbD l = true ↔
        if w.d.toNat / 8 ≤ 5 then condHolds (w.d.toNat / 8) (srcS s c w.a).toInt (srcS s c w.b).toInt
        else condHolds (w.d.toNat / 8 - 4) (srcS s c w.a).toNat (srcS s c w.b).toNat))

/-- R181 to R184, R127: fadd, fsub, fmul, ffma, fdiv, fscale, fsqrt, frcp, frsq and frint complete, and the 16-bit
fadd, fsub, fmul, fmin, fmax and fneg: floating-point arithmetic rounds each element's exact result once, and raises
its flags. -/
def Sys2Proof.Claims.FloatArithmeticRoundsOnce : Prop :=
  (∀ w, ∀ r ∈ fltClaims w, r.Holds) ∧ (∀ w, ∀ r ∈ fltOneClaims w, r.Holds) ∧ (∀ w, ∀ r ∈ fltHalfClaims w, r.Holds)

/-- R185, R187, R188: fmin, fmax, fminp, fmaxp, fcpsgn, fclass, fabs and fneg complete: minimum, maximum, class and sign
operations give one operand's code, a class or a code with another
sign. -/
def Sys2Proof.Claims.FloatPicksAndSigns : Prop :=
  (∀ w, ∀ r ∈ fltPickClaims w, r.Holds) ∧ (∀ w, ∀ r ∈ fltSignClaims w, r.Holds)

/-- R73, R181, R185: in every format a NaN operand makes a sum, difference, product, quotient, fused product or minimum
the canonical NaN, and the status holds NV when the NaN signals. -/
def Sys2Proof.Claims.NaNOperandsGiveTheCanonicalNaN : Prop :=
  ∀ (t : Tag) (rm : Rm) (x y z : Nat), isFlt t = true →
    ((fltOf t).isNaN x = true ∨ (fltOf t).isNaN y = true) →
    (∀ r ∈ [faddElem rm (fltOf t) x y, fsubElem rm (fltOf t) x y, fmulElem rm (fltOf t) x y, fdivElem rm (fltOf t) x y,
        ffmaElem rm (fltOf t) x y z, fminmaxElem false false (fltOf t) x y, fminmaxElem true false (fltOf t) x y],
      r.1 = (fltOf t).nanCode ∧
      (((fltOf t).isSNaN x = true ∨ (fltOf t).isSNaN y = true) → r.2.getLsbD 0 = true))

/-- R189 to R192: cvt, cvti, cvtf and upk complete: conversions work per element, from element 0 up; upk widens one
element. -/
def Obligations.ConversionsPerElement : Prop := ∀ w, ∀ r ∈ convertClaims w, r.Holds

/-- R197 to R203: sfn.exp2, log2, sinp, cosp, tanh and sigm and rred complete: the special functions and the angle
reduction give each element the function's rounded value, in the mode that ctl names. -/
def Obligations.SpecialFunctionsPerElement : Prop :=
  ∀ (s : State) (c : Ctx) (w : LaneU), Issuing s c → ∀ r ∈ specialClaims c.g w, r.HoldsAt s c

/-! ## Lanes that read one another (R204 to R218): terms -/

namespace Sys2Proof

/-- What a rule says of an instruction whose lanes read one another: its tags, its result's tag, and a lane's result and
flags from the active mask and every lane's values of a and b. -/
structure CrossClaim where
  run : Instr
  src : Tag → Bool
  accepts : Tag → Option Tag → Bool
  result : Tag → Tag
  gives : Mask → Tag → (Nat → Dword) → (Nat → Dword) → Nat → Dword → Flags → Prop

/-- On operands it can use, of tags it accepts, the instruction completes with what the rule says in each active lane; a
source a that is no register or latch is accepted too, with free values where U32 is not of the class (R124, log 131). -/
def CrossClaim.Holds (r : CrossClaim) : Prop :=
  ∀ (s : State) (c : Ctx) (p : Pfx) (f : WordF) (o : Opnds),
    Issuing s c → Names r.run s c p f o → LaneUsable c o (r.result (tagA c o)) false →
    passesA c o r.src = true → r.accepts (tagA c o) (srcTag c o.b) = true →
    ∃ x F, LaneCompletes r.run s c o.d (activeMask c p.operand f.guard) (r.result (tagA c o)) x F ∧
      (r.src (tagA c o) = true → ∀ l < 32, r.gives (activeMask c p.operand f.guard) (tagA c o)
        (srcVal c (isF64 (tagA c o)) o.a) (srcVal c false o.b) l (x l) (F l))

/-- A lane's value comes from another lane where that is active, else from itself. -/
def fromClaim (run : Instr) (accepts : Tag → Option Tag → Bool) (lane : Mask → (Nat → Dword) → Nat → Nat) :
    CrossClaim :=
  ⟨run, fun _ => true, accepts, fun t => t, fun M _ a b l x F => x = (if M.getLsbD (lane M b l) then a (lane M b l) else a l) ∧ F = 0⟩

/-- The lowest lane of a mask that is not empty. -/
def IsLowest (M : Mask) (k : Nat) : Prop := M.getLsbD k = true ∧ ∀ j < k, M.getLsbD j = false

/-- R217: a lane's result is, at each element position, the root of the reduction of the active lanes' elements, by lane
number; the status of the tree is raised. -/
def redlClaim (run : Instr) (op : RedOp) (accepts : Tag → Bool) : CrossClaim :=
  let row (M : Mask) (t : Tag) (a : Nat → Dword) (e : Nat) : List (Option Nat) :=
    (List.range 32).map fun l => if M.getLsbD l then some (elem t (a l) e) else none
  ⟨run, accepts, fun _ _ => true, fun t => t, fun M t a _ _ x F =>
    (∀ e < count t, elem t x e =
      (((reduceElems op t (row M t a e)).1).getD (redIdentity op t)) % 2 ^ ewidth t) ∧
    F = (List.range (count t)).foldl (fun G e => G ||| (reduceElems op t (row M t a e)).2) 0⟩

/-- The rows of R211 to R213, R215 and R217 whose field b is a source or a literal. -/
def crossClaims (w : LaneW) : List CrossClaim :=
  [fromClaim (.swpp w) (fun _ _ => true) fun _ _ l => l ^^^ 2 ^ w.b.toNat,
   fromClaim (.shfl w) (fun _ tb => tagIn isInt32 tb) fun _ b l => (b l).toNat % 32,
   ⟨.bcast w, fun _ => true, fun _ _ => true, fun t => t, fun M _ a _ _ x F =>
     x = (if M.getLsbD w.b.toNat then a w.b.toNat else 0) ∧ F = 0⟩]

/-- The rows of R213, R215 and R217 of one source. -/
def crossOneClaims (w : LaneU) : List CrossClaim :=
  [⟨.rfal w, fun _ => true, fun _ _ => true, fun t => t, fun M _ a _ _ x F => (∀ k < 32, IsLowest M k → x = a k) ∧ F = 0⟩,
   ⟨.matchLanes w, fun _ => true, fun _ _ => true, fun _ => 0, fun M _ a _ l x F =>
     (∀ k < 32, x.getLsbD k = (M.getLsbD k && a k == a l)) ∧ x.toNat < 2 ^ 32 ∧ F = 0⟩,
   redlClaim (.redlSum w) .sum redlSumTag, redlClaim (.redlMax w) .max redlMinMaxTag,
   redlClaim (.redlMin w) .min redlMinMaxTag]

/-- A row operation has written registers from its destination up (offset, tag, lane words), raised the flags F in the
active lanes, and changed nothing else of its group. -/
structure RowWritten (c : Ctx) (d : Src) (M : Mask) (regs : List (Nat × Tag × (Nat → Word))) (F : Flags) (g' : Group) :
    Prop where
  written : ∀ n, d = .reg n → ∀ x ∈ regs, tagOf g' (n + x.1) = x.2.1 ∧ ∀ l, l < 32 →
    laneGet (vreg g' (n + x.1)).lane l = if M.getLsbD l then x.2.2 l
      else if tagOf c.g (n + x.1) = x.2.1 then laneGet (vreg c.g (n + x.1)).lane l else 0
  otherRegs : ∀ m, (∀ n, d = .reg n → ∀ x ∈ regs, m ≠ n + x.1) → vreg g' m = vreg c.g m
  sticky : ∀ l, l < 32 → vget g'.lst l 0 = vget c.g.lst l 0 ||| (if M.getLsbD l then F else 0)
  rest : g' = { c.g with v := g'.v, lst := g'.lst, splits := g'.splits }
  next : FellThrough c g'

/-- The registers that hold one value of a tag in every lane, from an offset up: two for FP64. -/
def sameRegs (off : Nat) (t : Tag) (v : Nat) : List (Nat × Tag × (Nat → Word)) :=
  if isF64 t then [(off, t, fun _ => BitVec.ofNat 32 v), (off + 1, t, fun _ => BitVec.ofNat 32 (v / 2 ^ 32))]
  else [(off, t, fun _ => BitVec.ofNat 32 v)]

/-- The n registers that hold a row of new elements, by index. -/
def rowRegs (t : Tag) (n : Nat) (ys : List Nat) : List (Nat × Tag × (Nat → Word)) :=
  (List.range n).map fun j => (j, t, fun l =>
    BitVec.ofNat 32 (joinElems (ewidth t) ((ys.drop ((j * 32 + l) * count t)).take (count t))))

/-- R204: a row of n registers, or of n pairs of FP64, from register r can be read: they are held, of one tag, and the
pairs even; k is how many registers its destination takes. -/
structure RowUsable (c : Ctx) (o : Opnds) (r n k : Nat) (evenD : Bool) : Prop where
  base : o.a = .reg r
  even : oddPair (isF64 (tagOf c.g r)) o.a = false
  evenD : oddPair evenD o.d = false
  held : heldSpan c.g o.a ((if isF64 (tagOf c.g r) then 2 else 1) * n) = true
  heldD : heldSpan c.g o.d k = true
  tags : ∀ j < (if isF64 (tagOf c.g r) then 2 else 1) * n, tagOf c.g (r + j) = tagOf c.g r

/-- What a rule says of a row operation: the tags it takes, how many destination registers, whether they start at an even
one, and what they hold and the status, from the row's leaves. -/
structure RowClaim where
  run : Instr
  row : Nat
  accepts : Tag → Bool
  dst : Tag → Nat
  evenD : Tag → Bool
  regs : Tag → List (Option Nat) → List (Nat × Tag × (Nat → Word))
  flags : Tag → List (Option Nat) → Flags

/-- On a row it can read, the operation completes with what the rule says. -/
def RowClaim.Holds (r : RowClaim) : Prop :=
  ∀ (s : State) (c : Ctx) (p : Pfx) (f : WordF) (o : Opnds) (k : Nat),
    Issuing s c → Names r.run s c p f o → RowUsable c o k r.row (r.dst (tagOf c.g k)) (r.evenD (tagOf c.g k)) →
    r.accepts (tagOf c.g k) = true →
    let M := activeMask c p.operand f.guard
    let t := tagOf c.g k
    let xs := rowLeaves c M t k r.row
    ∃ g', OnlyGroup r.run s c g' ∧ RowWritten c o.d M (r.regs t xs) (r.flags t xs) g'

/-- The row operations of R205 to R209. -/
def rowClaims (w : LaneW) : List RowClaim :=
  let n := w.b.toNat
  [⟨.rmax w, n, isFlt, fun t => if isF64 t then 2 else 1, isF64,
     fun t xs => sameRegs 0 (wideTag t) (rowMax t xs).1, fun t xs => (rowMax t xs).2⟩,
   ⟨.rsexp w, n, fun t => isFlt t && !isF64 t, fun _ => 2, fun _ => false,
     fun t xs => sameRegs 0 2 (rowMax t xs).1 ++ sameRegs 1 2 (expRow t (rowMax t xs).1 xs).2.1,
     fun t xs => (rowMax t xs).2 ||| (expRow t (rowMax t xs).1 xs).2.2⟩,
   ⟨.rstat w, n, isFlt, fun t => if isF64 t then 6 else 3, isF64,
     fun t xs => if isF64 t then sameRegs 0 0 (rowStat t xs).1.n ++ sameRegs 1 0 0 ++ sameRegs 2 3 (rowStat t xs).1.mu ++
         sameRegs 4 3 (rowStat t xs).1.ss
       else sameRegs 0 0 (rowStat t xs).1.n ++ sameRegs 1 2 (rowStat t xs).1.mu ++ sameRegs 2 2 (rowStat t xs).1.ss,
     fun t xs => (rowStat t xs).2⟩,
   ⟨.smx w, n, isSfn, fun _ => n, fun _ => false,
     fun t xs => rowRegs t n (if fp32.decode (rowMax t xs).1 = .inf true then xs.map fun _ => 0
       else (expRow t (rowMax t xs).1 xs).1.map fun y => (smxElem (fltOf t) (expRow t (rowMax t xs).1 xs).2.1 y).1),
     fun t xs => if fp32.decode (rowMax t xs).1 = .inf true then (rowMax t xs).2 ||| flagNV
       else ((expRow t (rowMax t xs).1 xs).1.map (smxElem (fltOf t) (expRow t (rowMax t xs).1 xs).2.1)).foldl
         (fun F z => F ||| z.2) ((rowMax t xs).2 ||| (expRow t (rowMax t xs).1 xs).2.2)⟩,
   ⟨.rnorm w, n, isSfn, fun _ => n, fun _ => false,
     fun t xs => rowRegs t n (xs.map fun x => (normElem (fltOf t) (normScale t xs).1 x).1),
     fun t xs => xs.foldl (fun G x => match x with
         | some v => G ||| leafFlag t v
         | none => G) ((xs.map (normElem (fltOf t) (normScale t xs).1)).foldl (fun F z => F ||| z.2) (normScale t xs).2)⟩]

end Sys2Proof

/-! ## Packing and retagging: statements -/

/-- R191, R193: pk completes: it takes half of the target's elements from each source stream, converts them to nearest
even and raises their flags. retag completes: it keeps the words and changes the tag, of a pair where the source or the
target is FP64; the upper word that a latch of a 32-bit result gives there is free (log 121). -/
def Obligations.PackingAndRetagging : Prop :=
  (∀ (w : LaneW) (s : State) (c : Ctx) (p : Pfx) (f : WordF) (o : Opnds),
    let T := p.operand.x
    let t := tagA c o
    let h := count T / 2
    let n := streamRegs t h
    Issuing s c → Names (.pk w) s c p f o →
    ((isRegSrc o.a = true ∧ isRegSrc o.b = true) ∨ n ≤ (if isF64 t then 2 else 1)) →
    oddPair (isF64 t) o.a = false → oddPair (isF64 t || carriesF64 c o.b) o.b = false →
    heldSpan c.g o.d 1 = true → heldSpan c.g o.a n = true → heldSpan c.g o.b n = true →
    brokenStream c t o.a h = false → brokenStream c t o.b h = false → tagOk t = true →
    streamTags c t o.a n = true → streamTags c t o.b n = true → isF64 T = false →
    ∃ x F, LaneCompletes (.pk w) s c o.d (activeMask c p.operand f.guard) T x F ∧
      ∀ l, (∀ e < h, elem T (x l) e = (convertElem .rn t T (streamElem c t o.a e l)).1 % 2 ^ ewidth T) ∧
        (∀ e < h, elem T (x l) (h + e) = (convertElem .rn t T (streamElem c t o.b e l)).1 % 2 ^ ewidth T) ∧
        F l = (List.range h).foldl (fun G e => G ||| (convertElem .rn t T (streamElem c t o.b e l)).2)
          ((List.range h).foldl (fun G e => G ||| (convertElem .rn t T (streamElem c t o.a e l)).2) 0)) ∧
  (∀ (w : LaneW) (s : State) (c : Ctx) (p : Pfx) (f : WordF) (o : Opnds),
    let T : Tag := w.b.setWidth 6
    Issuing s c → Names (.retag w) s c p f o → isF64 T = false → carriesF64 c o.a = false →
    heldSpan c.g o.d 1 = true → heldSpan c.g o.a 1 = true →
    LaneCompletes (.retag w) s c o.d (activeMask c p.operand f.guard) T (srcVal c false o.a) (fun _ => 0)) ∧
  (∀ (w : LaneW) (s : State) (c : Ctx) (p : Pfx) (f : WordF) (o : Opnds),
    let T : Tag := w.b.setWidth 6
    let M := activeMask c p.operand f.guard
    Issuing s c → Names (.retag w) s c p f o → (isF64 T || carriesF64 c o.a) = true →
    oddPair true o.a = false → oddPair true o.d = false →
    heldSpan c.g o.d 2 = true → heldSpan c.g o.a 2 = true →
    ∃ g' up, OnlyGroup (.retag w) s c g' ∧
      RowWritten c o.d M [(0, T, fun l => (srcVal c true o.a l).setWidth 32), (1, T, up)] 0 g' ∧
      ((isRegSrc o.a = true ∨ carriesF64 c o.a = true ∨ srcTag c o.a = none) →
        ∀ l, up l = (srcVal c true o.a l).extractLsb' 32 32))

/-! ## Lanes that read one another: statements -/

/-- R211 to R218: swpp, shfl, rfal, bcast, match and redl complete: exchanges take another active lane's value; match
finds equal lanes; redl gives every lane the root of the reduction by lane number. -/
def Sys2Proof.Claims.LanesReadOneAnother : Prop :=
  (∀ w, ∀ r ∈ crossClaims w, r.Holds) ∧ (∀ w, ∀ r ∈ crossOneClaims w, r.Holds)

/-- R214: vote.any, vote.all and vote.ballot complete, and see the source predicate in the active lanes alone. -/
def Sys2Proof.Claims.VotesOverActiveLanes : Prop :=
  ∀ (w : LaneU) (s : State) (c : Ctx) (p : Pfx) (f : WordF) (o : Opnds), Issuing s c →
    let M := activeMask c p.operand f.guard
    (Names (.voteAny w) s c p f o → ∃ v, PredCompletes (.voteAny w) s c w.d.toNat M v (fun _ => 0) ∧
      ∀ l < 32, (v.getLsbD l = true ↔ ∃ k < 32, M.getLsbD k = true ∧ (vget c.g.q w.a.toNat 0).getLsbD k = true)) ∧
    (Names (.voteAll w) s c p f o → ∃ v, PredCompletes (.voteAll w) s c w.d.toNat M v (fun _ => 0) ∧
      ∀ l < 32, (v.getLsbD l = true ↔ ∀ k < 32, M.getLsbD k = true → (vget c.g.q w.a.toNat 0).getLsbD k = true)) ∧
    (Names (.voteBallot w) s c p f o → heldSpan c.g o.d 1 = true →
      LaneCompletes (.voteBallot w) s c o.d M 0 (fun _ => ((vget c.g.q w.a.toNat 0) &&& M).setWidth 64) (fun _ => 0))

/-- R204 to R210: rmax, rsexp, rstat, smx and rnorm complete: they reduce a row of registers in index order and write
their results from the destination up, in the active lanes. -/
def Obligations.RowOperations : Prop := ∀ w, ∀ r ∈ rowClaims w, r.Holds

/-! ## Scalars and control: terms -/

namespace Sys2Proof

/-- A scalar row of R220 and R221: the result from the 64-bit contents of a, b and d. -/
structure ScalarClaim where
  run : Instr
  value : Dword → Dword → Dword → Dword

/-- The rows of R221 of two and three sources, and `sli`'s of R223. -/
def scalarClaims (w : ScalarW) : List ScalarClaim :=
  [⟨.sadd w, fun x y _ => BitVec.ofNat 64 (x.toNat + y.toNat)⟩,
   ⟨.ssub w, fun x y _ => BitVec.ofInt 64 (x.toInt - y.toInt)⟩,
   ⟨.smul w, fun x y _ => BitVec.ofNat 64 (x.toNat * y.toNat)⟩,
   ⟨.smad w, fun x y z => BitVec.ofNat 64 (x.toNat * y.toNat + z.toNat)⟩,
   ⟨.sand w, fun x y _ => x &&& y⟩,
   ⟨.sor w, fun x y _ => x ||| y⟩,
   ⟨.sxor w, fun x y _ => x ^^^ y⟩,
   ⟨.sshl w, fun x y _ => BitVec.ofNat 64 (x.toNat * 2 ^ y.toNat)⟩,
   ⟨.sshr w, fun x y _ => BitVec.ofNat 64 (x.toNat / 2 ^ y.toNat)⟩,
   ⟨.ssra w, fun x y _ => BitVec.ofInt 64 (x.toInt / 2 ^ y.toNat)⟩,
   ⟨.smin w, fun x y _ => if y.toInt < x.toInt then y else x⟩,
   ⟨.smax w, fun x y _ => if x.toInt < y.toInt then y else x⟩,
   ⟨.slsa w, fun x y _ => BitVec.ofNat 64 (x.toNat * 2 ^ (w.pfx.operand.x.toNat % 8) + y.toNat)⟩,
   ⟨.sli w, fun _ _ _ => BitVec.ofInt 64 (match w.pfx.immediate with
     | none => ((w.b ++ w.a).toInt)
     | some v => (v ++ w.b ++ w.a).toInt)⟩]

/-- R224: the target of a branch, off halfwords from the instruction's first word. -/
def branchTarget (c : Ctx) (off : BitVec 21) : Dword := c.cur.pcf + BitVec.ofInt 64 (2 * off.toInt)

/-- R229, R230: the rejoin address that an immediate prefix v gives, modulo 2^56 as the model takes it (log 132). -/
def rejoinAddress (c : Ctx) (v : BitVec 22) : Dword := branchTarget c (v.setWidth 21) &&& 0x00FF_FFFF_FFFF_FFFE#64

/-- R225: an instruction address of the 56-bit space. -/
def InstrAddress (a : Dword) : Prop := a.getLsbD 0 = false ∧ a.toNat < 2 ^ 56

/-- The lowest free entry of a group's split table. -/
def LowestFree (g : Group) (k : Nat) : Prop :=
  k < 4 ∧ (splitAt g k).live = false ∧ ∀ j < k, (splitAt g j).live = true

/-- R230, R237: the link stack that the splits of a divergence to rejoin J carry: the issuing split's own when it already
rejoins there, else with its rejoin saved on top. -/
def DivergeLink (p : SplitRec) (J : Dword) (link : List Dword) : Prop :=
  ((J = p.rejoin ∧ ∃ e, p.link.getLast? = some e ∧ (savedRejoin e).isSome = true) ∧ link = p.link) ∨
  (¬(J = p.rejoin ∧ ∃ e, p.link.getLast? = some e ∧ (savedRejoin e).isSome = true) ∧ p.link.length < 4 ∧
    link = p.link ++ [saveRejoin p.rejoin])

/-- From s a divergence completes: the issuing split is left with one class, and an entry with the other, the lowest free
one where one is free; then, where no split of the group is parked, nothing but the group's splits changes after the commit
of its region. -/
def Diverges (i : Instr) (s : State) (c : Ctx) (J : Dword) (link : List Dword) (keep other : Dword × Mask) : Prop :=
  ∃ t g', exec i s = .next t ∧ groupAt t c.cur.who.core c.cur.who.gslot = some g' ∧
    (splitAt g' c.cur.who.entry).arch = ⟨keep.1, J, keep.2, .ready, link⟩ ∧
    (∃ k < 4, k ≠ c.cur.who.entry ∧ (splitAt g' k).arch = ⟨other.1, J, other.2, .ready, link⟩) ∧
    ∀ k, LowestFree c.g k → (splitAt g' k).arch = ⟨other.1, J, other.2, .ready, link⟩ ∧
      (c.g.parked = [] → GroupStep (afterCommit s c) t c.cur.who.core c.cur.who.gslot g' ∧
        g' = { c.g with region := none, splits := g'.splits })

end Sys2Proof

/-! ## Scalars and control: statements -/

/-- R220, R221, R223: the scalar operations complete: they work on 64-bit contents and change nothing but their
destination; a shift by 64 or more leaves 0, or the sign. -/
def Sys2Proof.Claims.ScalarOperations : Prop :=
  (∀ (w : ScalarW) (s : State) (c : Ctx) (p : Pfx) (f : WordF) (o : Opnds), Issuing s c →
    ∀ r ∈ scalarClaims w, Names r.run s c p f o →
      ∃ t, exec r.run s = .next t ∧ ScalarLeaves s t c w.d (r.value (srcS s c w.a) (srcS s c w.b) (srcS s c w.d))) ∧
  (∀ (w : ScalarU) (s : State) (c : Ctx) (p : Pfx) (f : WordF) (o : Opnds), Issuing s c → Names (.smov w) s c p f o →
    ∃ t, exec (.smov w) s = .next t ∧ ScalarLeaves s t c w.d (srcS s c w.a))

/-- R40: a w register that was written gives the written value from two cycles later on, where nothing later was written
to it; other w registers are as they were. -/
def Sys2Proof.Claims.TeamScalarArrives : Prop :=
  ∀ (s s' : State) (t : Team) (gslot n m : Nat) (v : Dword), n < 16 → m < 16 →
    s.clk.toNat + 2 ≤ s'.clk.toNat → (∀ x ∈ t.wq, x.cycle < s.clk.toNat) →
    readW s' (writeW s gslot n v t) m = if m = n then v else readW s' t m

/-- R224 to R228: bru, call, jmp and ret complete: an unconditional or taken branch goes to its target, an untaken one
to the next instruction; call saves the address after it; ret returns to the latest call's. But for the commit of the
group's region, nothing but the issuing split's record changes. -/
def Obligations.UniformTransfers : Prop :=
  ∀ (s : State) (c : Ctx) (p : Pfx) (f : WordF) (o : Opnds), Issuing s c →
    (∀ pfx guard off, Names (.bru pfx guard off) s c p f o →
      (activeMask c pfx.operand guard = c.mask → InstrAddress (branchTarget c off) →
        OnlySplit (.bru pfx guard off) s s c { c.p.arch with pc := branchTarget c off }) ∧
      (activeMask c pfx.operand guard = 0 → c.mask ≠ 0 →
        OnlySplit (.bru pfx guard off) s s c { c.p.arch with pc := c.cur.next })) ∧
    (∀ pfx guard off, Names (.call pfx guard off) s c p f o → commitReady s c.g = true →
      (activeMask c pfx.operand guard = c.mask → InstrAddress (branchTarget c off) → c.p.arch.link.length < 4 →
        OnlySplit (.call pfx guard off) s (afterCommit s c) (committedCtx c)
          { c.p.arch with
            pc := branchTarget c off
            link := c.p.arch.link ++ [c.cur.next &&& 0x00FF_FFFF_FFFF_FFFE#64] }) ∧
      (activeMask c pfx.operand guard = 0 → c.mask ≠ 0 →
        OnlySplit (.call pfx guard off) s (afterCommit s c) (committedCtx c) { c.p.arch with pc := c.cur.next })) ∧
    (∀ a, Names (.jmp a) s c p f o → commitReady s c.g = true → InstrAddress (srcS s c a) →
      OnlySplit (.jmp a) s (afterCommit s c) (committedCtx c) { c.p.arch with pc := srcS s c a }) ∧
    (Names .ret s c p f o → commitReady s c.g = true → c.p.arch.state = .ready →
      ∀ below r, c.p.arch.link = below ++ [r] → isCallReturn r = true →
        ∃ t g', exec .ret s = .next t ∧ groupAt t c.cur.who.core c.cur.who.gslot = some g' ∧
          (splitAt g' c.cur.who.entry).arch = { c.p.arch with pc := r, link := below })

/-- R229, R230, R237: brd and jmpx complete: one class of lanes transfers the split as it is; two classes leave the
issuing split with one and make a new split of the other, both to rejoin at J. -/
def Obligations.Divergence : Prop :=
  ∀ (s : State) (c : Ctx) (p : Pfx) (f : WordF) (o : Opnds), Issuing s c → commitReady s c.g = true →
    (∀ pfx guard off, Names (.brd pfx guard off) s c p f o →
      (activeMask c pfx.operand guard = 0 → c.mask ≠ 0 →
        OnlySplit (.brd pfx guard off) s (afterCommit s c) (committedCtx c) { c.p.arch with pc := c.cur.next }) ∧
      (activeMask c pfx.operand guard = c.mask → c.mask ≠ 0 → InstrAddress (branchTarget c off) →
        OnlySplit (.brd pfx guard off) s (afterCommit s c) (committedCtx c)
          { c.p.arch with pc := branchTarget c off }) ∧
      (activeMask c pfx.operand guard ≠ 0 → activeMask c pfx.operand guard ≠ c.mask → c.p.arch.state = .ready →
        InstrAddress (branchTarget c off) → ∀ v link, pfx.immediate = some v →
        DivergeLink c.p.arch (rejoinAddress c v) link →
        Diverges (.brd pfx guard off) s c (rejoinAddress c v) link
          (c.cur.next, c.mask &&& ~~~activeMask c pfx.operand guard)
          (branchTarget c off, activeMask c pfx.operand guard))) ∧
    (∀ pfx guard a n target, Names (.jmpx pfx guard a) s c p f o → o.a = .reg n →
      heldSpan c.g o.a 2 = true → isInt32 (tagOf c.g n) = true → isInt32 (tagOf c.g (n + 1)) = true →
      activeMask c pfx.operand guard = c.mask → c.mask ≠ 0 → InstrAddress target →
      (∀ l < 32, c.mask.getLsbD l = true → srcVal c true o.a l = target) →
      OnlySplit (.jmpx pfx guard a) s (afterCommit s c) (committedCtx c) { c.p.arch with pc := target }) ∧
    (∀ pfx guard a n T next v link, Names (.jmpx pfx guard a) s c p f o → o.a = .reg n →
      heldSpan c.g o.a 2 = true → isInt32 (tagOf c.g n) = true → isInt32 (tagOf c.g (n + 1)) = true →
      activeMask c pfx.operand guard = c.mask → c.p.arch.state = .ready → InstrAddress T → InstrAddress next → T ≠ next →
      pfx.immediate = some v → DivergeLink c.p.arch (rejoinAddress c v) link →
      ∀ M N : Mask, M ||| N = c.mask → M &&& N = 0 → N ≠ 0 → M.getLsbD (lowestLane c.mask) = true →
      (∀ l < 32, M.getLsbD l = true → srcVal c true o.a l = T) →
      (∀ l < 32, N.getLsbD l = true → srcVal c true o.a l = next) →
      Diverges (.jmpx pfx guard a) s c (rejoinAddress c v) link (T, M) (next, N))

/-- R235, R249: exit and kill complete: they end the lanes of the active mask M, after the commit of the group's
region: the split goes on with the other lanes, or its entry is free, and a group with no lane left is gone; exit
first adds the lanes' sticky flags to its grid's, and enters the handler where the launch record asks for a report of
them. With M empty nothing changes but the pc. -/
def Sys2Proof.Claims.LanesEnd : Prop :=
  ∀ (s : State) (c : Ctx) (p : Pfx) (f : WordF) (o : Opnds), Issuing s c → commitReady s c.g = true →
    c.p.arch.state = .ready →
    let M := activeMask c p.operand f.guard
    let left := c.mask &&& ~~~M
    let Ends (i : Instr) : Prop := ∃ t, exec i s = .next t ∧
      (left ≠ 0 → ∃ g', groupAt t c.cur.who.core c.cur.who.gslot = some g' ∧
        (splitAt g' c.cur.who.entry).arch = { c.p.arch with pc := c.cur.next, mask := left }) ∧
      (left = 0 → liveSplits c.g = 1 → groupAt t c.cur.who.core c.cur.who.gslot = none) ∧
      (left = 0 → liveSplits c.g ≠ 1 → c.g.parked = [] → ∃ g', groupAt t c.cur.who.core c.cur.who.gslot = some g' ∧
        (splitAt g' c.cur.who.entry).live = false) ∧
      t.mem = (afterCommit s c).mem ∧ t.cmds = (afterCommit s c).cmds ∧
      ∀ gr, gridOf (afterCommit s c) c.g.gid = some gr → ∃ gr', gridOf t c.g.gid = some gr' ∧
        gr'.sticky = if i = .exit p f.guard then gr.sticky ||| stickyOr c.g M else gr.sticky
    (Names (.exit p f.guard) s c p f o →
      (M = 0 → OnlySplit (.exit p f.guard) s (afterCommit s c) (committedCtx c) { c.p.arch with pc := c.cur.next }) ∧
      (M ≠ 0 → (∀ gr, gridOf (afterCommit s c) c.g.gid = some gr → reportTraps gr (stickyOr c.g M) = false) →
        c.g.parked = [] → Ends (.exit p f.guard)) ∧
      (M ≠ 0 → ∀ gr, gridOf (afterCommit s c) c.g.gid = some gr → reportTraps gr (stickyOr c.g M) = true →
        exec (.exit p f.guard) s = .next { enterTrapAt (reportSticky (afterCommit s c) c.g.gid (stickyOr c.g M))
          c.cur.who c.cur.pcf c.cur.next ⟨causeSticky, 0, 0, M, false, [], []⟩ with freeCtr := s.freeCtr + 1024 })) ∧
    (Names (.kill p f.guard) s c p f o →
      (M = 0 → OnlySplit (.kill p f.guard) s (afterCommit s c) (committedCtx c) { c.p.arch with pc := c.cur.next }) ∧
      (M ≠ 0 → c.g.parked = [] → Ends (.kill p f.guard)))

/-- R235: exit and kill complete in a group with parked splits too. -/
def Sys2Proof.Claims.LanesEndBesideParkedSplits : Prop :=
  ∀ (s : State) (c : Ctx) (p : Pfx) (f : WordF) (o : Opnds), Issuing s c → commitReady s c.g = true →
    (Names (.exit p f.guard) s c p f o → ∃ t, exec (.exit p f.guard) s = .next t) ∧
    (Names (.kill p f.guard) s c p f o → ∃ t, exec (.kill p f.guard) s = .next t)

/-- R236: yld completes, after the commit of the group's region: with no split parked it goes on at the next
instruction once every other Ready resident split has issued, of which it keeps the lanes; with splits parked, its
entry takes the one parked last. -/
def Sys2Proof.Claims.YieldsGiveWay : Prop :=
  ∀ (s : State) (c : Ctx) (p : Pfx) (f : WordF) (o : Opnds), Issuing s c → commitReady s c.g = true →
    c.p.arch.state = .ready → Names .yld s c p f o →
    (c.g.parked = [] → ∃ t g', exec .yld s = .next t ∧
      GroupStep (afterCommit s c) t c.cur.who.core c.cur.who.gslot g' ∧
      g' = { c.g with region := none, splits := g'.splits } ∧
      (splitAt g' c.cur.who.entry).arch = { c.p.arch with pc := c.cur.next } ∧
      (∀ e < 4, e ≠ c.cur.who.entry → splitAt g' e = splitAt c.g e) ∧
      ∀ l < 32, (∃ e < 4, e ≠ c.cur.who.entry ∧ (splitAt c.g e).arch.state = .ready ∧
          (splitAt c.g e).arch.mask.getLsbD l = true) →
        ∃ m, (splitAt g' c.cur.who.entry).yielded = some (s.clk.toNat, m) ∧ m.getLsbD l = true) ∧
    (∀ before q, c.g.parked = before ++ [q] → ∃ t g', exec .yld s = .next t ∧
      groupAt t c.cur.who.core c.cur.who.gslot = some g' ∧
      (q.arch.state = .ready → (splitAt g' c.cur.who.entry).arch = q.arch))

/-! ## Memory: terms -/

namespace Sys2Proof

/-- R255: the address of a lane's access. -/
def laneAddr (c : Ctx) (p : Pfx) (a : Src) (l : Nat) : Nat := (srcVal c true a l + memOffset p).toNat

/-- R254: the data registers of an access are held, and its address registers are held and carry integers. -/
structure Reaches (c : Ctx) (o : Opnds) (data addr : Nat) : Prop where
  heldD : heldSpan c.g o.d data = true
  heldA : heldSpan c.g o.a addr = true
  tags : addrTags c o.a addr = true

/-- R255, R379, R489: the accesses of the lanes of M, of n bytes, are aligned and permitted, and none needs a slice under
test; that of lane l goes to place l. -/
structure Permitted (s : State) (c : Ctx) (M : Mask) (addr : Nat → Nat) (n : Nat) (needW reads : Bool)
    (place : Nat → Place) : Prop where
  aligned : ∀ l < 32, M.getLsbD l = true → addr l % n = 0
  allowed : ∀ l < 32, M.getLsbD l = true → placeOf s c (addr l) n needW reads = .ok (place l)
  quiet : ∀ l < 32, M.getLsbD l = true → ∀ pa gpa, place l = .here pa gpa → sliceBusy s pa = false

/-- The accesses of the lanes of M, in ascending order. -/
def accesses (M : Mask) (addr : Nat → Nat) (place : Nat → Place) : List LaneAt :=
  (lanesIn M).map fun l => ⟨l, addr l, place l⟩

/-- The place lies at a peer. -/
def atPeer (x : Place) : Bool :=
  match x with
  | .peer _ _ _ => true
  | .here _ _ => false
  | .soft => false

/-- The local address of a place. -/
def placePa (x : Place) : Option Nat :=
  match x with
  | .here pa _ => some pa
  | .peer _ _ _ => none
  | .soft => none

/-- No CXL slot is being left (R447). -/
def NoneLeaving (s : State) : Prop := ∀ pa, cxlLeaving s pa = false

/-- R262: what a load reads at a place: 0 where the access fails. -/
def loaded (s : State) (n : Nat) (x : Place) : Nat :=
  match placePa x with
  | some pa => readNat s pa n
  | none => 0

/-- R258, R259: a load has written the values v of n bytes to regs registers from d up, in the lanes of M, with tag t. -/
structure LoadWritten (c : Ctx) (d : Src) (M : Mask) (regs n : Nat) (t : Tag) (v : Nat → Nat) (g' : Group) : Prop where
  lanes : ∀ r, d = .reg r → ∀ k < regs, tagOf g' (r + k) = t ∧ ∀ l < 32, M.getLsbD l = true →
    laneGet (vreg g' (r + k)).lane l =
      if n < 4 ∧ t = 1#6 then (BitVec.ofNat (8 * n) (v l)).signExtend 32 else BitVec.ofNat 32 (v l / 2 ^ (32 * k))
  otherLanes : ∀ r, d = .reg r → ∀ k < regs, ∀ l < 32, M.getLsbD l = false →
    laneGet (vreg g' (r + k)).lane l = if tagOf c.g (r + k) = t then laneGet (vreg c.g (r + k)).lane l else 0
  otherRegs : ∀ m, (∀ r, d = .reg r → m < r ∨ r + regs ≤ m) → vreg g' m = vreg c.g m

/-- R262: residency predicate k has been set in the lanes of F; no other predicate bit has changed. -/
def ResidSet (c : Ctx) (k : Nat) (F : Nat → Bool) (g' : Group) : Prop :=
  ∀ q < 8, ∀ l < 32, (vget g'.q q 0).getLsbD l = ((vget c.g.q q 0).getLsbD l || (q == k && F l))

/-- R257: the bytes of memory that the lanes of M stored, n from pa l up each, the highest lane's where two meet; every
other byte reads as it did. A retired frame (R493) takes no byte. -/
structure Stored (before after : State) (M : Mask) (n : Nat) (pa : Nat → Option Nat) (v : Nat → Nat) : Prop where
  others : ∀ a, (∀ l < 32, M.getLsbD l = true → ∀ b, pa l = some b → a < b ∨ b + n ≤ a) →
    cellAt after.mem a = cellAt before.mem a
  bytes : ∀ l < 32, M.getLsbD l = true → ∀ b, pa l = some b → ∀ i < n, inRetired before (b + i) = false →
    (∀ k < 32, l < k → M.getLsbD k = true → ∀ b', pa k = some b' → b + i < b' ∨ b' + n ≤ b + i) →
    cellAt after.mem (b + i) = BitVec.ofNat 8 (v l / 256 ^ i)

/-- The group of the issuing slot is g' in t, every other group is as in base, and the issuing split has gone on. -/
structure Retired (base t : State) (c : Ctx) (g' : Group) : Prop where
  group : groupAt t c.cur.who.core c.cur.who.gslot = some g'
  others : ∀ k j, ¬(k = c.cur.who.core ∧ j = c.cur.who.gslot) → groupAt t k j = groupAt base k j
  split : FellThrough c g'

/-- R258: what a store takes from a lane: its registers' words, the lowest first, or a constant, cut to the width. -/
def StoreValue (c : Ctx) (d : Src) (wid : BitVec 3) (v : Nat → Nat) : Prop :=
  ∀ l < 32,
    (∀ r, d = .reg r → v l = ((List.range (widRegs wid)).map fun k =>
      (laneGet (vreg c.g (r + k)).lane l).toNat * 2 ^ (32 * k)).sum % 2 ^ (8 * widBytes wid)) ∧
    ((∀ r, d ≠ .reg r) → v l = (srcVal c false d l).toNat % 2 ^ (8 * widBytes wid))

/-- An open region of the group that cannot take the entries commits first (R268). -/
def MustCommit (s : State) (c : Ctx) (entries : List RegionEntry) : Prop :=
  ∃ r, c.g.region = some r ∧ commitReady s c.g = true ∧
    64 < ((s.groups.filter fun g => g.core == c.g.core && g.gslot != c.g.gslot).map fun g =>
      match g.region with
      | some x => regionLines x.buf
      | none => 0).sum + regionLines (r.buf ++ entries)

/-- The stores of an instruction are performed at once: no region is open, or the open one commits first. -/
def AtOnce (s : State) (c : Ctx) (entries : List RegionEntry) : Prop := c.g.region = none ∨ MustCommit s c entries

/-- The stores of an instruction enter the open region r. -/
def HeldBack (s : State) (c : Ctx) (r : Region) (entries : List RegionEntry) : Prop :=
  c.g.region = some r ∧
    ((s.groups.filter fun g => g.core == c.g.core && g.gslot != c.g.gslot).map fun g =>
      match g.region with
      | some x => regionLines x.buf
      | none => 0).sum + regionLines (r.buf ++ entries) ≤ 64

/-- Each lane's store, as the instruction makes it. -/
def laneStores (c : Ctx) (o : Opnds) (w : MemW) (xs : List LaneAt) : List LaneSt :=
  xs.map fun x => ⟨BitVec.ofNat 32 (2 ^ x.lane), x.va, x.place, bytesOfNat (widBytes w.wid) (storeValue c o.d w.wid x.lane)⟩

/-- The entries a list of stores of an order (R141) makes in a region. -/
def storeEntries (p : Pfx) (ord : BitVec 4) (xs : List LaneSt) : List RegionEntry :=
  xs.filterMap (regionEntry (BitVec.ofNat 3 (residQ p.operand.x)) ord)

/-- R328, R330, R333, R339, R340: stores of an order can be performed in s: what they release has been; the
write-combining buffer has room for those that go to peers, no load of the group there is out, and no multicast line of
the team on its way covers their bytes. -/
structure CanStore (s : State) (c : Ctx) (ord : BitVec 4) (xs : List LaneSt) : Prop where
  released : releaseReady s c.g ord.toNat = true
  room : storeRoom s c xs = true
  loads : xs.any LaneSt.remote = true → loadsOut s c.g = false
  flights : storeFlight s c xs = false

/-- The lanes of a stage access, in ascending order. -/
def stageLanes (M : Mask) (place : Nat → Nat × Nat × Nat) : List StageLane :=
  (lanesIn M).map fun l => ⟨l, (place l).1, (place l).2.1, (place l).2.2⟩

/-- Byte i of a store to a peer stands in its line of the remote write-combining buffer (R339). -/
def InLine (t : State) (c : Ctx) (dev : BitVec 14) (win : BitVec 12) (off : Nat) (b : Byte) : Prop :=
  ∃ r, t.rwc.find? (RwcLine.isFor c.g.core c.g.gid c.g.team dev win (off / 256)) = some r ∧
    rwcByte r (off % 256) = some b

/-- A byte of a stage bank (R56). -/
def stageByte (s : State) (gid team bank off : Nat) : Option Byte := (stageBank s gid team bank).map (bankByte · off)

/-- R56, R260, R322: lane l's stage access of n bytes is aligned, and reaches byte off of a bank that is in the mode given
and neither switches nor is under test; what it reads is not poisoned. -/
structure StageReach (s : State) (c : Ctx) (M : Mask) (at' : Nat → Int) (n : Nat) (mode : BitVec 2)
    (place : Nat → Nat × Nat × Nat) : Prop where
  inside : ∀ l < 32, M.getLsbD l = true → 0 ≤ at' l ∧ at' l % (n : Int) = 0 ∧
    stageAt s c.g.gid c.g.team (at' l).toNat = some (place l)
  bank : ∀ l < 32, M.getLsbD l = true → ∃ b, stageBank s c.g.gid (place l).1 (place l).2.1 = some b ∧ b.mode = mode ∧
    b.target = none ∧ underTest s (bankBlock s c.g.gid (place l).1 b) = false ∧ b.bad = []

end Sys2Proof

/-! ## Memory: statements -/

/-- R254, R255, R258, R259, R262: ld of local memory completes: it gives each active lane the bytes at its address; a
lane whose page is not resident gets 0 and its residency predicate bit; nothing else changes but a TLB, no byte of
memory above all. -/
def Sys2Proof.Claims.LoadsPerLane : Prop :=
  ∀ (w : MemW) (s : State) (c : Ctx) (p : Pfx) (f : WordF) (o : Opnds) (place : Nat → Place),
    let M := activeMask c p.operand f.guard
    let n := widBytes w.wid
    Issuing s c → Names (.ld w) s c p f o → widTag w.wid (loadTag p) = true → Reaches c o (widRegs w.wid) 2 →
    Permitted s c M (laneAddr c p o.a) n false true place → NoneLeaving s →
    (∀ l < 32, M.getLsbD l = true → atPeer (place l) = false) →
    ∃ g', AccessOnly (.ld w) s c g' ∧ FellThrough c g' ∧
      LoadWritten c o.d M (widRegs w.wid) n (loadTag p) (fun l => loaded s n (place l)) g' ∧
      ResidSet c (residQ p.operand.x) (fun l => M.getLsbD l && place l == .soft) g' ∧
      g' = { c.g with v := g'.v, q := g'.q, splits := g'.splits }

/-- R256, R386: ld of a peer window completes: it sends a request for each lane there, and changes no memory here; it
waits for a multicast line of its team that covers its bytes (R328), and for room in the channels. -/
def Sys2Proof.Claims.LoadsFromPeers : Prop :=
  ∀ (w : MemW) (s : State) (c : Ctx) (p : Pfx) (f : WordF) (o : Opnds) (place : Nat → Place),
    let M := activeMask c p.operand f.guard
    let n := widBytes w.wid
    let xs := accesses M (laneAddr c p o.a) place
    Issuing s c → Names (.ld w) s c p f o → widTag w.wid (loadTag p) = true → Reaches c o (widRegs w.wid) 2 →
    Permitted s c M (laneAddr c p o.a) n false true place → NoneLeaving s →
    requestRoom s c xs (linesHit s c xs n) = true → flightHit s c xs n = false →
    ∃ t g', exec (.ld w) s = .next t ∧ Retired s t c g' ∧ t.mem = s.mem ∧
      ∀ l < 32, M.getLsbD l = true → ∀ dev win off, place l = .peer dev win off →
        ∃ q ∈ t.reqs, q.kind = .load c.g.core c.g.gslot (regNumber o.d) l n (loadTag p)
            (BitVec.ofNat 3 (residQ p.operand.x)) ∧
          q.packet.opcode = opRD ∧ q.packet.dst = dev ∧ q.packet.win = win ∧ q.packet.off = BitVec.ofNat 38 off ∧
          q.packet.len = BitVec.ofNat 16 n ∧ q.packet ∈ t.outbox

/-- R261: ldu completes: it loads one value, zero-extended, to a scalar register; a page that is not resident gives 0
and sets the residency predicate in every lane of the split; of a peer window it sends one request. -/
def Sys2Proof.Claims.ScalarLoads : Prop :=
  ∀ (w : MemS) (s : State) (c : Ctx) (p : Pfx) (f : WordF) (o : Opnds) (place : Place),
    let n := widBytes w.wid
    let va := (srcS s c f.a + memOffset p).toNat
    Issuing s c → Names (.ldu w) s c p f o → c.mask ≠ 0 → va % n = 0 → placeOf s c va n false true = .ok place →
    NoneLeaving s →
    (∀ pa gpa, place = .here pa gpa → sliceBusy s pa = false →
      ∃ t, exec (.ldu w) s = .next t ∧ ScalarLeaves { s with tlb := t.tlb } t c f.d (BitVec.ofNat 64 (readNat s pa n))) ∧
    (place = .soft → ∃ t g', exec (.ldu w) s = .next t ∧ Retired s t c g' ∧ t.mem = s.mem ∧
      (f.d.toNat < 64 → vget g'.s f.d.toNat 0 = 0) ∧
      ResidSet c (residQ p.operand.x) (fun l => c.mask.getLsbD l) g' ∧ g'.v = c.g.v) ∧
    (∀ dev win off, place = .peer dev win off →
      let xs := [⟨lowestLane c.mask, va, place⟩]
      requestRoom s c xs (linesHit s c xs n) = true → flightHit s c xs n = false →
      ∃ t g', exec (.ldu w) s = .next t ∧ Retired s t c g' ∧ t.mem = s.mem ∧
        ∃ q ∈ t.reqs, q.kind = .loadS c.g.core c.g.gslot f.d.toNat n c.mask (BitVec.ofNat 3 (residQ p.operand.x)) ∧
          q.packet.opcode = opRD ∧ q.packet.dst = dev ∧ q.packet.win = win ∧ q.packet.off = BitVec.ofNat 38 off)

/-- R257, R258, R262, R263, R339: st completes: it stores each active lane's bytes at its address, in ascending lane
order, or at a peer in its write-combining line; no other byte of memory changes; a tick is on its way where memory
here was written. -/
def Sys2Proof.Claims.StoresPerLane : Prop :=
  ∀ (w : MemW) (s : State) (c : Ctx) (p : Pfx) (f : WordF) (o : Opnds) (place : Nat → Place),
    let M := activeMask c p.operand f.guard
    let n := widBytes w.wid
    let xs := laneStores c o w (accesses M (laneAddr c p o.a) place)
    Issuing s c → Names (.st w) s c p f o → Reaches c o (widRegs w.wid) 2 →
    Permitted s c M (laneAddr c p o.a) n true false place → NoneLeaving s →
    AtOnce s c (storeEntries p w.ord xs) → CanStore (afterCommit s c) (committedCtx c) w.ord xs →
    ∃ t g', exec (.st w) s = .next t ∧ Retired (afterCommit s c) t c g' ∧
      (∃ v, StoreValue c o.d w.wid v ∧ Stored (afterCommit s c) t M n (fun l => placePa (place l)) v ∧
        ∀ l < 32, M.getLsbD l = true → ∀ dev win off, place l = .peer dev win off → ∀ i < n,
          (∀ k < 32, l < k → M.getLsbD k = true → ∀ off', place k = .peer dev win off' →
            off + i < off' ∨ off' + n ≤ off + i) →
          off / 256 = (off + i) / 256 → InLine t c dev win (off + i) (BitVec.ofNat 8 (v l / 256 ^ i))) ∧
      ((∃ l < 32, M.getLsbD l = true ∧ (placePa (place l)).isSome = true) →
        ∃ x ∈ t.ticks, x.core = c.g.core ∧ x.gslot = c.g.gslot) ∧
      ResidSet c (residQ p.operand.x) (fun l => M.getLsbD l && place l == .soft) g' ∧
      g' = { c.g with q := g'.q, splits := g'.splits, region := none } ∧
      t = { afterCommit s c with
        groups := t.groups, mem := t.mem, poison := t.poison, reported := t.reported, rwc := t.rwc, ticks := t.ticks
        tlb := t.tlb, freeCtr := t.freeCtr }

/-- R328, R330, R333, R339, R340: a st that cannot be performed yet waits: its split stands as it stood, after the
commit of its region, and no byte of memory changes; the device goes on. -/
def Sys2Proof.Claims.StoresWait : Prop :=
  ∀ (w : MemW) (s : State) (c : Ctx) (p : Pfx) (f : WordF) (o : Opnds) (place : Nat → Place),
    let M := activeMask c p.operand f.guard
    let xs := laneStores c o w (accesses M (laneAddr c p o.a) place)
    Issuing s c → Names (.st w) s c p f o → Reaches c o (widRegs w.wid) 2 →
    Permitted s c M (laneAddr c p o.a) (widBytes w.wid) true false place → AtOnce s c (storeEntries p w.ord xs) →
    ¬CanStore (afterCommit s c) (committedCtx c) w.ord xs →
    ∃ t g', exec (.st w) s = .next t ∧ groupAt t c.cur.who.core c.cur.who.gslot = some g' ∧
      (splitAt g' c.cur.who.entry).arch = c.p.arch ∧ t.mem = (afterCommit s c).mem

/-- R261, R257: stu completes: it stores the low bytes of a scalar register once. -/
def Sys2Proof.Claims.ScalarStores : Prop :=
  ∀ (w : MemS) (s : State) (c : Ctx) (p : Pfx) (f : WordF) (o : Opnds) (place : Place),
    let n := widBytes w.wid
    let va := (srcS s c f.a + memOffset p).toNat
    let xs : List LaneSt := [⟨c.mask, va, place, bytesOfNat n (srcS s c f.d).toNat⟩]
    Issuing s c → Names (.stu w) s c p f o → c.mask ≠ 0 → va % n = 0 → placeOf s c va n true false = .ok place →
    NoneLeaving s → (∀ pa gpa, place = .here pa gpa → sliceBusy s pa = false) →
    AtOnce s c (storeEntries p w.ord xs) → CanStore (afterCommit s c) (committedCtx c) w.ord xs →
    ∃ t g', exec (.stu w) s = .next t ∧ Retired (afterCommit s c) t c g' ∧
      (∀ a, (∀ pa, placePa place = some pa → a < pa ∨ pa + n ≤ a) →
        cellAt t.mem a = cellAt (afterCommit s c).mem a) ∧
      (∀ pa, placePa place = some pa → ∀ i < n, inRetired s (pa + i) = false →
        cellAt t.mem (pa + i) = BitVec.ofNat 8 ((srcS s c f.d).toNat / 256 ^ i)) ∧
      (∀ dev win off, place = .peer dev win off → ∀ i < n, off / 256 = (off + i) / 256 →
        InLine t c dev win (off + i) (BitVec.ofNat 8 ((srcS s c f.d).toNat / 256 ^ i))) ∧
      ResidSet c (residQ p.operand.x) (fun l => c.mask.getLsbD l && place == .soft) g' ∧
      g' = { c.g with q := g'.q, splits := g'.splits, region := none } ∧
      t = { afterCommit s c with
        groups := t.groups, mem := t.mem, poison := t.poison, reported := t.reported, rwc := t.rwc, ticks := t.ticks
        tlb := t.tlb, freeCtr := t.freeCtr }

/-- R268: while a region is open and has room, st, stu and sts complete and their stores are held back: memory and every
stage bank are as they were, and the region holds the store's accesses after the earlier ones. -/
def Sys2Proof.Claims.StoresHeldInRegion : Prop :=
  (∀ (w : MemW) (s : State) (c : Ctx) (p : Pfx) (f : WordF) (o : Opnds) (place : Nat → Place) (r : Region),
    let M := activeMask c p.operand f.guard
    let n := widBytes w.wid
    let entries := storeEntries p w.ord (laneStores c o w (accesses M (laneAddr c p o.a) place))
    Issuing s c → Names (.st w) s c p f o → Reaches c o (widRegs w.wid) 2 →
    Permitted s c M (laneAddr c p o.a) n true false place → NoneLeaving s → HeldBack s c r entries →
    ∃ g', AccessOnly (.st w) s c g' ∧ FellThrough c g' ∧ g'.region = some { r with buf := r.buf ++ entries } ∧
      g'.v = c.g.v ∧ ResidSet c (residQ p.operand.x) (fun l => M.getLsbD l && place l == .soft) g') ∧
  (∀ (w : MemS) (s : State) (c : Ctx) (p : Pfx) (f : WordF) (o : Opnds) (place : Place) (r : Region),
    let n := widBytes w.wid
    let va := (srcS s c f.a + memOffset p).toNat
    let entries := storeEntries p w.ord [⟨c.mask, va, place, bytesOfNat n (srcS s c f.d).toNat⟩]
    Issuing s c → Names (.stu w) s c p f o → c.mask ≠ 0 → va % n = 0 → placeOf s c va n true false = .ok place →
    NoneLeaving s → (∀ pa gpa, place = .here pa gpa → sliceBusy s pa = false) → HeldBack s c r entries →
    ∃ g', AccessOnly (.stu w) s c g' ∧ FellThrough c g' ∧ g'.region = some { r with buf := r.buf ++ entries } ∧
      g'.v = c.g.v ∧ g'.s = c.g.s) ∧
  (∀ (w : MemW) (s : State) (c : Ctx) (p : Pfx) (f : WordF) (o : Opnds) (place : Nat → Nat × Nat × Nat) (r : Region),
    let M := activeMask c p.operand f.guard
    let n := widBytes w.wid
    let entries := (lanesIn M).map fun l =>
      RegionEntry.stage (place l).1 (place l).2.1 (place l).2.2 (bytesOfNat n (storeValue c o.d w.wid l))
        w.ord
    Issuing s c → Names (.sts w) s c p f o → Reaches c o (widRegs w.wid) 1 →
    StageReach s c M (stageOffset c p o.a) n 1#2 place → HeldBack s c r entries →
    ∃ g', OnlyGroup (.sts w) s c g' ∧ FellThrough c g' ∧ g'.region = some { r with buf := r.buf ++ entries } ∧
      g'.v = c.g.v)

/-- R56, R260, R263: lds and sts of scratch banks complete: lds reads, and sts writes, a bank as memory, in ascending
lane order, sts with a tick on its way; every other byte of every bank is as it was. -/
def Sys2Proof.Claims.StageScratchAccess : Prop :=
  (∀ (w : MemW) (s : State) (c : Ctx) (p : Pfx) (f : WordF) (o : Opnds) (place : Nat → Nat × Nat × Nat),
    let M := activeMask c p.operand f.guard
    let n := widBytes w.wid
    Issuing s c → Names (.lds w) s c p f o → widTag w.wid (loadTag p) = true → Reaches c o (widRegs w.wid) 1 →
    StageReach s c M (stageOffset c p o.a) n 1#2 place →
    ∃ g', OnlyGroup (.lds w) s c g' ∧ FellThrough c g' ∧
      (∃ v, LoadWritten c o.d M (widRegs w.wid) n (loadTag p) v g' ∧ ∀ l < 32, M.getLsbD l = true → ∀ b,
        stageBank s c.g.gid (place l).1 (place l).2.1 = some b → v l = natOfBytes (bankBytes b (place l).2.2 n)) ∧
      g' = { c.g with v := g'.v, splits := g'.splits }) ∧
  (∀ (w : MemW) (s : State) (c : Ctx) (p : Pfx) (f : WordF) (o : Opnds) (place : Nat → Nat × Nat × Nat),
    let M := activeMask c p.operand f.guard
    let n := widBytes w.wid
    Issuing s c → Names (.sts w) s c p f o → Reaches c o (widRegs w.wid) 1 → c.g.region = none →
    StageReach s c M (stageOffset c p o.a) n 1#2 place → releaseReady s c.g w.ord.toNat = true →
    ∃ t g', exec (.sts w) s = .next t ∧ Retired s t c g' ∧ g' = { c.g with splits := g'.splits } ∧
      t = { s with groups := t.groups, teams := t.teams, ticks := t.ticks, freeCtr := t.freeCtr } ∧
      (∃ x ∈ t.ticks, x.core = c.g.core ∧ x.gslot = c.g.gslot) ∧
      (∀ tm b y, (∀ l < 32, M.getLsbD l = true → ¬(place l = (tm, b, (place l).2.2) ∧
          ∃ i < n, y = ((place l).2.2 + i) % 65536)) →
        stageByte t c.g.gid tm b y = stageByte s c.g.gid tm b y) ∧
      ∃ v, StoreValue c o.d w.wid v ∧ ∀ l < 32, M.getLsbD l = true → ∀ i < n,
        (∀ k < 32, l < k → M.getLsbD k = true → ¬((place k).1 = (place l).1 ∧ (place k).2.1 = (place l).2.1 ∧
          ∃ j < n, ((place k).2.2 + j) % 65536 = ((place l).2.2 + i) % 65536)) →
        stageByte t c.g.gid (place l).1 (place l).2.1 (((place l).2.2 + i) % 65536) =
          some (BitVec.ofNat 8 (v l / 256 ^ i)))

/-- R323: lds and sts of a FIFO bank complete: lds takes the oldest bytes and sts appends, in ascending lane order,
once the bank holds, or has room for, the bytes of every lane, and no access of the group in the same direction that
issued earlier waits for it; until then the split waits. The group's region has committed. -/
def Sys2Proof.Claims.StageFifoAccess : Prop :=
  ∀ (w : MemW) (s : State) (c : Ctx) (p : Pfx) (f : WordF) (o : Opnds) (place : Nat → Nat × Nat × Nat) (tm i : Nat)
    (b : Bank),
    let M := activeMask c p.operand f.guard
    let n := widBytes w.wid
    let base := afterCommit s c
    let turn (push : Bool) := fifoTurn base (committedCtx c) (stageLanes M place) push
    Issuing s c → Reaches c o (widRegs w.wid) 1 → M ≠ 0 → commitReady s c.g = true →
    StageReach s c M (stageOffset c p o.a) n 2#2 place →
    (∀ l < 32, M.getLsbD l = true → (place l).1 = tm ∧ (place l).2.1 = i) → stageBank base c.g.gid tm i = some b →
    b.mode = 2#2 →
    (Names (.lds w) s c p f o → widTag w.wid (loadTag p) = true → n * (lanesIn M).length ≤ b.count →
      turn false = true →
      ∃ t g' v, exec (.lds w) s = .next t ∧ Retired base t c g' ∧
        LoadWritten c o.d M (widRegs w.wid) n (loadTag p) v g' ∧
        (∀ l < 32, M.getLsbD l = true →
          v l = natOfBytes (bankBytes b ((b.rd + n * ((lanesIn M).filter fun k => k < l).length) % 65536) n)) ∧
        stageBank t c.g.gid tm i = some { b with
          rd := (b.rd + n * (lanesIn M).length) % 65536, count := b.count - n * (lanesIn M).length }) ∧
    (Names (.lds w) s c p f o → widTag w.wid (loadTag p) = true →
      (b.count < n * (lanesIn M).length ∨ turn false = false) →
      ∃ t g', exec (.lds w) s = .next t ∧ groupAt t c.cur.who.core c.cur.who.gslot = some g' ∧
        (splitAt g' c.cur.who.entry).arch = { c.p.arch with pc := c.cur.pcf, state := .onEvent }) ∧
    (Names (.sts w) s c p f o → b.count + n * (lanesIn M).length ≤ 65536 → turn true = true →
      releaseReady base (committedCtx c).g w.ord.toNat = true →
      ∃ t g' b' v, exec (.sts w) s = .next t ∧ Retired base t c g' ∧ StoreValue c o.d w.wid v ∧
        stageBank t c.g.gid tm i = some b' ∧ b'.count = b.count + n * (lanesIn M).length ∧ b'.rd = b.rd ∧
        ∀ l < 32, M.getLsbD l = true → ∀ k < n,
          bankByte b' ((b.wr + n * ((lanesIn M).filter fun k => k < l).length + k) % 65536) =
            BitVec.ofNat 8 (v l / 256 ^ k)) ∧
    (Names (.sts w) s c p f o → (65536 < b.count + n * (lanesIn M).length ∨ turn true = false) →
      ∃ t g', exec (.sts w) s = .next t ∧ groupAt t c.cur.who.core c.cur.who.gslot = some g' ∧
        (splitAt g' c.cur.who.entry).arch = { c.p.arch with pc := c.cur.pcf, state := .onEvent })

/-! ## Atomics, reductions and synchronisation: terms -/

namespace Sys2Proof

/-- A row of R265: the instruction, its operation, and the new value, from whether I32 is compared, the bytes, the old
value, the operand and `cas`'s second operand. -/
structure AtmClaim where
  run : Instr
  op : AtmOp
  new : Bool → Nat → Nat → Nat → Nat → Nat

/-- The operations of R265. -/
def atmClaims (w : AtmW) : List AtmClaim :=
  [⟨.atmAdd w, .add, fun _ n x y _ => (x + y) % 2 ^ (8 * n)⟩,
   ⟨.atmMin w, .min, fun g n x y _ => if intOf g (8 * n) y < intOf g (8 * n) x then y else x⟩,
   ⟨.atmMax w, .max, fun g n x y _ => if intOf g (8 * n) x < intOf g (8 * n) y then y else x⟩,
   ⟨.atmAnd w, .and, fun _ _ x y _ => x &&& y⟩,
   ⟨.atmOr w, .or, fun _ _ x y _ => x ||| y⟩,
   ⟨.atmXor w, .xor, fun _ _ x y _ => x ^^^ y⟩,
   ⟨.atmXchg w, .xchg, fun _ _ _ y _ => y⟩,
   ⟨.atmCas w, .cas, fun _ _ x y z => if x = y then z else x⟩]

/-- Bytes of an atomic's access. -/
def atmBytes (w : AtmW) : Nat := if w.wide then 8 else 4

/-- Registers of an atomic's data. -/
def atmRegs (w : AtmW) : Nat := if w.wide then 2 else 1

/-- R254, R265: the registers of an atomic are held and carry what it accepts; k registers hold its data. -/
structure AtmUsable (c : Ctx) (o : Opnds) (w : AtmW) (op : AtmOp) (k : Nat) : Prop where
  names : atmOperand op w.wide o.c = true
  held : heldSpan c.g o.d (atmRegs w) = true ∧ heldSpan c.g o.a 2 = true ∧ heldSpan c.g o.c k = true
  tags : addrTags c o.a 2 = true ∧ atmTags c o.c k = true

/-- The data of a lane of an atomic. -/
def atmValue (c : Ctx) (w : AtmW) (x : Src) (l : Nat) : Nat := (srcVal c w.wide x l).toNat % 2 ^ (8 * atmBytes w)

/-- R269, R528: a descriptor that an instruction can read here. -/
structure DescHere (s : State) (c : Ctx) (va : Dword) (pa : Nat) : Prop where
  aligned : va.toNat % 64 = 0
  inside : va.toNat < 2 ^ 56
  reached : ∃ gpa, access s (coreTlb c.g.core) c.part c.g.gid va.toNat true false = .ok pa gpa
  free : sliceBusy s pa = false ∧ (∀ q ∈ s.redReqs, q.descPa ≠ pa) ∧ poisoned s pa 64 = false
  unasked : ∀ d ∈ s.descs, DescRead.isOf c.g.core c.g.gslot c.mask d = false

/-- The descriptor at a local address. -/
def descHere (s : State) (pa : Nat) : DescAt := ⟨pa, none, bytesAt s.mem pa 64⟩

/-- R273, R352: t is base with the fragments fs that are in range on their way to the core pairing buffer. -/
def SetOut (base t : State) (c : Ctx) (fs : List Frag) : Prop :=
  t.flights = base.flights ++ (fs.filter fun f => !f.orphan).map fun f =>
    ⟨.core, c.g.core, f, some (c.g.gslot, c.mask)⟩

/-- R278: every completion tick of the group has come back, and device time has passed hz. -/
def HzPassed (s : State) (c : Ctx) : Prop :=
  (∀ x ∈ s.ticks, ¬(x.core = c.g.core ∧ x.gslot = c.g.gslot)) ∧ c.g.hz.toNat < s.time.toNat

/-- R277, R278, R336: what a fence of a scope waits for in s is over; before tells that it orders earlier accesses on path X.
At scope f (4): the group's ticks and hz, and what the team has outstanding; below it: at scope d (3) the ticks and hz, and
at scopes c and d the group's accesses on path X where it orders them. -/
def FenceOver (s : State) (c : Ctx) (scope : BitVec 3) (before : Bool) : Prop :=
  if scope = 4#3 then HzPassed s c ∧ remoteQuiet s c.g.gid c.g.team = true
  else (scope = 3#3 → HzPassed s c) ∧ (2 ≤ scope.toNat → before = true → remoteOut s c.g = false)

/-- R238: the issuing split waits in state st, to issue the instruction again. -/
def Waits (i : Instr) (s : State) (c : Ctx) (st : SplitState) : Prop :=
  ∃ t g', exec i s = .next t ∧ groupAt t c.cur.who.core c.cur.who.gslot = some g' ∧
    (splitAt g' c.cur.who.entry).arch = { c.p.arch with pc := c.cur.pcf, state := st }

/-- R279: what a split of the group reports at a barrier. -/
def barWaiter (c : Ctx) (x : Dword) : BarWaiter := ⟨c.g.gid, c.g.team, c.g.grpid, c.mask, specAo x⟩

/-- The generation a participant meets at a barrier. -/
def generation (s : State) (i : BarInst) (x : Dword) : Barrier :=
  (barAt s i (specId x)).getD ⟨i, specId x, noSpec, [], [], [], []⟩

/-- The generation once the participant is in it. -/
def joined (s : State) (i : BarInst) (x : Dword) (w : BarWaiter) : Barrier :=
  let b := generation s i x
  countArrived s { b with spec := if b.spec = noSpec then specKey x else b.spec, waiting := b.waiting ++ [w] }

end Sys2Proof

/-! ## Atomics, reductions and synchronisation: statements -/

/-- R257, R262, R265, R266: atm.add, min, max, and, or, xor, xchg and cas of local memory complete: each active
lane's, in ascending lane order, returns the old value, which is what the lane below it at the same address left, and
leaves the new one; no other byte of memory changes. That two lanes' accesses are the same bytes or share none holds
of aligned accesses. -/
def Sys2Proof.Claims.AtomicsPerLane : Prop :=
  ∀ (w : AtmW) (s : State) (c : Ctx) (p : Pfx) (f : WordF) (o : Opnds) (place : Nat → Place), ∀ r ∈ atmClaims w,
    let M := activeMask c p.operand f.guard
    let n := atmBytes w
    let pa := fun l => placePa (place l)
    let sg := readTag c o.c == some 1
    Issuing s c → Names r.run s c p f o → AtmUsable c o w r.op (if r.op = .cas then 2 * atmRegs w else atmRegs w) →
    Permitted s c M (fun l => (srcVal c true o.a l).toNat) n true true place → NoneLeaving s →
    (∀ l < 32, M.getLsbD l = true → atPeer (place l) = false) →
    (∀ l k a b, pa l = some a → pa k = some b → a = b ∨ a + n ≤ b ∨ b + n ≤ a) →
    commitReady s c.g = true → releaseReady (afterCommit s c) (committedCtx c).g w.ord.toNat = true →
    ∃ t g' old, exec r.run s = .next t ∧ Retired (afterCommit s c) t c g' ∧
      (let new := fun l => r.new sg n (old l) (atmValue c w o.c l) (atmValue c w (afterC w.wide o.c) l)
       Stored (afterCommit s c) t M n pa new ∧
       (∀ l < 32, M.getLsbD l = true → ∀ a, pa l = some a →
         ((∀ k < l, M.getLsbD k = true → pa k ≠ some a) → old l = readNat (afterCommit s c) a n) ∧
         (∀ k < l, M.getLsbD k = true → pa k = some a → (∀ j < l, k < j → M.getLsbD j = true → pa j ≠ some a) →
           old l = new k))) ∧
      (∀ l < 32, M.getLsbD l = true → pa l = none → old l = 0) ∧
      LoadWritten c o.d M (atmRegs w) n ((readTag c o.c).getD 0) old g' ∧
      ResidSet c (residQ p.operand.x) (fun l => M.getLsbD l && place l == .soft) g' ∧
      g' = { c.g with v := g'.v, q := g'.q, splits := g'.splits, region := none }

/-- R266, R386, R427: atm.add, min, max, and, or, xor, xchg and cas of a peer window complete: they go there as one
request for each lane, with the operation, its operand and for cas the new value, and the team counts each as
outstanding, beside the lines that go before them; they wait for the group's loads there (R330) and for a multicast
line that covers their bytes (R328). -/
def Sys2Proof.Claims.AtomicsAtPeers : Prop :=
  ∀ (w : AtmW) (s : State) (c : Ctx) (p : Pfx) (f : WordF) (o : Opnds) (place : Nat → Place), ∀ r ∈ atmClaims w,
    let M := activeMask c p.operand f.guard
    let n := atmBytes w
    let base := afterCommit s c
    let sg := readTag c o.c == some 1
    let xs := accesses M (fun l => (srcVal c true o.a l).toNat) place
    Issuing s c → Names r.run s c p f o → AtmUsable c o w r.op (if r.op = .cas then 2 * atmRegs w else atmRegs w) →
    Permitted s c M (fun l => (srcVal c true o.a l).toNat) n true true place → NoneLeaving s →
    (∀ l < 32, M.getLsbD l = true → atPeer (place l) = true) →
    commitReady s c.g = true → releaseReady base (committedCtx c).g w.ord.toNat = true →
    requestRoom base (committedCtx c) xs (linesHit base (committedCtx c) xs n) = true →
    loadsOut base (committedCtx c).g = false → flightHit base (committedCtx c) xs n = false →
    ∃ t g', exec r.run s = .next t ∧ Retired base t c g' ∧ t.mem = base.mem ∧
      (∀ l < 32, M.getLsbD l = true → ∀ dev win off, place l = .peer dev win off →
        ∃ q ∈ t.reqs, q.packet.opcode = opATM ∧ q.packet.dst = dev ∧ q.packet.win = win ∧
          q.packet.off = BitVec.ofNat 38 off ∧ q.packet ∈ t.outbox ∧
          q.packet.cause = BitVec.ofNat 8 (r.op.code + (if w.wide then 8 else 0) +
            if sg = true ∧ (r.op = .min ∨ r.op = .max) then 16 else 0) ∧
          q.packet.payload = bytesOfNat 8 (atmValue c w o.c l) ++
            if r.op = .cas then bytesOfNat 8 (atmValue c w (afterC w.wide o.c) l) else []) ∧
      ∀ tm, teamOf base c.g.gid c.g.team = some tm → (teamOf t c.g.gid c.g.team).map (fun x => x.outstanding) =
        some (tm.outstanding + ((linesHit base (committedCtx c) xs n).length + (lanesIn M).length))

/-- R264, R373: pgreq completes: it asks once for each distinct page, as it is mapped, of an active lane's address
that is not resident; the split goes on. -/
def Sys2Proof.Claims.ResidencyRequests : Prop :=
  ∀ (pfx : Pfx) (guard : BitVec 2) (a : BitVec 7) (s : State) (c : Ctx) (p : Pfx) (f : WordF) (o : Opnds)
    (place : Nat → Place),
    let M := activeMask c p.operand f.guard
    let addr := fun l => (srcVal c true o.a l).toNat
    Issuing s c → Names (.pgreq pfx guard a) s c p f o → heldSpan c.g o.a 2 = true → addrTags c o.a 2 = true →
    Permitted s c M addr 1 false false place → NoneLeaving s → commitReady s c.g = true →
    ∃ t g', ∃ pages : List Nat, exec (.pgreq pfx guard a) s = .next t ∧ Retired (afterCommit s c) t c g' ∧
      g' = { c.g with splits := g'.splits, region := none } ∧ pages.Nodup ∧
      (∀ v, v ∈ pages ↔ ∃ l < 32, M.getLsbD l = true ∧ place l = .soft ∧
        v = pageBase s (coreTlb c.g.core) c.part c.g.gid (addr l)) ∧
      t.parts = (pages.foldl (fun s v => postRes s c.part 0 c.g.gid v) (afterCommit s c)).parts ∧
      t.mem = (pages.foldl (fun s v => postRes s c.part 0 c.g.gid v) (afterCommit s c)).mem

/-- R267, R268: rgn.begin and rgn.commit complete: rgn.begin, in a group of one live split, commits an open region and
opens one that restarts at itself; rgn.commit commits and closes it; where the commit cannot be completed yet they
wait, and the region is committing. -/
def Sys2Proof.Claims.RegionsOpenAndClose : Prop :=
  ∀ (pfx : Pfx) (s : State) (c : Ctx) (p : Pfx) (f : WordF) (o : Opnds), Issuing s c →
    (Names (.rgnBegin pfx) s c p f o → liveSplits c.g = 1 → commitReady s c.g = true →
      ∃ t g', exec (.rgnBegin pfx) s = .next t ∧
        GroupStep (afterCommit s c) t c.cur.who.core c.cur.who.gslot g' ∧ FellThrough c g' ∧
        g' = { c.g with splits := g'.splits, region := some ⟨c.cur.pcf, [], false⟩ }) ∧
    (Names (.rgnCommit pfx) s c p f o → commitReady s c.g = true →
      OnlySplit (.rgnCommit pfx) s (afterCommit s c) (committedCtx c) { c.p.arch with pc := c.cur.next }) ∧
    (∀ i, (i = .rgnBegin pfx ∧ liveSplits c.g = 1) ∨ i = .rgnCommit pfx → Names i s c p f o →
      commitReady s c.g = false → ∃ t g', exec i s = .next t ∧ t.mem = (afterCommit s c).mem ∧
        groupAt t c.cur.who.core c.cur.who.gslot = some g' ∧ g'.closing = true ∧
        (splitAt g' c.cur.who.entry).arch = c.p.arch)

/-- R268: while a group's region is committing, no instruction of the group goes on: each issue performs what it can
of the commit, and the split stands as it stood. -/
def Sys2Proof.Claims.CommittingRegionsGoFirst : Prop :=
  ∀ (i : Instr) (s : State) (c : Ctx), Standing s c → c.g.closing = true →
    ((coreView i).isSome = true ∨ ∃ w u, view i = .half w u) →
    exec i s = .next (stalled { commitRegion s c.g with freeCtr := s.freeCtr + 1024 } c)

/-- R268: a commit of local stores that release nothing, and of nodes in range, performs the buffered stores in order,
the last one to a byte standing, changes no other byte of memory, and sends the buffered nodes out; the region closes
once no node of the group is on its way to a buffer, and is committing until then. -/
def Sys2Proof.Claims.CommitPerformsTheBuffer : Prop :=
  ∀ (s : State) (c : Ctx) (r : Region), Issuing s c → c.g.region = some r →
    (∀ e ∈ r.buf, (∃ va fs, e = .node va fs ∧ ∀ f ∈ fs, f.orphan = false) ∨
      ∃ va gpa cells ord, e = .bytes va gpa cells ord ∧ ord.toNat ≠ 3 ∧ ord.toNat ≠ 4 ∧ ord.toNat ≠ 5) →
    groupAt (afterCommit s c) c.cur.who.core c.cur.who.gslot = some { c.g with
      region := if nodesOut (afterCommit s c) c.g.core c.g.gslot (BitVec.allOnes 32) then
        some { r with buf := [], closing := true } else none } ∧
    (commitReady s c.g = true ↔ nodesOut (afterCommit s c) c.g.core c.g.gslot (BitVec.allOnes 32) = false) ∧
    (∀ a, (∀ va gpa cells ord, .bytes va gpa cells ord ∈ r.buf → ∀ x ∈ cells, x.1 ≠ a) →
      cellAt (afterCommit s c).mem a = cellAt s.mem a) ∧
    (∀ before va gpa cells ord rest pre b post, r.buf = before ++ [.bytes va gpa cells ord] ++ rest →
      cells = pre ++ [b] ++ post → (∀ x ∈ post, x.1 ≠ b.1) →
      (∀ va' gpa' cells' ord', .bytes va' gpa' cells' ord' ∈ rest → ∀ x ∈ cells', x.1 ≠ b.1) → inRetired s b.1 = false →
      cellAt (afterCommit s c).mem b.1 = b.2) ∧
    (∀ va fs, .node va fs ∈ r.buf → ∀ f ∈ fs,
      ⟨.core, c.g.core, f, some (c.g.gslot, BitVec.allOnes 32)⟩ ∈ (afterCommit s c).flights)

/-- R102, R103, R271 to R273: ctrb and red.null complete: ctrb sends one node for each active lane, of its value,
level and index; red.null sends null nodes; a node out of range is not sent, and the split stalls until those on their
way have entered a buffer. Where a region is open and has room, the nodes are held in it. -/
def Obligations.Contributions : Prop :=
  ∀ (s : State) (c : Ctx) (p : Pfx) (f : WordF) (o : Opnds) (pa : Nat), Issuing s c →
    let M := activeMask c p.operand f.guard
    let D := descHere s pa
    (∀ pfx guard d a b, Names (.ctrb pfx guard d a b) s c p f o → ∀ t, (readTag c o.d).getD 0 = t →
      oddPair (isF64 t) o.d = false → heldSpan c.g o.d (if isF64 t then 2 else 1) = true →
      heldSpan c.g o.a 1 = true → addrTags c o.a 1 = true → brokenPair c false o.d = false → redFormat t = true →
      DescHere s c (srcS s c b) pa →
      let fs := (lanesIn M).map fun l =>
        valueFrag (fragOfDesc s c D p.operand.x.toNat ((srcVal c false o.a l).toNat % 2 ^ 32)) t
          ((srcVal c (isF64 t) o.d l).toNat % 2 ^ ewidth t)
      let entry := RegionEntry.node ((srcS s c b).toNat / 256) fs
      (M = 0 → AccessSplit (.ctrb pfx guard d a b) s c { c.p.arch with pc := c.cur.next }) ∧
      (M ≠ 0 → AtOnce s c [entry] →
        ∃ t g', exec (.ctrb pfx guard d a b) s = .next t ∧ Retired (afterCommit s c) t c g' ∧
          SetOut (afterCommit s c) t c fs ∧ g' = { c.g with splits := g'.splits, region := none }) ∧
      (∀ r, M ≠ 0 → HeldBack s c r [entry] → ∃ g', AccessOnly (.ctrb pfx guard d a b) s c g' ∧ FellThrough c g' ∧
        g'.region = some { r with buf := r.buf ++ [entry] })) ∧
    (∀ pfx guard d a, Names (.redNull pfx guard d a) s c p f o → heldSpan c.g o.d 1 = true →
      (readTag c o.d).getD 0 = 0 → DescHere s c (srcS s c a) pa →
      let fs := (lanesIn M).flatMap fun l =>
        nullFrags (fragOfDesc s c D p.operand.x.toNat ((srcVal c false o.d l).toNat % 2 ^ 32))
      let entry := RegionEntry.node ((srcS s c a).toNat / 256) fs
      (fs = [] → AccessSplit (.redNull pfx guard d a) s c { c.p.arch with pc := c.cur.next }) ∧
      (fs ≠ [] → AtOnce s c [entry] →
        ∃ t g', exec (.redNull pfx guard d a) s = .next t ∧ Retired (afterCommit s c) t c g' ∧
          SetOut (afterCommit s c) t c fs ∧ g' = { c.g with splits := g'.splits, region := none }) ∧
      (∀ r, fs ≠ [] → HeldBack s c r [entry] → ∃ g', AccessOnly (.redNull pfx guard d a) s c g' ∧ FellThrough c g' ∧
        g'.region = some { r with buf := r.buf ++ [entry] }))

/-- R271, R528: red.init and red.query complete: red.init sends the descriptor to its home slice; red.query reads its
bytes 0x20 to 0x27. -/
def Obligations.ReductionObjects : Prop :=
  ∀ (s : State) (c : Ctx) (p : Pfx) (f : WordF) (o : Opnds) (pa : Nat), Issuing s c →
    (∀ pfx a dest, Names (.redInit pfx a) s c p f o → DescHere s c (srcS s c a) pa →
      destLines (keepTlb s (coreTlb c.g.core) c.part c.g.gid [(srcS s c a).toNat]) c (read64 s (pa + 16)).toNat
        (if (read64 s pa).getLsbD 14 then 16 * redBytes ((read64 s pa).extractLsb' 8 6) else 1) = .ok dest →
      ∃ t g', exec (.redInit pfx a) s = .next t ∧ Retired s t c g' ∧ g' = { c.g with splits := g'.splits } ∧
        t = { s with
          groups := t.groups, tlb := t.tlb, freeCtr := t.freeCtr, redReqs := s.redReqs ++ [⟨c.part, pa, dest, c.g.gid⟩] }) ∧
    (∀ pfx d a, Names (.redQuery pfx d a) s c p f o → DescHere s c (srcS s c a) pa →
      ∃ t, exec (.redQuery pfx d a) s = .next t ∧
        ScalarLeaves { s with tlb := t.tlb } t c d (read64 s (pa + 0x20)))

/-- R275, R328, R330, R456: mst, from a split of all lanes, completes: it sends its line of 256 bytes, byte 8L + k
being byte k of lane L's pair, to one device of each member's group, under the multicast group's number, and counts
one outstanding access of the team where a member is left to answer; it waits while its group has loads on path X out
or an access at the line's bytes on its way. -/
def Obligations.MulticastStores : Prop :=
  ∀ (pfx : Pfx) (d a b : BitVec 7) (s : State) (c : Ctx) (p : Pfx) (f : WordF) (o : Opnds) (g : McGroup) (off : Nat),
    let base := afterCommit s c
    Issuing s c → Names (.mst pfx d a b) s c p f o → heldSpan c.g o.d 2 = true → c.mask = BitVec.allOnes 32 →
    off = (srcS s c a).toNat → off % 256 = 0 → (srcS s c b).toNat < 4096 → mcGroup s (srcS s c b).toNat = some g →
    g.part = c.part → off < g.size → commitReady s c.g = true → base.mcFlights = [] →
    (∀ x ∈ mcTargets g, chanRoom base x (BitVec.ofNat 2 (classOfGrid base c.g.gid)) 1 = true) →
    (∃ m ∈ g.members, groupPresent base m.1 = true) → launchWaits base (committedCtx c) g off = false →
    ∃ t g' sent, exec (.mst pfx d a b) s = .next t ∧ Retired base t c g' ∧
      g' = { c.g with splits := g'.splits, region := none } ∧ t.mem = base.mem ∧ sent.length = 256 ∧
      (∀ l < 32, ∀ k < 8, sent[8 * l + k]? = some ((srcVal c true o.d l).extractLsb' (8 * k) 8)) ∧
      (∀ x ∈ mcTargets g, groupPresent base x = true → ∃ q ∈ t.outbox, q.opcode = opMST ∧ q.dst = x ∧
        q.win = BitVec.ofNat 12 g.group ∧ q.off = BitVec.ofNat 38 off ∧ q.len = 256 ∧ q.payload = sent) ∧
      (∀ tm, teamOf base c.g.gid c.g.team = some tm →
        (teamOf t c.g.gid c.g.team).map (fun x => x.outstanding) = some (tm.outstanding + 1))

/-- R277, R278, R333, R336, R340: fence and fencex complete once what they wait for is over, after the commit of the
group's region; at scope f they return the team's remote failures and zero the count; until then the split waits to
issue the fence again. -/
def Sys2Proof.Claims.Fences : Prop :=
  ∀ (s : State) (c : Ctx) (p : Pfx) (f : WordF) (o : Opnds) (scope : BitVec 3) (a : BitVec 7) (i : Instr) (before : Bool),
    let base := afterCommit s c
    let zeroed := fun t : Team => { t with remoteFailures := 0 }
    Issuing s c → commitReady s c.g = true → Names i s c p f o →
    ((before = true ∧ ∃ pfx, i = .fence pfx scope a) ∨ ∃ pfx p2 p1, i = .fencex pfx p2 p1 scope a ∧ before = (p1 == 4#3)) →
    (scope ≠ 4#3 → FenceOver base (committedCtx c) scope before →
      OnlySplit i s base (committedCtx c) { c.p.arch with pc := c.cur.next }) ∧
    (scope = 4#3 → FenceOver base (committedCtx c) scope before →
      ∀ tm, teamOf base c.g.gid c.g.team = some tm → ∃ t, exec i s = .next t ∧
        ScalarLeaves (modTeam base c.g.gid c.g.team zeroed) t (committedCtx c) a tm.remoteFailures) ∧
    (¬FenceOver base (committedCtx c) scope before → Waits i s c .onEvent)

/-- R278, R325: fence.s completes: it empties the core's operand cache of the partition's tiles, and of no other's. -/
def Sys2Proof.Claims.StreamFence : Prop :=
  ∀ (pfx : Pfx) (s : State) (c : Ctx) (p : Pfx) (f : WordF) (o : Opnds), Issuing s c → commitReady s c.g = true →
    Names (.fenceS pfx) s c p f o →
    ∃ t g', exec (.fenceS pfx) s = .next t ∧ Retired (afterCommit s c) t c g' ∧
      g' = { c.g with splits := g'.splits, region := none } ∧
      ∀ x, x ∈ t.opCache ↔ x ∈ (afterCommit s c).opCache ∧ ¬(x.core = c.g.core ∧ x.part = c.part)

/-- R249, R269, R279, R280: bar completes: a split that reaches a barrier it may join commits its group's region,
reports its lanes' sticky flags to the grid and clears them, and arrives: it goes on where it arrives only, and waits
past the instruction otherwise. One that has arrived in the generation already waits to be counted in the next. -/
def Sys2Proof.Claims.ArrivingAtBarriers : Prop :=
  ∀ (pfx : Pfx) (spec : Bool) (scope : BitVec 3) (a : BitVec 7) (s : State) (c : Ctx) (p : Pfx) (f : WordF) (o : Opnds),
    let x := if spec then srcS s c a else 0
    let i := barInst s scope.toNat c.g.gid c.g.team c.g.grpid
    Issuing s c → Names (.bar pfx spec scope a) s c p f o → commitReady s c.g = true → specOk scope.toNat x = true →
    barLoose s c.g.gid scope x = false →
    (∀ gr, gridOf (afterCommit s c) c.g.gid = some gr → reportTraps gr (stickyOr c.g c.mask) = false) →
    (∀ b, barAt s i (specId x) = some b → arrivedAlready b (barWaiter c x) = true →
      ∃ t g', exec (.bar pfx spec scope a) s = .next t ∧ groupAt t c.cur.who.core c.cur.who.gslot = some g' ∧
        (splitAt g' c.cur.who.entry).arch = { c.p.arch with pc := c.cur.pcf, state := .atBarrier } ∧
        barAt t i (specId x) = some { b with next := b.next ++ [(c.cur.next, barWaiter c x, x)] }) ∧
    ((∀ b, barAt s i (specId x) = some b → arrivedAlready b (barWaiter c x) = false ∧
      (b.spec = noSpec ∨ b.spec = specKey x)) →
    ∃ u t g' n, exec (.bar pfx spec scope a) s = .next t ∧ t = { arriveBar u i x (barWaiter c x) with freeCtr := n } ∧
      groupAt u c.cur.who.core c.cur.who.gslot = some g' ∧
      u = { afterCommit s c with groups := u.groups, grids := u.grids } ∧
      (∀ gr, gridOf (afterCommit s c) c.g.gid = some gr →
        gridOf u c.g.gid = some { gr with sticky := gr.sticky ||| stickyOr c.g c.mask }) ∧
      (splitAt g' c.cur.who.entry).arch = { c.p.arch with
        pc := c.cur.next, state := if specAo x then c.p.arch.state else .atBarrier } ∧
      (∀ l < 32, vget g'.lst l 0 = if c.mask.getLsbD l then 0 else vget c.g.lst l 0) ∧
      g' = { c.g with lst := g'.lst, splits := g'.splits, region := none })

/-- R280: a barrier generation that is not yet complete keeps its participants; one that is complete ends, and its
waiting splits, and no others, become Ready. -/
def Sys2Proof.Claims.BarriersComplete : Prop :=
  ∀ (s : State) (i : BarInst) (x : Dword) (w : BarWaiter),
    let b := joined s i x w
    (barComplete s b = false →
      barAt (arriveBar s i x w) i (specId x) = some b ∧ (arriveBar s i x w).groups = s.groups) ∧
    (barComplete s b = true → specHier b.spec = false → b.next = [] → b.held = [] →
      barAt (arriveBar s i x w) i (specId x) = none ∧
      ∀ core gslot g, groupAt s core gslot = some g → ∃ g', groupAt (arriveBar s i x w) core gslot = some g' ∧
        ∀ e < 4, (splitAt g' e).arch = if (splitAt g e).arch.state = .atBarrier ∧ ∃ v ∈ b.waiting, v.ao = false ∧
            v.gid = g.gid ∧ v.team = g.team ∧ v.grpid = g.grpid ∧ (splitAt g e).arch.mask &&& v.lanes ≠ 0
          then { (splitAt g e).arch with state := .ready } else (splitAt g e).arch) ∧
    (specCount b.spec ≠ 0 → b.spec ≠ noSpec → instSaved s i = false →
      (barComplete s b = true ↔ specCount b.spec ≤ b.arrived.length))

/-! ## Engine instructions: terms -/

namespace Sys2Proof

/-- R290, R291: a split of all lanes, whose team has room in its engine queue and whose region can commit. -/
structure QueueOpen (s : State) (c : Ctx) : Prop where
  lanes : c.mask = BitVec.allOnes 32
  commits : commitReady s c.g = true
  room : (s.cmds.filter fun k => k.gid == c.g.gid && k.team == c.g.team && k.phase == .queued).length < 64

/-- R310: a guard slot that was never set. -/
def slotZero : GuardSlot := ⟨0, 0, 0, 0, 0, false, 0, 0, 0, 0⟩

/-- R306, R310: the completion tag of a guard slot. -/
def slotTag (t : Team) (guard : Option Nat) : Option Nat :=
  guard.bind fun n => if (vget t.g n slotZero).den then some (vget t.g n slotZero).dtag.toNat else none

/-- R291, R306, R310: the instruction completes with the command op in its team's engine queue under the guard slot given:
the slot's count is one more, the tags the command names are 1, and the team's accumulators are what accs makes of them;
nothing else of the device changes but a TLB (R383). -/
def EntersQueue (i : Instr) (s : State) (c : Ctx) (guard : Option Nat) (op : CmdOp) (accs : List Acc → List Acc) : Prop :=
  ∃ t g' k, exec i s = .next t ∧ Retired (afterCommit s c) t c g' ∧
    g' = { c.g with splits := g'.splits, region := none } ∧
    t.cmds = (afterCommit s c).cmds ++ [k] ∧ k.core = c.g.core ∧ k.gid = c.g.gid ∧ k.team = c.g.team ∧
    k.part = c.part ∧ k.op = op ∧ k.guard = guard ∧ k.phase = .queued ∧
    (∀ tm, teamOf (afterCommit s c) c.g.gid c.g.team = some tm → ∃ tm', teamOf t c.g.gid c.g.team = some tm' ∧
      tm'.accs = accs tm.accs ∧
      (∀ n < 8, vget tm'.g n slotZero = { vget tm.g n slotZero with
        issued := (vget tm.g n slotZero).issued + (if guard = some n then 1 else 0) }) ∧
      (∀ n < 64, tm'.tags.getLsbD n = (tm.tags.getLsbD n || op.tag == some n || slotTag tm guard == some n)) ∧
      tm' = { tm with accs := tm'.accs, g := tm'.g, tags := tm'.tags }) ∧
    t = { afterCommit s c with
      groups := t.groups, teams := t.teams, cmds := t.cmds, nextCid := t.nextCid, tlb := t.tlb, freeCtr := t.freeCtr }

/-- The accumulator n changed by f. -/
def accChange (n : Nat) (f : Acc → Acc) (as : List Acc) : List Acc := as.map fun a => if a.num = n then f a else a

/-- R302: the accumulator n, and the odd one of its FP64 pair, changed by f. -/
def pairChange (n : Nat) (pair : Bool) (f : Acc → Acc) (as : List Acc) : List Acc :=
  accChange n f (if pair then accChange (n + 1) f as else as)

/-- R292: no command of the issuing team that names accumulator n is left: then what an instruction makes of NV, OF, fault and
the absent bits at issue is made of them at once; else they follow in the accumulator's order (log 74). -/
def Idle (s : State) (c : Ctx) (n : Nat) : Bool :=
  (s.cmds.filter fun k => k.gid == c.g.gid && k.team == c.g.team && k.op.accs.contains n).isEmpty

/-- The accumulator n of the issuing team is x. -/
def Bound (s : State) (c : Ctx) (n : Nat) (x : Acc) : Prop := ∃ tm, teamOf s c.g.gid c.g.team = some tm ∧ accOf tm n = some x

/-- R111, R296: the block j of level base inserted into the run of x: the control state it leaves and the count before. -/
def Inserted (x : Acc) (j base : Nat) (run : Tag) (ctl : Dword) (cnt : Nat) : Prop :=
  (accBase x.ctl = 0 ∧ ctl = mkCtl 1 false base j (run == 3) ∧ cnt = 0) ∨
  (accBase x.ctl ≠ 0 ∧ accBase x.ctl = base ∧ accFolded x.ctl = false ∧ j = accM x.ctl + accC x.ctl ∧ x.fmt = run ∧
    accC x.ctl ≠ accSpan (accM x.ctl) ∧ ctl = mkCtl (accC x.ctl + 1) false base (accM x.ctl) (run == 3) ∧
    cnt = accC x.ctl)

/-- R295, R296: the accumulators after an insert at issue. -/
def insertChange (n : Nat) (run : Tag) (ctl : Dword) (as : List Acc) : List Acc :=
  accChange n (fun a => { a with ctl := ctl, fmt := run })
    (if run = 3 then accChange (n + 1) (fun a => { a with ctl := setBits ctl 54 1 0, fmt := run }) as else as)

/-- R306: the copies, with their kinds. -/
def copies (pfx : Pfx) (d a : BitVec 7) : List (Instr × BitVec 3) :=
  [(.cpyLoad pfx d a, 0), (.cpyStore pfx d a, 1), (.cpyGather pfx d a, 2), (.cpyScatter pfx d a, 3),
   (.cpyFill pfx d a, 4), (.cpyL2pf pfx d a, 5), (.cpyXfer pfx d a, 6)]

/-- R40, R315: the scalar register of code d holds v in t: an s register of the group g', or a w register of its team, on
its way. -/
structure Returned (base t : State) (c : Ctx) (d : BitVec 7) (v : Dword) (g' : Group) : Prop where
  s : ∀ n < 64, vget g'.s n 0 = if n = d.toNat then v else vget c.g.s n 0
  w : 64 ≤ d.toNat → d.toNat < 80 → ∀ tm, teamOf base c.g.gid c.g.team = some tm →
    ∃ tm', teamOf t c.g.gid c.g.team = some tm' ∧ tm'.w = (writeW base c.g.gslot (d.toNat - 64) v tm).w ∧
      tm'.wq = (writeW base c.g.gslot (d.toNat - 64) v tm).wq

/-- R316: a completion word. -/
def CompletionOf (g : Grid) (v : Dword) : Prop :=
  v.extractLsb' 0 2 = g.outcome ∧ v.extractLsb' 2 5 = g.sticky ∧ v.getLsbD 7 = g.cfail ∧ v.extractLsb' 8 8 = g.cause ∧
    v.extractLsb' 16 48 = 0

/-- R309: the tags of a team that are 1. -/
def tagsNow (s : State) (c : Ctx) : Dword := ((teamOf s c.g.gid c.g.team).map fun t => t.tags).getD 0

end Sys2Proof

/-! ## Engine instructions: statements -/

/-- R289 to R291, R306, R314: cpy.load, store, gather, scatter, fill, l2pf and xfer, eng.plan and eng.lnt complete:
they put their command, with the s registers read at issue, into the team's engine queue. -/
def Sys2Proof.Claims.CopiesAndPlansQueue : Prop :=
  ∀ (s : State) (c : Ctx) (p : Pfx) (f : WordF) (o : Opnds), Issuing s c → QueueOpen s c →
    (∀ pfx d a, ∀ r ∈ copies pfx d a, Names r.1 s c p f o → tagInRange s c d.toNat = true →
      EntersQueue r.1 s c (guardOf p)
        (.cpy r.2 d.toNat (quadS c a 0) (quadS c a 1) (quadS c a 2) (quadS c a 3)) id) ∧
    (∀ pfx a, Names (.engPlan pfx a) s c p f o →
      EntersQueue (.engPlan pfx a) s c (guardOf p) (.plan (srcS (afterCommit s c) (committedCtx c) a)) id) ∧
    (∀ pfx a, Names (.engLnt pfx a) s c p f o → bits (srcS s c a) 10 6 = 0 →
      EntersQueue (.engLnt pfx a) s c (guardOf p) (.lnt (srcS s c a)) id)

/-- R295, R296: mmt and tcon complete: they insert their block into the accumulator's run at issue and queue their
command. -/
def Obligations.MatrixInserts : Prop :=
  ∀ (s : State) (c : Ctx) (p : Pfx) (f : WordF) (o : Opnds) (pfx : Pfx) (d a : BitVec 7) (x : Acc) (ctl : Dword)
    (k0 cnt : Nat) (run : Tag),
    Issuing s c → QueueOpen s c → Bound s c d.toNat x →
    k0 = bits (quadS c a 3) 0 34 → run = (quadS c a 3).extractLsb' 58 6 → bits (quadS c a 3) 34 24 = 0 →
    (run = 3 → d.toNat % 2 = 0 ∧ ∃ y, Bound s c (d.toNat + 1) y) →
    (quadS c a 0).toNat % 64 = 0 → (quadS c a 1).toNat % 64 = 0 →
    (Names (.mmt pfx d a) s c p f o → k0 % 64 = 0 → 1 ≤ run.toNat → run.toNat ≤ 3 → Inserted x (k0 / 64) 6 run ctl cnt →
      EntersQueue (.mmt pfx d a) s c (guardOf p)
        (.mmt d.toNat (quadS c a 0) (quadS c a 1) (quadS c a 2) k0 run cnt) (insertChange d.toNat run ctl)) ∧
    (Names (.tcon pfx d a) s c p f o → k0 % 8 = 0 → 2 ≤ run.toNat → run.toNat ≤ 3 → bits (quadS c a 2) 0 2 ≠ 3 →
      bits (quadS c a 2) 2 6 = 0 → bits (quadS c a 2) 32 32 = 0 → Inserted x (k0 / 8) 3 run ctl cnt →
      EntersQueue (.tcon pfx d a) s c (guardOf p)
        (.tcon d.toNat (quadS c a 0) (quadS c a 1) (quadS c a 2) k0 run cnt) (insertChange d.toNat run ctl))

/-- R302, R304, R305: acc.zero, fold, store, ctrb and load complete: they change the control state as marked at issue,
for an FP64 pair both, and with no command of the accumulator left NV, OF, fault and the absent bits with it, and
queue their command. -/
def Sys2Proof.Claims.AccumulatorCommands : Prop :=
  ∀ (s : State) (c : Ctx) (p : Pfx) (f : WordF) (o : Opnds) (pfx : Pfx) (d a : BitVec 7) (x : Acc),
    let n := d.toNat
    Issuing s c → QueueOpen s c → Bound s c n x →
    (Names (.accZero pfx d) s c p f o →
      EntersQueue (.accZero pfx d) s c (guardOf p) (.accZero n) (accChange n fun a =>
        if Idle s c n then { a with ctl := 0, fmt := 0, nv := false, of := false, fault := false, absent := 0 }
        else { a with ctl := 0, fmt := 0 })) ∧
    (Names (.accFold pfx d) s c p f o → x.oddOfRun = false →
      EntersQueue (.accFold pfx d) s c (guardOf p) (.accFold n x.ctl x.fmt x.evenOfRun)
        (pairChange n x.evenOfRun fun a => { a with ctl := setBits a.ctl 17 1 1 })) ∧
    (Names (.accStore pfx d a) s c p f o → x.oddOfRun = false → bits (srcS s c a) 1 7 = 0 →
      ((srcS s c a).getLsbD 0 = true ∨ accFolded x.ctl = true) → (x.evenOfRun = true → ∃ y, Bound s c (n + 1) y) →
      EntersQueue (.accStore pfx d a) s c (guardOf p) (.accStore n (srcS s c a) x.ctl x.fmt x.evenOfRun) id) ∧
    (∀ pa, Names (.accCtrb pfx d a) s c p f o → x.oddOfRun = false → accFolded x.ctl = false →
      DescHere (afterCommit s c) (committedCtx c) (srcS s c a) pa →
      EntersQueue (.accCtrb pfx d a) s c (guardOf p)
        (.accCtrb n (fragOfDesc (afterCommit s c) c (descHere (afterCommit s c) pa) 0 0)
          (if Idle s c n then x.control else x.ctl) x.fmt x.evenOfRun)
        (pairChange n x.evenOfRun fun a =>
          if Idle s c a.num then { a with ctl := 0, nv := false, of := false } else { a with ctl := 0 })) ∧
    (∀ pa, let w := srcS s c a
      let h := imageHead (bytesAt (afterCommit s c).mem pa 64)
      Names (.accLoad pfx d a) s c p f o → w.getLsbD 0 = true → bits w 1 7 = 0 →
      issuePa (afterCommit s c) (committedCtx c) (w.toNat / 256 * 256) 64 false = .ok pa → h.ok = true →
      (accPair h.ctl = true → n % 2 = 0 ∧ ∃ y, Bound s c (n + 1) y) →
      EntersQueue (.accLoad pfx d a) s c (guardOf p)
        (.accLoad n (BitVec.ofNat 64 (w.toNat / 256 * 256)) h.ctl h.aux (accPair h.ctl))
        (fun as =>
          let states (a : Acc) : Acc :=
            if Idle s c a.num then
              { a with
                nv := h.ctl.getLsbD 52, of := h.ctl.getLsbD 53, fault := h.aux.getLsbD 6
                absent := h.aux.extractLsb' 16 16 }
            else a
          accChange n (fun a => { states a with ctl := setBits h.ctl 52 2 0, fmt := h.aux.setWidth 6 })
            (if accPair h.ctl then
              accChange (n + 1) (fun a => { states a with ctl := setBits h.ctl2 52 2 0, fmt := h.aux2.setWidth 6 }) as
            else as)))

/-- R303: acc.bind completes: it gives the team an accumulator that nobody holds, of its partition's share, cleared;
one it already holds stays as it is. -/
def Sys2Proof.Claims.BindingAccumulators : Prop :=
  ∀ (d : BitVec 7) (s : State) (c : Ctx) (p : Pfx) (f : WordF) (o : Opnds) (tm : Team),
    let n := d.toNat
    Issuing s c → Names (.accBind d) s c p f o → c.mask = BitVec.allOnes 32 → commitReady s c.g = true →
    teamOf s c.g.gid c.g.team = some tm →
    ((∃ x, accOf tm n = some x) → OnlySplit (.accBind d) s (afterCommit s c) (committedCtx c)
      { c.p.arch with pc := c.cur.next }) ∧
    (∀ gr, gridOf s c.g.gid = some gr → tm.accs.length < gr.record.accs → accOf tm n = none →
      (∀ x ∈ s.teams, x.core = c.g.core → x.phase ≠ .saved → accOf x n = none) →
      bits (pregs s c.part).pacc 0 4 ≤ n → n < bits (pregs s c.part).pacc 0 4 + bits (pregs s c.part).pacc 4 5 →
      ∃ t g' tm', exec (.accBind d) s = .next t ∧ Retired (afterCommit s c) t c g' ∧
        teamOf t c.g.gid c.g.team = some tm' ∧ accOf tm' n = some (Acc.cleared n) ∧
        (∀ m, m ≠ n → accOf tm' m = accOf tm m) ∧ (Acc.cleared n).ctl = 0 ∧ (Acc.cleared n).fmt = 0 ∧
        (∀ k < 16, ∀ e < 4096, vget (vget (Acc.cleared n).words k (Vector.replicate 4096 1)) e 1 = 0))

/-- R291: while the team's engine queue is full, an engine instruction's split waits and issues it again. -/
def Sys2Proof.Claims.FullQueueWaits : Prop :=
  ∀ (s : State) (c : Ctx) (p : Pfx) (f : WordF) (o : Opnds), Issuing s c → c.mask = BitVec.allOnes 32 →
    commitReady s c.g = true →
    64 ≤ (s.cmds.filter fun k => k.gid == c.g.gid && k.team == c.g.team && k.phase == .queued).length →
    (∀ pfx d a, ∀ r ∈ copies pfx d a, Names r.1 s c p f o → tagInRange s c d.toNat = true →
      Waits r.1 s c .onEvent) ∧
    (∀ pfx a, Names (.engPlan pfx a) s c p f o → Waits (.engPlan pfx a) s c .onEvent) ∧
    (∀ pfx d x, Names (.accZero pfx d) s c p f o → Bound s c d.toNat x → Waits (.accZero pfx d) s c .onEvent)

/-- R309: wtg.any, all, first and test complete: wtg.any and wtg.first go on once some tag of the mask is 0 or the
mask is empty, wtg.all once every one is; first returns the lowest such tag, or 64; test returns the tags that are 1
without a wait. Until then the split waits. -/
def Sys2Proof.Claims.WaitingOnTags : Prop :=
  ∀ (s : State) (c : Ctx) (p : Pfx) (f : WordF) (o : Opnds) (d a : BitVec 7),
    let base := afterCommit s c
    let m := srcS s c a
    let one := tagsNow s c
    Issuing s c → commitReady s c.g = true → (∀ n < 64, m.getLsbD n = true → tagInRange s c n = true) →
    (Names (.wtgAny a) s c p f o →
      ((m = 0 ∨ ∃ n < 64, m.getLsbD n = true ∧ one.getLsbD n = false) →
        OnlySplit (.wtgAny a) s base (committedCtx c) { c.p.arch with pc := c.cur.next }) ∧
      (m ≠ 0 → (∀ n < 64, m.getLsbD n = true → one.getLsbD n = true) → Waits (.wtgAny a) s c .onEvent)) ∧
    (Names (.wtgAll a) s c p f o →
      ((∀ n < 64, m.getLsbD n = true → one.getLsbD n = false) →
        OnlySplit (.wtgAll a) s base (committedCtx c) { c.p.arch with pc := c.cur.next }) ∧
      (∀ n < 64, m.getLsbD n = true → one.getLsbD n = true → Waits (.wtgAll a) s c .onEvent)) ∧
    (Names (.wtgFirst d a) s c p f o →
      (m = 0 → ∃ t, exec (.wtgFirst d a) s = .next t ∧ ScalarLeaves base t (committedCtx c) d 64) ∧
      (∀ n < 64, m.getLsbD n = true → one.getLsbD n = false → (∀ k < n, m.getLsbD k = true → one.getLsbD k = true) →
        ∃ t, exec (.wtgFirst d a) s = .next t ∧ ScalarLeaves base t (committedCtx c) d (BitVec.ofNat 64 n)) ∧
      (m ≠ 0 → (∀ n < 64, m.getLsbD n = true → one.getLsbD n = true) → Waits (.wtgFirst d a) s c .onEvent)) ∧
    (Names (.wtgTest d a) s c p f o →
      ∃ t, exec (.wtgTest d a) s = .next t ∧ ScalarLeaves base t (committedCtx c) d (m &&& one))

/-- R310, R311: eng.gset completes: it waits until the slot's commands have completed; then, in one step, the image at
its address is the slot's, with counts and failures zero, and the former contents stand there. -/
def Sys2Proof.Claims.SettingGuardSlots : Prop :=
  ∀ (a : BitVec 7) (s : State) (c : Ctx) (p : Pfx) (f : WordF) (o : Opnds) (tm : Team) (pa : Nat),
    let w := srcS s c a
    let n := bits w 0 3
    let old := vget tm.g n slotZero
    let base := afterCommit s c
    let img := fun k => (read64 base (pa + 8 * k)).toNat
    Issuing s c → Names (.engGset a) s c p f o → c.mask = BitVec.allOnes 32 → commitReady s c.g = true →
    bits w 3 3 = 0 → issuePa base (committedCtx c) (w.toNat / 64 * 64) 64 true = .ok pa → teamOf s c.g.gid c.g.team = some tm →
    (old.issued ≠ old.done → Waits (.engGset a) s c .onEvent) ∧
    (old.issued = old.done → guardImageOk base (committedCtx c) (bytesAt base.mem pa 64) = true →
      ∃ t g' tm', exec (.engGset a) s = .next t ∧ Retired base t c g' ∧ teamOf t c.g.gid c.g.team = some tm' ∧
        vget tm'.g n slotZero = ⟨read64 base pa, read64 base (pa + 8), read64 base (pa + 16), BitVec.ofNat 2 (img 3),
          BitVec.ofNat 6 (img 3 / 256), (img 3).testBit 14, 0, 0, 0, 0⟩ ∧
        (∀ m < 8, m ≠ n → vget tm'.g m slotZero = vget tm.g m slotZero) ∧
        (∀ x, x < pa ∨ pa + 64 ≤ x → cellAt t.mem x = cellAt base.mem x) ∧
        (inRetired s pa = false → pa % 64 = 0 → read64 t pa = old.wmask ∧ read64 t (pa + 8) = old.faddr ∧
          read64 t (pa + 16) = old.fval ∧
          (read64 t (pa + 24)).toNat = old.fcond.toNat + 2 ^ 8 * old.dtag.toNat + (if old.den then 2 ^ 14 else 0) ∧
          (read64 t (pa + 32)).toNat = old.issued.toNat + 2 ^ 32 * old.done.toNat ∧
          (read64 t (pa + 40)).toNat = old.fcause.toNat + 2 ^ 8 * old.fcount.toNat))

/-- R315, R333: eng.launch completes: a launch that is accepted returns its handle and stands among the launches, held
back while a guard slot holds its command, once the group's accesses on path X have been performed; one that is
refused returns 2^63 + its code. -/
def Sys2Proof.Claims.DeviceLaunches : Prop :=
  ∀ (pfx : Pfx) (d a : BitVec 7) (s : State) (c : Ctx) (p : Pfx) (f : WordF) (o : Opnds),
    let base := afterCommit s c
    let va := (srcS s c a).toNat
    let h := BitVec.ofNat 64 ((psched s c.part).nextHandle + 1)
    Issuing s c → Names (.engLaunch pfx d a) s c p f o → QueueOpen s c → va % 128 = 0 → va < 2 ^ 56 → c.part < 12 →
    (∀ r, launchOutcome base (committedCtx c) va = .ok (.accepted r) → remoteOut base (committedCtx c).g = true →
      ∃ t g', exec (.engLaunch pfx d a) s = .next t ∧ groupAt t c.cur.who.core c.cur.who.gslot = some g' ∧
        (splitAt g' c.cur.who.entry).arch = c.p.arch ∧ t.grids = base.grids) ∧
    (∀ r, launchOutcome base (committedCtx c) va = .ok (.accepted r) → remoteOut base (committedCtx c).g = false →
      ∃ t g' gr, exec (.engLaunch pfx d a) s = .next t ∧ Retired base t c g' ∧ Returned base t c d h g' ∧
        g' = { c.g with s := g'.s, splits := g'.splits, region := none } ∧
        gr ∈ t.grids ∧ gr.handle = h ∧ gr.part = c.part ∧ gr.record = r ∧ gr.phase = .pending ∧ gr.fromDevice = true ∧
        gr.held = (guardOf p).isSome ∧ (psched t c.part).nextHandle = (psched s c.part).nextHandle + 1 ∧
        (∀ x, gridOf base c.g.gid = some x → gridOf t c.g.gid = some { x with children := x.children ++ [h] }) ∧
        (guardOf p = none → t.cmds = base.cmds) ∧
        (∀ n, guardOf p = some n →
          ∃ k, t.cmds = base.cmds ++ [k] ∧ k.op = .launch h ∧ k.guard = some n ∧ k.phase = .queued)) ∧
    (∀ code, launchOutcome base (committedCtx c) va = .ok (.refused code none) →
      ∃ t, exec (.engLaunch pfx d a) s = .next t ∧
        ScalarLeaves { base with tlb := t.tlb } t (committedCtx c) d (BitVec.ofNat 64 (2 ^ 63 + code))) ∧
    (∀ page, launchOutcome base (committedCtx c) va = .ok (.refused 5 (some page)) →
      ∃ t g', exec (.engLaunch pfx d a) s = .next t ∧ Retired base t c g' ∧
        Returned base t c d (BitVec.ofNat 64 (2 ^ 63 + 5)) g' ∧ t.grids = base.grids ∧
        t.parts = (postRes base c.part 3 c.g.gid page).parts)

/-- R315, R378: eng.launch reads its record and its argument block page by page, and one page that is not resident is
the one it asks for. -/
def Sys2Proof.Claims.LaunchReadsPages : Prop :=
  ∀ (s : State) (c : Ctx) (a n k : Nat), k = 4096 - a % 4096 →
    (∀ pa, n ≤ k → issuePa s c a n false = .ok pa → launchRead s c a n = .ok (.bytes (bytesAt s.mem pa n))) ∧
    (∀ pa pb, k < n → issuePa s c a k false = .ok pa → issuePa s c (a + k) (n - k) false = .ok pb →
      launchRead s c a n = .ok (.bytes (bytesAt s.mem pa k ++ bytesAt s.mem pb (n - k)))) ∧
    (a < 2 ^ 56 → access s (coreTlb c.g.core) c.part c.g.gid a false false = .nonresident →
      launchRead s c a n = .ok (.absent a)) ∧
    (∀ pa, k < n → issuePa s c a k false = .ok pa → a + k < 2 ^ 56 →
      access s (coreTlb c.g.core) c.part c.g.gid (a + k) false false = .nonresident →
      launchRead s c a n = .ok (.absent (a + k)))

/-- R315: which launches are refused, in this order: an absent record, a spent quota, a malformed record or argument
block, with an absent argument block before its contents, a feature the device lacks, a dependence that the grid was
never given; any other is accepted. -/
def Sys2Proof.Claims.LaunchRefusals : Prop :=
  ∀ (s : State) (c : Ctx) (va : Nat),
    (∀ page, launchRead s c va 128 = .ok (.absent page) → launchOutcome s c va = .ok (.refused 5 (some page))) ∧
    (∀ bs, launchRead s c va 128 = .ok (.bytes bs) →
      let n := recordArgc bs
      (launchFull s c = true → launchOutcome s c va = .ok (.refused 1 none)) ∧
      (launchFull s c = false → recordBad s c.part bs = true → launchOutcome s c va = .ok (.refused 2 none)) ∧
      (launchFull s c = false → recordBad s c.part bs = false → n ≠ 0 →
        ∀ page, launchRead s c (recordArgs bs) (16 * n) = .ok (.absent page) →
          launchOutcome s c va = .ok (.refused 5 (some page))) ∧
      (launchFull s c = false → recordBad s c.part bs = false →
        ∀ ab, ((n = 0 ∧ ab = []) ∨ (n ≠ 0 ∧ launchRead s c (recordArgs bs) (16 * n) = .ok (.bytes ab))) →
        (argsOf ab n = none → launchOutcome s c va = .ok (.refused 2 none)) ∧
        (∀ args, argsOf ab n = some args →
          (featuresOk (recordOf bs).fmask = false → launchOutcome s c va = .ok (.refused 3 none)) ∧
          (featuresOk (recordOf bs).fmask = true →
            ((∃ h ∈ (recordOf bs).deps, h ∉ grantedHandles s c.g.gid) →
              launchOutcome s c va = .ok (.refused 4 none)) ∧
            ((∀ h ∈ (recordOf bs).deps, h ∈ grantedHandles s c.g.gid) →
              launchOutcome s c va = .ok (.accepted { recordOf bs with args := args }))))))

/-- R316: eng.waitl completes: it returns the completion word of a launch that has ended, and waits for one that has
not. -/
def Sys2Proof.Claims.WaitingOnLaunches : Prop :=
  ∀ (d a : BitVec 7) (s : State) (c : Ctx) (p : Pfx) (f : WordF) (o : Opnds) (g : Grid),
    Issuing s c → Names (.engWaitl d a) s c p f o → c.mask = BitVec.allOnes 32 → commitReady s c.g = true →
    srcS s c a ∈ grantedHandles s c.g.gid → gridByHandle s c.part (srcS s c a) = some g →
    (g.phase = .ended → ∃ t v, exec (.engWaitl d a) s = .next t ∧ CompletionOf g v ∧
      ScalarLeaves (afterCommit s c) t (committedCtx c) d v) ∧
    (g.phase ≠ .ended → Waits (.engWaitl d a) s c .onEvent)

/-! ## System operations and traps: terms -/

namespace Sys2Proof

/-- R63, R269: the instruction raises the precise trap x. -/
def Traps (i : Instr) (s : State) (c : Ctx) (x : Trp) : Prop :=
  ∃ t n, exec i s = .next t ∧ t = { enterTrap s c.cur x with freeCtr := n }

/-- R247: a trap of a cause without more to tell. -/
def plainTrap (cause : Nat) (lanes : Mask) : Trp := ⟨cause, 0, 0, lanes, false, [], []⟩

/-- R245, R381: the state before a trap's entry: its error-queue entries and residency requests are posted. -/
def trapPosted (s : State) (c : Ctx) (x : Trp) : State :=
  dropDesc (x.posts.foldl (fun s y => postRes s c.part y.1 c.g.gid y.2)
    (keepTlb (errParts s c.part x.errs) (coreTlb c.g.core) c.part c.g.gid (x.posts.map Prod.snd))) c

/-- R245, R269: the state in which the entry is made: the open region has committed. -/
def trapBase (s : State) (c : Ctx) (x : Trp) : State := commitRegion (trapPosted s c x) c.g

/-- R245: the address of the issuing split's trap frame. -/
def frameAt (c : Ctx) : Nat := (vget c.g.s 55 0).toNat + 64 * lowestLane c.mask

/-- R245: the split can enter its handler: the grid has one that is fetchable, the link stack has room, and the frame can be
written at pa. -/
structure Enters (s : State) (c : Ctx) (gr : Grid) (pa : Nat) : Prop where
  grid : gridOf s c.g.gid = some gr
  handler : gr.record.handler ≠ 0
  room : c.p.arch.link.length < 4
  fetch : fetchable s (coreTlb c.g.core) c.part c.g.gid gr.record.handler.toNat = true
  aligned : frameAt c % 64 = 0
  writable : writablePa s (coreTlb c.g.core) c.part c.g.gid (frameAt c) = some pa

/-- R245: t is base with the trap x entered: the frame at pa, the split at the handler with the return on its link stack; no
other byte of memory, register or split has changed. -/
structure TrapEntered (base t : State) (c : Ctx) (x : Trp) (handler : Dword) (pa : Nat) : Prop where
  group : ∃ g', groupAt t c.cur.who.core c.cur.who.gslot = some g' ∧
    (splitAt g' c.cur.who.entry).arch = { c.p.arch with
      pc := handler
      link := c.p.arch.link ++ [(if x.after then c.cur.next else c.cur.pcf) ||| 0x8000_0000_0000_0001#64] } ∧
    (∀ e, e ≠ c.cur.who.entry → splitAt g' e = splitAt c.g e) ∧
    (∀ l < 32, vget g'.lst l 0 = if x.cause = 8 ∧ x.lanes.getLsbD l = true then 0 else vget c.g.lst l 0) ∧
    g' = { c.g with lst := g'.lst, splits := g'.splits, region := none }
  otherGroups : ∀ k j, ¬(k = c.cur.who.core ∧ j = c.cur.who.gslot) → groupAt t k j = groupAt base k j
  frame : inRetired base pa = false → pa % 64 = 0 →
    (read64 t pa).toNat = x.cause + 256 * (x.n % 128) ∧ read64 t (pa + 8) = c.cur.pcf ∧
    read64 t (pa + 16) = (if x.after then c.cur.next else c.cur.pcf) ∧ (read64 t (pa + 24)).toNat = x.info % 2 ^ 64 ∧
    (read64 t (pa + 32)).toNat = c.mask.toNat + 2 ^ 32 * x.lanes.toNat ∧
    (∀ b < 64, (read64 t (pa + 40)).getLsbD b = true ↔
      ∃ l < 32, x.lanes.getLsbD l = true ∧ (vget c.g.lst l 0).getLsbD b = true) ∧
    read64 t (pa + 48) = base.time ∧ read64 t (pa + 56) = 0
  memory : ∀ a, a < pa ∨ pa + 64 ≤ a → cellAt t.mem a = cellAt base.mem a
  grids : t.grids = base.grids

/-- R398: the grid has failed with a cause: its groups are gone, and it has ended, or ends once its accesses are over. -/
def GridFailed (t : State) (gid cause : Nat) : Prop :=
  (∃ gr, gridOf t gid = some gr ∧ (gr.phase = .ended ∨ (gr.phase = .ending ∧ gridQuiet t gid = false)) ∧
    gr.outcome = 1 ∧ gr.cause = BitVec.ofNat 8 cause) ∧
  ∀ g ∈ t.groups, g.gid ≠ gid

/-- R43 to R48: what sys.movsr reads for a code, the cluster rectangle being w by h cores. -/
def specials (s : State) (c : Ctx) (w h : Nat) : List (Nat × Nat) :=
  [(80, c.g.grpid), (81, 4 * c.g.gslot + c.cur.who.entry), (82, c.g.team),
   (83, c.g.team % (w * h) % w + 16 * (c.g.team % (w * h) / w)), (84, w + 16 * h), (85, c.g.gid % 2 ^ 32),
   (86, s.devid.toNat), (87, c.g.ctl.toNat), (88, Config.capml.toNat), (89, Config.capmh.toNat), (91, c.g.hz.toNat),
   (92, s.time.toNat), (93, c.mask.toNat), (94, c.g.xi.toNat), (95, c.g.gslot)]

end Sys2Proof

/-! ## System operations and traps: statements -/

/-- R239, R240: sys.regacq and sys.regrel complete: sys.regacq gives the group a block of U32 zeros where its
reservation or its partition's pool allows, and queues the split's request where neither does; sys.regrel takes a held
block back; both leave a block that is already so. -/
def Sys2Proof.Claims.RegisterBlocks : Prop :=
  ∀ (a : BitVec 7) (s : State) (c : Ctx) (p : Pfx) (f : WordF) (o : Opnds),
    let base := afterCommit s c
    let k := a.toNat
    Issuing s c → commitReady s c.g = true → k ≤ 10 →
    (Names (.sysRegacq a) s c p f o →
      (c.g.held.getLsbD k = true →
        OnlySplit (.sysRegacq a) s base (committedCtx c) { c.p.arch with pc := c.cur.next }) ∧
      (c.g.held.getLsbD k = false → canGrant base { c.g with region := none } = true →
        ∃ t g', exec (.sysRegacq a) s = .next t ∧ GroupStep base t c.cur.who.core c.cur.who.gslot g' ∧ FellThrough c g' ∧
          (∀ j < 11, g'.held.getLsbD j = (c.g.held.getLsbD j || j == k)) ∧
          (∀ m < 120, vreg g' m = if 32 + 8 * k ≤ m ∧ m < 40 + 8 * k then VReg.zero else vreg c.g m) ∧
          g' = { c.g with v := g'.v, held := g'.held, splits := g'.splits, region := none }) ∧
      (c.g.held.getLsbD k = false → canGrant base { c.g with region := none } = false →
        Waits (.sysRegacq a) s c .onRegacq ∧ ∃ t, exec (.sysRegacq a) s = .next t ∧
          ∃ w ∈ t.regWaits, w.core = c.g.core ∧ w.gslot = c.g.gslot ∧ w.lanes = c.mask ∧ w.block = k ∧
            w.cycle = s.clk.toNat)) ∧
    (Names (.sysRegrel a) s c p f o →
      ∃ t g', exec (.sysRegrel a) s = .next t ∧ GroupStep base t c.cur.who.core c.cur.who.gslot g' ∧ FellThrough c g' ∧
        (∀ j < 11, g'.held.getLsbD j = (c.g.held.getLsbD j && j != k)) ∧
        (∀ m < 120, ¬(32 + 8 * k ≤ m ∧ m < 40 + 8 * k) → vreg g' m = vreg c.g m) ∧
        g' = { c.g with v := g'.v, held := g'.held, splits := g'.splits, region := none })

/-- R43 to R48, R241 to R244: sys.movsr, movcr, xiset, stat, nop and clk complete: sys.movsr reads the special
registers; sys.movcr writes ctl and sys.xiset xi, and each traps on a value it may not hold; sys.stat reports the
split's sticky flags and clears them; sys.clk reads the core's clock; sys.nop does nothing. -/
def Sys2Proof.Claims.SystemRegisters : Prop :=
  ∀ (d a : BitVec 7) (s : State) (c : Ctx) (p : Pfx) (f : WordF) (o : Opnds),
    let base := afterCommit s c
    let cc := committedCtx c
    let v := srcS base cc a
    Issuing s c → commitReady s c.g = true →
    (∀ gr, gridOf s c.g.gid = some gr → ∀ e ∈ specials s c gr.record.cw gr.record.chh,
      Names (.sysMovsr d a) s c p f o → a.toNat = e.1 →
      ∃ t, exec (.sysMovsr d a) s = .next t ∧ ScalarLeaves base t cc d (BitVec.ofNat 64 e.2)) ∧
    (Names (.sysMovsr d a) s c p f o → a.toNat = 90 → ∃ t x, exec (.sysMovsr d a) s = .next t ∧
      ScalarLeaves base t cc d x ∧ ∀ b < 64, (x.getLsbD b = true ↔
        ∃ l < 32, c.mask.getLsbD l = true ∧ (vget c.g.lst l 0).getLsbD b = true)) ∧
    (Names (.sysMovcr a) s c p f o →
      (v.toNat < 4 → ∃ t g', exec (.sysMovcr a) s = .next t ∧ GroupStep base t c.cur.who.core c.cur.who.gslot g' ∧
        FellThrough c g' ∧ g' = { c.g with ctl := v, splits := g'.splits, region := none }) ∧
      (4 ≤ v.toNat → Traps (.sysMovcr a) s c (plainTrap 1 c.mask))) ∧
    (Names (.sysXiset a) s c p f o →
      (v.toNat ≤ 119 → ∃ t g', exec (.sysXiset a) s = .next t ∧ GroupStep base t c.cur.who.core c.cur.who.gslot g' ∧
        FellThrough c g' ∧ g'.xi.toNat = v.toNat ∧ g' = { c.g with xi := g'.xi, splits := g'.splits, region := none }) ∧
      (119 < v.toNat → Traps (.sysXiset a) s c (plainTrap 2 c.mask))) ∧
    (Names (.sysStat d) s c p f o → ∃ t g' x, exec (.sysStat d) s = .next t ∧ Retired base t c g' ∧
      Returned base t c d x g' ∧
      (∀ b < 32, (x.getLsbD b = true ↔ ∃ l < 32, c.mask.getLsbD l = true ∧ (vget c.g.lst l 0).getLsbD b = true)) ∧
      (∀ l < 32, (x.getLsbD (32 + l) = true ↔ c.mask.getLsbD l = true ∧ vget c.g.lst l 0 ≠ 0)) ∧
      (∀ l < 32, vget g'.lst l 0 = if c.mask.getLsbD l then 0 else vget c.g.lst l 0) ∧
      g' = { c.g with s := g'.s, lst := g'.lst, splits := g'.splits, region := none }) ∧
    (Names .sysNop s c p f o → OnlySplit .sysNop s s c { c.p.arch with pc := c.cur.next }) ∧
    (Names (.sysClk d) s c p f o → ∃ t, exec (.sysClk d) s = .next t ∧ ScalarLeaves s t c d s.clk)

/-- R250, R322: sys.mode completes: it sets a bank of the team to switch, and its split waits; a bank that is in that
mode stays as it is; a bank outside the team's allocation traps. -/
def Sys2Proof.Claims.BankModes : Prop :=
  ∀ (d a : BitVec 7) (s : State) (c : Ctx) (p : Pfx) (f : WordF) (o : Opnds) (tm : Team),
    let base := afterCommit s c
    Issuing s c → Names (.sysMode d a) s c p f o → commitReady s c.g = true →
    teamOf s c.g.gid c.g.team = some tm →
    (tm.banks.length ≤ d.toNat → Traps (.sysMode d a) s c (plainTrap 6 c.mask)) ∧
    (∀ b, bankOf tm d.toNat = some b →
      (b.target = none → b.mode = a.setWidth 2 →
        OnlySplit (.sysMode d a) s base (committedCtx c) { c.p.arch with pc := c.cur.next }) ∧
      (b.target ≠ none → Waits (.sysMode d a) s c .onEvent) ∧
      (b.target = none → b.mode ≠ a.setWidth 2 → ∃ t g' b', exec (.sysMode d a) s = .next t ∧
        groupAt t c.cur.who.core c.cur.who.gslot = some g' ∧
        (splitAt g' c.cur.who.entry).arch = { c.p.arch with pc := c.cur.next, state := .onEvent } ∧
        stageBank t c.g.gid c.g.team d.toNat = some b' ∧
        b'.target = some (a.setWidth 2, c.g.gslot, c.mask) ∧ b'.mode = b.mode))

/-- R245, R247: entering the handler: the frame, the return on the link stack, and the handler's address as the pc; a
grid with no handler fails with the cause, and one whose handler cannot be entered with the double fault. -/
def Obligations.TrapEntry : Prop :=
  ∀ (s : State) (c : Ctx) (x : Trp), Issuing s c → x.cause < 256 →
    commitReady (trapPosted s c x) c.g = true →
    let base := trapBase s c x
    (∀ gr pa, Enters base c gr pa → TrapEntered base (enterTrap s c.cur x) c x gr.record.handler pa) ∧
    (∀ gr, gridOf base c.g.gid = some gr → gr.phase ≠ .ended → gr.phase ≠ .ending →
      (gr.record.handler = 0 → GridFailed (enterTrap s c.cur x) c.g.gid (0x10 + x.cause)) ∧
      (gr.record.handler ≠ 0 → (4 ≤ c.p.arch.link.length ∨
          fetchable base (coreTlb c.g.core) c.part c.g.gid gr.record.handler.toNat = false ∨ frameAt c % 64 ≠ 0 ∨
          writablePa base (coreTlb c.g.core) c.part c.g.gid (frameAt c) = none) →
        GridFailed (enterTrap s c.cur x) c.g.gid 0x1F))

/-- R242, R245, R247, R248, R499: sys.trap, sys.brk, the illegal instruction and sys.rte complete: sys.trap and
sys.brk enter the handler past themselves, with their number; with debugging on, sys.brk stops its team; the illegal
instruction enters it at itself; sys.rte goes back to the address on top of the link stack, and traps where that is no
trap return. -/
def Obligations.TrapInstructions : Prop :=
  ∀ (s : State) (c : Ctx) (p : Pfx) (f : WordF) (o : Opnds), Issuing s c → commitReady s c.g = true →
    (∀ a, Names (.sysTrap a) s c p f o → Traps (.sysTrap a) s c ⟨9, a.toNat, 0, c.mask, true, [], []⟩) ∧
    (∀ a, Names (.sysBrk a) s c p f o →
      ((pregs s c.part).pctl.getLsbD 1 = false → Traps (.sysBrk a) s c ⟨10, a.toNat, 0, c.mask, true, [], []⟩) ∧
      ((pregs s c.part).pctl.getLsbD 1 = true → c.part < 12 → ∀ tm, teamOf s c.g.gid c.g.team = some tm →
        ∃ t g' tm', exec (.sysBrk a) s = .next t ∧ Retired (afterCommit s c) t c g' ∧
          teamOf t c.g.gid c.g.team = some tm' ∧ tm'.stopped = some (c.g.gslot, c.cur.who.entry) ∧
          ((pregs s c.part).dbgsta.getLsbD 0 = false → (pregs t c.part).dbgsta.getLsbD 0 = true))) ∧
    (∀ raw, Traps (.ill raw) s c (plainTrap 0 c.mask)) ∧
    (Names .sysRte s c p f o →
      (∀ below r, c.p.arch.link = below ++ [r] → r.getLsbD 63 = true → r.getLsbD 0 = true → r.extractLsb' 56 7 = 0 →
        OnlySplit .sysRte s (afterCommit s c) (committedCtx c)
          { c.p.arch with pc := r &&& 0x00FF_FFFF_FFFF_FFFE#64, link := below }) ∧
      ((c.p.arch.link = [] ∨ ∃ below r, c.p.arch.link = below ++ [r] ∧
          ¬(r.getLsbD 63 = true ∧ r.getLsbD 0 = true ∧ r.extractLsb' 56 7 = 0)) →
        Traps .sysRte s c (plainTrap 1 c.mask)))

/-- R26, R27, R28, R49, R124, R147: a lane instruction checks its operands in this order: an odd FP64 register is an illegal
operand, a register not held breaks the register bounds, a broken FP64 pair and a tag the row does not take are a format
mismatch, which ctl.fmm turns, for the tag alone, into FM in the active lanes' flags and no result. -/
def Sys2Proof.LaneClaim.ChecksOperands (r : LaneClaim) : Prop :=
  ∀ (s : State) (c : Ctx) (p : Pfx) (f : WordF) (o : Opnds), Issuing s c → Names r.form s c p f o →
    commitReady s c.g = true →
    let M := activeMask c p.operand f.guard
    let t := r.result (tagA c o) (readTag c o.c)
    let f64 := isF64 (tagA c o) && r.src (tagA c o)
    let broken := brokenPair c false o.a || (r.wideB && brokenPair c f64 o.b) || brokenPair c f64 o.c
    let accepted := passesA c o r.src && r.accepts (tagA c o) (srcTag c o.b) (srcTag c o.c)
    (pairsEven c o t = false → Traps r.run s c (plainTrap 1 c.mask)) ∧
    (pairsEven c o t = true → operandsHeld c o t r.wideB = false → Traps r.run s c (plainTrap 2 c.mask)) ∧
    (pairsEven c o t = true → operandsHeld c o t r.wideB = true → broken = true → Traps r.run s c (plainTrap 3 M)) ∧
    (pairsEven c o t = true → operandsHeld c o t r.wideB = true → broken = false → accepted = false →
      (c.g.ctl.getLsbD 1 = false → Traps r.run s c (plainTrap 3 M)) ∧
      (c.g.ctl.getLsbD 1 = true → ∃ g', OnlyGroup r.run s c g' ∧ FellThrough c g' ∧
        (∀ l < 32, vget g'.lst l 0 = vget c.g.lst l 0 ||| (if M.getLsbD l then flagFM else 0)) ∧
        g' = { c.g with lst := g'.lst, splits := g'.splits }))

/-- R26, R27, R28, R49, R124, R147: the lane instructions of R172 to R192, in all their forms, check their operands
so. -/
def Sys2Proof.Claims.LaneTraps : Prop :=
  (∀ w, ∀ r ∈ intClaims w ++ logicClaims w ++ fieldClaims w ++ fltClaims w ++ fltPickClaims w ++ convertClaims w,
    r.ChecksOperands) ∧
  (∀ w, ∀ r ∈ iunClaims w ++ fltOneClaims w ++ fltSignClaims w, r.ChecksOperands) ∧
  (∀ w, ∀ r ∈ intHalfClaims w ++ logicHalfClaims w ++ fltHalfClaims w, r.ChecksOperands)

/-- R55, R254, R255, R258, R378: ld and st trap before any lane takes effect: on registers not held; on an address
pair that does not carry integers; with the lowest failing lane's address, on an address above bits 55:0; where there
is none, on one that is not a multiple of the width; where all are aligned, on one that is not permitted; and ld on a
tag its width does not allow. -/
def Sys2Proof.Claims.MemoryTraps : Prop :=
  ∀ (s : State) (c : Ctx) (p : Pfx) (f : WordF) (o : Opnds), Issuing s c → commitReady s c.g = true →
    let M := activeMask c p.operand f.guard
    let addr := laneAddr c p o.a
    (∀ w : MemW, ∀ i ∈ [Instr.ld w, Instr.st w], Names i s c p f o →
      let n := widBytes w.wid
      let below (P : Nat → Prop) (l : Nat) : Prop := ∀ k < l, M.getLsbD k = true → ¬P k
      let high (l : Nat) : Prop := 2 ^ 56 ≤ addr l
      let odd (l : Nat) : Prop := addr l % n ≠ 0
      let denied (l : Nat) : Prop := ∃ es, placeOf s c (addr l) n (i == .st w) (i == .ld w) = .error es
      (i = .ld w → widTag w.wid (loadTag p) = false → Traps i s c (plainTrap 0 c.mask)) ∧
      (i = .st w ∨ widTag w.wid (loadTag p) = true →
        (heldSpan c.g o.d (widRegs w.wid) = false ∨ heldSpan c.g o.a 2 = false → Traps i s c (plainTrap 2 c.mask)) ∧
        (heldSpan c.g o.d (widRegs w.wid) = true → heldSpan c.g o.a 2 = true → addrTags c o.a 2 = false →
          Traps i s c (plainTrap 3 M)) ∧
        (Reaches c o (widRegs w.wid) 2 → ∀ l < 32, M.getLsbD l = true →
          (high l → below high l → ∃ lanes, Traps i s c ⟨6, 0, addr l, lanes, false, [], []⟩ ∧
            ∀ k < 32, lanes.getLsbD k = true ↔ M.getLsbD k = true ∧ high k) ∧
          (odd l → below odd l → (∀ k < 32, M.getLsbD k = true → ¬high k) →
            ∃ lanes, Traps i s c ⟨7, 0, addr l, lanes, false, [], []⟩ ∧
              ∀ k < 32, lanes.getLsbD k = true ↔ M.getLsbD k = true ∧ odd k) ∧
          (denied l → below denied l → (∀ k < 32, M.getLsbD k = true → ¬high k ∧ ¬odd k) →
            ∃ lanes es, Traps i s c ⟨6, 0, addr l, lanes, false, es, []⟩ ∧
              ∀ k < 32, lanes.getLsbD k = true ↔ M.getLsbD k = true ∧ denied k))))

/-! ## Filter instructions: terms -/

namespace Sys2Proof

/-- R475: r is the running invocation, of the loaded filter F. -/
structure Running (s : State) (r : LnRun) (F : LnFilter) : Prop where
  run : s.lantern.run = some r
  filter : lnFilter s r.filter = some F

/-- R472, R475, R477: the instruction, its effect having left u and the invocation r, goes on at pc, or ends the invocation
where pc is past the filter's last instruction. -/
def RunsOn (i : Instr) (s u : State) (r : LnRun) (F : LnFilter) (pc : Nat) : Prop :=
  let r' := { r with pc := pc, executed := r.executed + 1 }
  (pc < F.code.length → exec i s = .next { u with lantern := { u.lantern with run := some r' } }) ∧
  (F.code.length ≤ pc → exec i s = .next (endRun u r'))

/-- A row of R472 that writes ed: its instruction, and the value, from the contents of the e registers. -/
structure FilterClaim where
  run : Instr
  dst : BitVec 4
  value : (BitVec 4 → Dword) → Dword

/-- The rows of R472 on e registers and immediates. -/
def filterClaims (b a d : BitVec 4) (imm : BitVec 14) (n : BitVec 6) : List FilterClaim :=
  [⟨.filterAdd b a d, d, fun e => BitVec.ofNat 64 ((e a).toNat + (e b).toNat)⟩,
   ⟨.filterSub b a d, d, fun e => BitVec.ofInt 64 ((e a).toNat - (e b).toNat : Int)⟩,
   ⟨.filterMul b a d, d, fun e => BitVec.ofNat 64 ((e a).toNat * (e b).toNat)⟩,
   ⟨.filterAnd b a d, d, fun e => e a &&& e b⟩,
   ⟨.filterOr b a d, d, fun e => e a ||| e b⟩,
   ⟨.filterXor b a d, d, fun e => e a ^^^ e b⟩,
   ⟨.filterShl b a d, d, fun e => BitVec.ofNat 64 ((e a).toNat * 2 ^ (e b).toNat)⟩,
   ⟨.filterShr b a d, d, fun e => BitVec.ofNat 64 ((e a).toNat / 2 ^ (e b).toNat)⟩,
   ⟨.filterMin b a d, d, fun e => BitVec.ofNat 64 (min (e a).toNat (e b).toNat)⟩,
   ⟨.filterMax b a d, d, fun e => BitVec.ofNat 64 (max (e a).toNat (e b).toNat)⟩,
   ⟨.filterAddi imm a d, d, fun e => BitVec.ofInt 64 ((e a).toNat + imm.toInt)⟩,
   ⟨.filterAndi imm a d, d, fun e => e a &&& imm.setWidth 64⟩,
   ⟨.filterShli n a d, d, fun e => BitVec.ofNat 64 ((e a).toNat * 2 ^ n.toNat)⟩,
   ⟨.filterShri n a d, d, fun e => BitVec.ofNat 64 ((e a).toNat / 2 ^ n.toNat)⟩,
   ⟨.filterMovi imm d, d, fun _ => BitVec.ofInt 64 imm.toInt⟩]

/-- R472: the number of zero bits above the highest 1 of x, 64 for 0. -/
def LeadingZeros (x : Dword) (n : Nat) : Prop := (x = 0 ∧ n = 64) ∨ (2 ^ (63 - n) ≤ x.toNat ∧ x.toNat < 2 ^ (64 - n) ∧ n < 64)

/-- u is s but for Lantern's histograms, in which counter c of histogram h is v. -/
structure HistCounted (s u : State) (h c : Nat) (v : Dword) : Prop where
  value : ∀ h' c', histAt u h' c' = if h' = h ∧ c' = c then v else histAt s h' c'
  rest : u = { s with lantern := { s.lantern with hist := u.lantern.hist } }

/-- R473: the counters of key in a sketch, one of each row. -/
def sketchPlace (s : State) (k : Nat) (key : Dword) (c : Nat) : Prop := ∃ i < 4, c = 1024 * i + skRow s k i key

/-- u is s but for Lantern's sketches, in which the counters of key in sketch k are n more, up to 2^32 - 1. -/
structure SketchCounted (s u : State) (k : Nat) (key : Dword) (n : Nat) : Prop where
  added : ∀ c, sketchPlace s k key c → (sketchAt u k c).toNat = min ((sketchAt s k c).toNat + n) (2 ^ 32 - 1)
  others : ∀ k' c, ¬(k' = k ∧ sketchPlace s k key c) → sketchAt u k' c = sketchAt s k' c
  rest : u = { s with lantern := { s.lantern with sketch := u.lantern.sketch } }

end Sys2Proof

/-! ## Filter instructions: statements -/

/-- R472: a filter instruction on registers completes: it writes its destination, and the invocation goes on at the next
instruction; nothing else of the device changes. -/
def Sys2Proof.Claims.FilterArithmetic : Prop :=
  ∀ (s : State) (r : LnRun) (F : LnFilter), Running s r F →
    (∀ b a d imm n, ∀ q ∈ filterClaims b a d imm n,
      RunsOn q.run s s { r with e := vset r.e q.dst.toNat (q.value fun i => vget r.e i.toNat 0) } F (r.pc + 1)) ∧
    (∀ a d, ∃ n, LeadingZeros (vget r.e a.toNat 0) n ∧
      RunsOn (.filterClz a d) s s { r with e := vset r.e d.toNat (BitVec.ofNat 64 n) } F (r.pc + 1)) ∧
    (∀ a d, ∃ n, LeadingZeros (vget r.e a.toNat 0) n ∧
      RunsOn (.filterLbkt a d) s s { r with e := vset r.e d.toNat (BitVec.ofNat 64 (min 63 (64 - n))) } F (r.pc + 1))

/-- R472, R473: ldk, ldst, stst, hadd, kadd, kest, beq, bne and bltu complete: constants and state words; histogram
and sketch counters saturate; an object the filter does not bind is not touched and reads 0; a branch skips n
instructions where its condition holds. -/
def Sys2Proof.Claims.FilterObjectsAndBranches : Prop :=
  ∀ (s : State) (r : LnRun) (F : LnFilter), Running s r F →
    let e := fun i : BitVec 4 => vget r.e i.toNat 0
    let put := fun (d : BitVec 4) (v : Dword) => { r with e := vset r.e d.toNat v }
    (∀ k d, RunsOn (.filterLdk k d) s s (put d (F.consts.getD k.toNat 0)) F (r.pc + 1) ∧
      RunsOn (.filterLdst k d) s s (put d (F.words.getD k.toNat 0)) F (r.pc + 1)) ∧
    (∀ k a, ∃ u, RunsOn (.filterStst k a) s u r F (r.pc + 1) ∧
      lnFilter u r.filter = some { F with words := F.words.set k.toNat (e a) } ∧
      (∀ j, j ≠ r.filter → lnFilter u j = lnFilter s j) ∧
      u = { s with lantern := { s.lantern with filters := u.lantern.filters } }) ∧
    (∀ h b a, (bound s r .hist LnFilter.hist h.toNat = none → RunsOn (.filterHadd h b a) s s r F (r.pc + 1)) ∧
      (∀ x, bound s r .hist LnFilter.hist h.toNat = some x →
        ∃ u, RunsOn (.filterHadd h b a) s u r F (r.pc + 1) ∧ HistCounted s u x ((e a).toNat % 64)
          (BitVec.ofNat 64 (min ((histAt s x ((e a).toNat % 64)).toNat + (e b).toNat) (2 ^ 64 - 1))))) ∧
    (∀ k b a, (bound s r .sketch LnFilter.sketch k.toNat = none → RunsOn (.filterKadd k b a) s s r F (r.pc + 1)) ∧
      (∀ x, bound s r .sketch LnFilter.sketch k.toNat = some x →
        ∃ u, RunsOn (.filterKadd k b a) s u r F (r.pc + 1) ∧ SketchCounted s u x (e a) ((e b).toNat % 2 ^ 32))) ∧
    (∀ k a d, (bound s r .sketch LnFilter.sketch k.toNat = none →
        RunsOn (.filterKest k a d) s s (put d 0) F (r.pc + 1)) ∧
      (∀ x, bound s r .sketch LnFilter.sketch k.toNat = some x → ∃ m,
        RunsOn (.filterKest k a d) s s (put d (BitVec.ofNat 64 m)) F (r.pc + 1) ∧
        (∀ c, sketchPlace s x (e a) c → m ≤ (sketchAt s x c).toNat) ∧
        ∃ c, sketchPlace s x (e a) c ∧ m = (sketchAt s x c).toNat)) ∧
    (∀ n b a, RunsOn (.filterBeq n b a) s s r F (if e a = e b then r.pc + 1 + n.toNat else r.pc + 1) ∧
      RunsOn (.filterBne n b a) s s r F (if e a ≠ e b then r.pc + 1 + n.toNat else r.pc + 1) ∧
      RunsOn (.filterBltu n b a) s s r F (if (e a).toNat < (e b).toNat then r.pc + 1 + n.toNat else r.pc + 1))

/-- R472, R477, R478: trig and end complete: trig on an armed trigger disarms it and takes its actions: an entry in
its owner's ring, a trace record, a frozen trace; on any other trigger it does nothing. end ends the invocation: its
owner's bucket pays for what it executed, and the next invocation starts where one is left and its bucket allows it.
-/
def Sys2Proof.Claims.FilterTriggersAndEnd : Prop :=
  ∀ (s : State) (r : LnRun) (F : LnFilter), Running s r F →
    (∀ t a, bound s r .trig LnFilter.trigs t.toNat = none → RunsOn (.filterTrig t a) s s r F (r.pc + 1)) ∧
    (∀ t a x, bound s r .trig LnFilter.trigs t.toNat = some x →
      (s.lantern.trigs.find? fun y => y.idx == x) = none → RunsOn (.filterTrig t a) s s r F (r.pc + 1)) ∧
    (∀ t a x g, bound s r .trig LnFilter.trigs t.toNat = some x →
      (s.lantern.trigs.find? fun y => y.idx == x) = some g →
      (g.armed = false → RunsOn (.filterTrig t a) s s r F (r.pc + 1)) ∧
      (g.armed = true → ∃ u, RunsOn (.filterTrig t a) s u r F (r.pc + 1) ∧
        (u.lantern.trigs.find? fun y => y.idx == x) = some { g with armed := false, firedAt := s.time.toNat } ∧
        u.lantern.filters = s.lantern.filters ∧ u.mem = s.mem ∧ u.groups = s.groups ∧
        (g.actions.getLsbD 0 = true → g.owner < 13 →
          ((lnOwner s g.owner).ringNext, ⟨r.ev.time, eventWord r.ev, vget r.e a.toNat 0,
            BitVec.ofNat 64 (x - (lnRange s g.owner .trig).1)⟩) ∈ (lnOwner u g.owner).ring) ∧
        (g.actions.getLsbD 0 = false → u.lantern.owners = s.lantern.owners) ∧
        (∀ b, g.trace = some b → g.actions.getLsbD 2 = true → (lnTrace s b).frozen = false →
          ((lnTrace s b).next, ⟨r.ev.time, eventWord r.ev ||| 0x8000_0000#64, r.ev.payload.setWidth 64,
            vget r.e a.toNat 0⟩) ∈ (lnTrace u b).recs) ∧
        (∀ b, g.trace = some b → g.actions.getLsbD 1 = true → (lnTrace u b).frozen = true) ∧
        (g.trace = none → u.lantern.traces = s.lantern.traces))) ∧
    (∀ i ev rest G, s.lantern.todo = (i, ev) :: rest → lnFilter s i = some G → r.owner < 13 →
      G.code.length ≤ (lnOwner s G.owner).bucket - (if G.owner = r.owner then r.executed + 1 else 0) →
      ∃ t, exec .filterEnd s = .next t ∧ t.lantern.run = some (LnRun.start G ev) ∧ t.lantern.todo = rest) ∧
    (s.lantern.todo = [] → r.owner < 13 → ∃ t, exec .filterEnd s = .next t ∧ t.lantern.run = none ∧ t.lantern.todo = [] ∧
      lnOwner t r.owner = { lnOwner s r.owner with
        bucket := (lnOwner s r.owner).bucket - (r.executed + 1)
        executed := (lnOwner s r.owner).executed + BitVec.ofNat 64 (r.executed + 1) } ∧
      (∀ o < 13, o ≠ r.owner → lnOwner t o = lnOwner s o) ∧
      t = { s with lantern := { s.lantern with owners := t.lantern.owners, todo := [], run := none } })

/-! ## Events of splits: terms -/

namespace Sys2Proof

/-- R238, R528: the split at a place (its entry, or 4 and above when it is parked) waits, in state 4, in the instruction
i. -/
structure WaitsIn (s : State) (core gslot entry : Nat) (g : Group) (i : Instr) : Prop where
  group : groupAt s core gslot = some g
  state : (splitIn g entry).arch.state = .onEvent
  inst : (splitIn g entry).waitsIn = some i

/-- The group of a slot becomes g', the split at one place p; the group's other splits and registers, and the rest of the
device, stay. -/
structure SplitOnly (s t : State) (core gslot entry : Nat) (g g' : Group) (p : Split) : Prop where
  group : groupAt t core gslot = some g'
  split : splitIn g' entry = p
  others : ∀ e, e ≠ entry → splitIn g' e = splitIn g e
  rest : g' = { g with splits := g'.splits, parked := g'.parked }
  elsewhere : ∀ a b, ¬(a = core ∧ b = gslot) → groupAt t a b = groupAt s a b
  frame : t = { s with groups := t.groups }

/-- R238: the waiting split becomes Ready, to issue its instruction again. -/
def Woken (s t : State) (core gslot entry : Nat) (g : Group) : Prop :=
  ∃ g' p, SplitOnly s t core gslot entry g g' p ∧ p.arch = { (splitIn g entry).arch with state := .ready }

/-- The event e completes: where P holds the waiting split becomes Ready, and otherwise nothing happens. -/
def WakesWhen (e : Instr) (s : State) (core gslot entry : Nat) (g : Group) (P : Prop) : Prop :=
  ∃ t, exec e s = .next t ∧ (P → Woken s t core gslot entry g) ∧ (¬P → t = s)

/-- R290, R291: the instructions that enter the engine queue. -/
def queuedForms (pfx : Pfx) (d a : BitVec 7) : List Instr :=
  (copies pfx d a).map Prod.fst ++
    [.mmt pfx d a, .tcon pfx d a, .accZero pfx d, .accLoad pfx d a, .accStore pfx d a, .accFold pfx d, .accCtrb pfx d a,
     .engPlan pfx a, .engLaunch pfx d a, .engLnt pfx a]

/-- R403: a list's best element: less than every other by a key. -/
def Least (cs : List Cand) (P : Cand → Prop) (f : Cand) : Prop :=
  f ∈ cs ∧ P f ∧ ∀ x ∈ cs, P x → x ≠ f → f.recency < x.recency

/-- R403, R406: the candidate has reached the age of 16 µs. -/
def Aged (s : State) (x : Cand) : Prop := 16000 ≤ s.time.toNat - x.p.since

/-- R403: the first split of an opportunity: a chain's or a loser's; else the aged; else of the lowest class. -/
def FirstOf (s : State) (core slot : Nat) (cs : List Cand) (f : Cand) : Prop :=
  Least cs (fun x => boundSplit x.p = true) f ∨
  ((∀ x ∈ cs, boundSplit x.p = false) ∧ slotHeld s core slot = false ∧ Least cs (Aged s) f) ∨
  ((∀ x ∈ cs, boundSplit x.p = false ∧ ¬Aged s x) ∧ slotHeld s core slot = false ∧
    Least cs (fun x => classOfGrid s x.g.gid < 4 ∧ ∀ y ∈ cs, classOfGrid s x.g.gid ≤ classOfGrid s y.g.gid) f)

/-- R404: the only split that may issue beside f. -/
def OnlyOther (cs : List Cand) (f p : Cand) : Prop :=
  p ∈ cs ∧ p.g.gslot = f.g.gslot ∧ p.entry ≠ f.entry ∧
    ∀ x ∈ cs, x.g.gslot = f.g.gslot → x.entry ≠ f.entry → x = p

end Sys2Proof

/-! ## Events of splits: statements -/

/-- R278, R291, R309, R311, R316, R528: a split that waits in a fence, a wtg, eng.waitl, eng.gset, for room in its
engine queue or for its descriptor issues its instruction again once what it waits for has come, and not before. -/
def Sys2Proof.Claims.WaitsEnd : Prop :=
  ∀ (s : State) (core gslot entry : Nat) (g : Group) (i : Instr), WaitsIn s core gslot entry g i →
    let c := readCtx s g entry
    let wakes := fun e P => WakesWhen e s core gslot entry g P
    (∀ pfx scope a, i = .fence pfx scope a → wakes (.fenceRetire core gslot entry) (FenceOver s c scope true)) ∧
    (∀ pfx p2 p1 scope a, i = .fencex pfx p2 p1 scope a →
      wakes (.fenceRetire core gslot entry) (FenceOver s c scope (p1 == 4#3))) ∧
    (∀ d a, (i = .wtgAny a ∨ i = .wtgFirst d a) → wakes (.wtgWake core gslot entry)
      (srcS s c a = 0 ∨ ∃ n < 64, (srcS s c a).getLsbD n = true ∧ (tagsNow s c).getLsbD n = false)) ∧
    (∀ a, i = .wtgAll a → wakes (.wtgWake core gslot entry)
      (∀ n < 64, (srcS s c a).getLsbD n = true → (tagsNow s c).getLsbD n = false)) ∧
    (∀ d a gr, i = .engWaitl d a → gridByHandle s c.part (srcS s c a) = some gr →
      wakes (.waitlReturn core gslot entry) (gr.phase = .ended)) ∧
    (∀ a tm, i = .engGset a → teamOf s g.gid g.team = some tm → wakes (.gsetExchange core gslot entry)
      ((vget tm.g (bits (srcS s c a) 0 3) slotZero).issued = (vget tm.g (bits (srcS s c a) 0 3) slotZero).done)) ∧
    (∀ pfx d a, i ∈ queuedForms pfx d a → (∀ r ∈ s.reqs, r.kind ≠ .desc core gslot c.mask) →
      wakes (.engineQueueRetry core gslot entry)
        ((s.cmds.filter fun k => k.gid == g.gid && k.team == g.team && k.phase == .queued).length < 64)) ∧
    wakes (.issueAccessComplete core gslot entry) (∃ x ∈ s.descs, x.core = core ∧ x.gslot = gslot ∧ x.lanes = c.mask)

/-- R323: a split that waits for a FIFO bank issues its access again once the whole access fits and no access of its
group that issued earlier waits for the bank. -/
def Sys2Proof.Claims.FifoWaitsEnd : Prop :=
  ∀ (s : State) (core gslot entry : Nat) (g : Group) (i : Instr) (w : MemW) (p : Pfx) (f : WordF) (o : Opnds)
    (place : Nat → Nat × Nat × Nat) (tm k : Nat) (b : Bank), WaitsIn s core gslot entry g i →
    let c := readCtx s g entry
    let M := activeMask c p.operand f.guard
    let need := widBytes w.wid * (lanesIn M).length
    let turn := fifoTurn s c (stageLanes M place)
    Names i s c p f o → StageReach s c M (stageOffset c p o.a) (widBytes w.wid) 2#2 place →
    (∀ l < 32, M.getLsbD l = true → (place l).1 = tm ∧ (place l).2.1 = k) → stageBank s g.gid tm k = some b →
    b.mode = 2#2 →
    (i = .lds w → WakesWhen (.fifoAccessResume core gslot entry) s core gslot entry g (need ≤ b.count ∧ turn false = true)) ∧
    (i = .sts w → WakesWhen (.fifoAccessResume core gslot entry) s core gslot entry g
      (b.count + need ≤ 65536 ∧ turn true = true))

/-- R236: a yielded split may issue again once 256 cycles have passed or every lane it yielded to has issued. R240:
the first waiting request of a partition on a core is granted, where no request before it can be, once its group holds
fewer blocks than its reservation or the partition's part of the pool has a free block; the block comes as U32 zeros
and the waiting split, resident or parked, is Ready. -/
def Sys2Proof.Claims.YieldsAndGrantsEnd : Prop :=
  (∀ (s : State) (core gslot entry : Nat) (g : Group) (at' : Nat) (others : Mask),
    groupAt s core gslot = some g → (splitIn g entry).yielded = some (at', others) →
    let past := at' + 256 ≤ s.clk.toNat ∨ others = 0
    ∃ t, exec (.yldResume core gslot entry) s = .next t ∧ (¬past → t = s) ∧
      (past → ∃ g', SplitOnly s t core gslot entry g g' { splitIn g entry with yielded := none })) ∧
  ∀ (s : State) (w : RegWait) (pre post : List RegWait) (g : Group)
    (e : Nat),
    let grants := fun (x : RegWait) (g : Group) => g.held.getLsbD x.block = true ∨
      heldBlocks g < reservedBlocks s g.gid ∨ 0 < freeBlocks s x.core (partOf s g)
    s.regWaits = pre ++ w :: post → (∀ x ∈ pre, x.core = w.core → ∃ g', groupAt s x.core x.gslot = some g' ∧
      partOf s g' ≠ partOf s g ∧ ¬grants x g') → groupAt s w.core w.gslot = some g →
    (splitIn g e).arch.mask = w.lanes → (splitIn g e).live = true →
    (∀ j < e, ¬((splitIn g j).arch.mask = w.lanes ∧ (splitIn g j).live = true)) →
    w.block < 11 → g.held.getLsbD w.block = false → grants w g →
    ∃ t g', exec (.regacqGrant w.core) s = .next t ∧ groupAt t w.core w.gslot = some g' ∧
      (∀ k < 11, g'.held.getLsbD k = (g.held.getLsbD k || k == w.block)) ∧
      (∀ n < 120, vget g'.v n VReg.zero =
        if 32 + 8 * w.block ≤ n ∧ n < 40 + 8 * w.block then VReg.zero else vget g.v n VReg.zero) ∧
      (splitIn g' e).arch = { (splitIn g e).arch with state := .ready } ∧
      (∀ j, j ≠ e → splitIn g' j = splitIn g j) ∧
      g' = { g with v := g'.v, held := g'.held, splits := g'.splits, parked := g'.parked } ∧
      (∀ x, x ∈ t.regWaits ↔ x ∈ s.regWaits ∧ x ≠ w) ∧ t = { s with groups := t.groups, regWaits := t.regWaits }

/-- R408: the parked split that has reached 8 µs, or else the lowest parked Ready one while every resident split waits,
takes the entry of the resident split outside a chain that issued least recently, which is parked in its place. -/
def Sys2Proof.Claims.SplitsRotate : Prop :=
  ∀ (s : State) (core gslot : Nat) (g : Group) (i e : Nat) (p : Parked),
    let aged := fun x : Parked => x.arch.state = .ready ∧ 8000 ≤ ageOf s.time.toNat x.since x.idle
    let key := fun k => recency (splitAt g k).lastIssue (splitAt g k).since
    groupAt s core gslot = some g →
    (∀ k < 4, (splitAt g k).live = true ∧ (splitAt g k).arch.state ≠ .atRejoin) →
    (∀ x ∈ g.parked, x.arch.state ≠ .atRejoin ∧ x.arch.state ≠ .free) → g.rotated + 64 ≤ s.clk.toNat →
    g.parked[i]? = some p →
    ((aged p ∧ ∀ j < i, ∀ x, g.parked[j]? = some x → ¬aged x) ∨
      ((∀ k < 4, (splitAt g k).arch.state ≠ .ready) ∧ (∀ x ∈ g.parked, ¬aged x) ∧ p.arch.state = .ready ∧
        ∀ j < i, ∀ x, g.parked[j]? = some x → x.arch.state ≠ .ready)) →
    e < 4 → (splitAt g e).chain = 0 → (∀ k < 4, (splitAt g k).chain = 0 → k ≠ e → key e < key k) →
    ∃ t g', exec (.splitRotation core gslot) s = .next t ∧ groupAt t core gslot = some g' ∧
      (splitAt g' e).arch = p.arch ∧ (∀ k < 4, k ≠ e → splitAt g' k = splitAt g k) ∧
      g'.parked.map Parked.arch = (g.parked.map Parked.arch).set i (splitAt g e).arch ∧
      g' = { g with splits := g'.splits, parked := g'.parked, rotated := s.clk.toNat }

/-- R403 to R405: an issue opportunity puts the first split in turn, with a second of its group where there is one,
both may pair and they share no port (of the tag port, see SharedPorts); on a port conflict the priority bit chooses
one of the two and flips, and the other is first at the next opportunity. -/
def Sys2Proof.Claims.IssueChoosesSplits : Prop :=
  ∀ (s : State) (core slot : Nat), slot < 4 →
    (∀ k < 16, ∀ g, groupAt s core (4 * k + slot) = some g → ∀ e < 4, reachesRejoin (splitAt g e) = false) →
    let cs := candidates s core slot
    (cs = [] → ∃ t, exec (.issueOpportunity core slot) s = .next t ∧ t = { s with freeCtr := t.freeCtr }) ∧
    ∀ f, FirstOf s core slot cs f →
      ((∀ x ∈ cs, x.g.gslot = f.g.gslot → x.entry = f.entry) →
        ∃ t, exec (.issueOpportunity core slot) s = .next t ∧
          t = { s with turn := s.turn ++ [f.issuer], freeCtr := t.freeCtr }) ∧
      ∀ p, OnlyOther cs f p →
        let may := ∀ i, f.instr s = some i ∨ p.instr s = some i → pairable i = true
        let clash := ∃ i j, f.instr s = some i ∧ p.instr s = some j ∧ portClash i j = true
        (¬may → ∃ t, exec (.issueOpportunity core slot) s = .next t ∧
          t = { s with turn := s.turn ++ [f.issuer], freeCtr := t.freeCtr }) ∧
        (may → ¬clash →
          ∃ t, exec (.issueOpportunity core slot) s = .next t ∧
            t = { s with turn := s.turn ++ [f.issuer, p.issuer], freeCtr := t.freeCtr }) ∧
        (may → clash →
          ∃ t g' win lose, exec (.issueOpportunity core slot) s = .next t ∧
            ((win = f ∧ lose = p) ∨ (win = p ∧ lose = f)) ∧ (win.entry < lose.entry ↔ f.g.prio = false) ∧
            t.turn = s.turn ++ [win.issuer] ∧ groupAt t core f.g.gslot = some g' ∧ g'.prio = !f.g.prio ∧
            (splitAt g' lose.entry).lostPort = true ∧ t = { s with turn := t.turn, groups := t.groups, freeCtr := t.freeCtr })

/-- R33, R404, R405: of two splits of a group put in turn together, one of which would retag a register that the other
rewrites, the priority bit lets one issue, and flips; the other is first at the next opportunity. Where neither
changes a register's tag, both issue. -/
def Sys2Proof.Claims.SharedPorts : Prop :=
  ∀ (s tx ty : State) (turn : List Issuer) (x y : Issuer) (g hx hy : Group),
    let t := tagPort issueOne s turn
    let retags := fun (h h' : Group) => ∃ n < 120, tagOf h n ≠ tagOf g n ∧ vreg h' n ≠ vreg g n
    s.turn = turn ++ [x, y] → y.core = x.core → y.gslot = x.gslot → y.entry ≠ x.entry → x.entry < 4 → y.entry < 4 →
    groupAt s x.core x.gslot = some g → issueOne s x = .next tx → issueOne s y = .next ty →
    groupAt tx x.core x.gslot = some hx → groupAt ty x.core x.gslot = some hy →
    ((∀ n < 120, tagOf hx n = tagOf g n ∧ tagOf hy n = tagOf g n) → t = s) ∧
    (retags hx hy ∨ retags hy hx → ∃ g' win lose, ((win = x ∧ lose = y) ∨ (win = y ∧ lose = x)) ∧
      (win.entry < lose.entry ↔ g.prio = false) ∧ t.turn = turn ++ [win] ∧ groupAt t x.core x.gslot = some g' ∧
      g'.prio = !g.prio ∧ (splitAt g' lose.entry).lostPort = true ∧ t = { s with turn := t.turn, groups := t.groups })

/-! ## Events of stores, banks and translations: statements -/

namespace Sys2Proof

/-- The first element of a list with a property: the ones before it lack it. -/
def FirstIn {α : Type} (xs : List α) (P : α → Prop) (x : α) (rest : List α) : Prop :=
  ∃ pre post, xs = pre ++ x :: post ∧ rest = pre ++ post ∧ P x ∧ ∀ y ∈ pre, ¬P y

/-- R384, R485: the tinvc that starts an invalidation of a kind, with go set. -/
def tinvStart (kind : Nat) : Dword := BitVec.ofNat 64 (1 + 2 * kind)

/-- R377, R385: an invalidation event: tinvc shows it running, and it waits behind those already there, with the range that
tinva names. -/
def StartsTinv (e : Instr) (s : State) (part kind : Nat) : Prop :=
  ∃ t, exec e s = .next t ∧ (pregs t part).tinvc = tinvStart kind ∧
    (psched t part).tinv = (psched s part).tinv ++ [(tinvStart kind, (pregs s part).tinva)] ∧
    (∀ p, p ≠ part → pregs t p = pregs s p ∧ psched t p = psched s p) ∧ t = { s with parts := t.parts, sched := t.sched }

/-- R385: nothing that the running invalidation guarantees is left to wait for. -/
structure TinvClear (s : State) (part kind : Nat) (r : Nat × Nat) : Prop where
  regions : regionsHit s part kind r = []
  commands : ∀ k ∈ s.cmds, k.part = part → k.phase ≠ .started ∧ k.phase ≠ .streaming ∧ k.remote = 0
  lines : ∀ l ∈ s.rwc, l.part ≠ part
  requests : ∀ q ∈ s.reqs, q.packet.ftid = ftidOf s part → q.translated = false
  opening : ∀ q ∈ s.redReqs, q.part ≠ part
  nodes : (∀ x ∈ s.flights, x.frag.part ≠ part) ∧ (∀ x ∈ s.coreHeld, x.frag.part ≠ part) ∧
    ∀ x ∈ s.refused, x.frag.part = part → x.reply ≠ none

/-- R322: no access of a grid that was checked under a bank's mode is still to be performed: no command has an element to
move there, no split waits to make a FIFO access of it, no open region holds a store to it. -/
structure BankIdle (s : State) (gid team bank : Nat) : Prop where
  moves : ∀ k ∈ s.cmds, k.gid = gid → (∀ x ∈ k.takes, ∀ o f, x.2 ≠ .stage team bank o f) ∧
    ∀ m ∈ k.moves, ∀ o f, m.dst ≠ .stage team bank o f
  waits : ∀ g ∈ s.groups, g.gid = gid → ∀ e x, (splitIn g e).fifo = some x → (team, bank) ∉ x.banks
  held : ∀ g ∈ s.groups, g.gid = gid → ∀ r, g.region = some r → ∀ o d w, RegionEntry.stage team bank o d w ∉ r.buf

end Sys2Proof

/-- R263, R339: a group's oldest completion tick comes back, and raises hz to it; a due line of a core's write-combining
buffer leaves as one write, which its team then waits for. -/
def Sys2Proof.Claims.StoresFinish : Prop :=
  (∀ (s : State) (x : StoreTick) (rest : List StoreTick) (g : Group),
    FirstIn s.ticks (fun y => y.core = x.core ∧ y.gslot = x.gslot) x rest → groupAt s x.core x.gslot = some g →
    ∃ t, exec (.accessCompletion x.core x.gslot) s = .next t ∧ t.ticks = rest ∧
      groupAt t x.core x.gslot = some { g with hz := BitVec.ofNat 64 (max g.hz.toNat x.tick) } ∧
      t = { s with groups := t.groups, ticks := rest }) ∧
  ∀ (s : State) (r : RwcLine) (rest : List RwcLine) (tm : Team),
    FirstIn s.rwc (fun y => y.core = r.core ∧ (y.cells.length = 256 ∨ y.entered + y.age < s.time.toNat) ∧
      chanRoom s y.dev (BitVec.ofNat 2 y.cls) 1 = true) r rest →
    teamOf s r.gid r.team = some tm →
    ∃ t q, exec (.rwcLineDrain r.core) s = .next t ∧ t.outbox = s.outbox ++ [q] ∧
      q.opcode = (if r.cells.length = 256 then opWR else opWRM) ∧ q.dst = r.dev ∧ q.win = r.win ∧
      q.off = BitVec.ofNat 38 (256 * r.line) ∧ q.src = s.devid ∧
      (∀ y, y ∈ t.rwc ↔ y ∈ s.rwc ∧ RwcLine.isFor r.core r.gid r.team r.dev r.win r.line y = false) ∧
      teamOf t r.gid r.team = some { tm with outstanding := tm.outstanding + 1 } ∧
      (∃ x ∈ t.reqs, x.tag = q.tag ∧ x.kind = .store r.gid r.team r.lanes ∧ x.packet = q) ∧
      t = { s with outbox := t.outbox, nextTag := t.nextTag, chansOut := t.chansOut, reqs := t.reqs, rwc := t.rwc, teams := t.teams }

/-- R322: once no access is left that was checked under the old mode, a bank takes its new mode: a FIFO or a cache
empty, scratch contents undefined; the split that switched it, resident or parked, goes on. -/
def Sys2Proof.Claims.BanksTakeTheirMode : Prop :=
  ∀ (s : State) (tm : Team) (i gslot e : Nat) (lanes : Mask) (b : Bank) (mode : BitVec 2) (g : Group),
    teamOf s tm.gid tm.team = some tm → tm.phase ≠ .saved → tm.banks[i]? = some b → b.target = some (mode, gslot, lanes) →
    (∀ x ∈ s.teams, x.core = tm.core → x.phase ≠ .saved → ∀ c ∈ x.banks, c.phys = b.phys → c.target.isSome = true → x = tm) →
    (∀ j c, tm.banks[j]? = some c → c.phys = b.phys → c.target.isSome = true → j = i) →
    BankIdle s tm.gid tm.team i → groupAt s tm.core gslot = some g → (splitIn g e).arch.mask = lanes →
    (splitIn g e).live = true → (∀ j < e, ¬((splitIn g j).arch.mask = lanes ∧ (splitIn g j).live = true)) →
    ∃ t b', exec (.bankDrainComplete tm.core b.phys) s = .next t ∧ stageBank t tm.gid tm.team i = some b' ∧
      b' = { b with mode := mode, target := none, rd := 0, wr := 0, count := 0, bad := [], cells := [], seed := b'.seed } ∧
      (mode ≠ 1#2 → b'.seed = none) ∧
      (∀ j, j ≠ i → stageBank t tm.gid tm.team j = stageBank s tm.gid tm.team j) ∧
      (∃ g', groupAt t tm.core gslot = some g' ∧
        (splitIn g' e).arch = { (splitIn g e).arch with state := .ready } ∧ (∀ j, j ≠ e → splitIn g' j = splitIn g j) ∧
        g' = { g with splits := g'.splits, parked := g'.parked }) ∧
      t = { s with groups := t.groups, teams := t.teams, freeCtr := t.freeCtr }

/-- R383 to R385: the four kinds of invalidation start, in order; the running one commits the open regions it reaches,
and ends, tinvc.go then 0 unless another waits, once its guarantees hold: the TLBs then hold none of the partition's
translations that it covers. -/
def Sys2Proof.Claims.InvalidationsRunAndEnd : Prop :=
  (∀ (s : State) (part : Nat), part < 12 →
    StartsTinv (.tinvFirstStage part) s part 0 ∧ StartsTinv (.tinvSecondStage part) s part 1 ∧
    StartsTinv (.tinvAll part) s part 2 ∧ StartsTinv (.tinvWindows part) s part 3) ∧
  ∀ (s : State) (part : Nat) (c a : Dword) (rest : List (Dword × Dword)), part < 12 →
    (psched s part).tinv = (c, a) :: rest →
    let kind := bits c 1 2
    let r := tinvRange a
    (kind = 3 ∨ TinvClear s part kind r → ∃ t, exec (.invalidationComplete part) s = .next t ∧ (psched t part).tinv = rest ∧
      (pregs t part).tinvc = (if rest = [] then (pregs s part).tinvc &&& ~~~1#64 else (pregs s part).tinvc) ∧
      (∀ p, p ≠ part → pregs t p = pregs s p ∧ psched t p = psched s p) ∧ t.mem = s.mem ∧ t.groups = s.groups ∧
      (∀ e ∈ t.tlb, e ∈ s.tlb ∧ (e.part = part → kind ≠ 2 ∧
        (kind = 0 → r.1 + r.2 ≤ e.base ∨ e.base + e.size ≤ r.1) ∧
        (kind = 1 → (∃ gpa pa w x size, e.out = .page gpa pa w x true size ∧
            (r.1 + r.2 ≤ gpa ∨ gpa + e.size ≤ r.1)) ∨
          ∃ dev win off w size, e.out = .peer dev win off w true size))) ∧
      ∀ e ∈ s.tlb, e.part ≠ part → e ∈ t.tlb) ∧
    (∀ g, kind ≠ 3 → regionsHit s part kind r = [g] → groupAt s g.core g.gslot = some g → commitReady s g = true →
      ∃ t, exec (.invalidationComplete part) s = .next t ∧ groupAt t g.core g.gslot = some { g with region := none } ∧
        t.mem = (commitRegion s g).mem)

/-! ## Events of reductions -/

namespace Sys2Proof

/-- R356: the fragments a core's buffer holds, and those its slice refused. -/
def heldIn (s : State) (core : Nat) : List Frag :=
  (s.coreHeld.filterMap fun h => if h.core == core then some h.frag else none) ++
    (s.refused.filterMap fun h => if h.core == core then some h.frag else none)

/-- Where a fragment goes from its core: its home slice, or the switch (R354). -/
def onward (f : Frag) : PairUnit := if f.remote.isSome then .switch else .slice (homeSlice f.pa)

/-- A fragment of a node below the root, whose sibling exists, of no mismatched format. -/
structure Inner (f : Frag) : Prop where
  format : f.format = false
  root : f.isRoot = false
  sibling : f.siblingAbsent = false

/-- R352, R358, R360: a fragment that reaches its open descriptor's slice, which holds neither it nor its sibling. -/
structure AtSlice (s : State) (f : Frag) (r : RedOpen) : Prop where
  open' : openRed s f = some r
  free : sliceBusy s f.pa = false
  format : f.format = false
  inRange : nodeInRange f.n (labelLevel f.label) (labelIndex f.label) = true
  unwritten : softWritten s (redNow s r) = false
  dup : f.dup = false
  orphan : f.orphan = false
  new : ∀ h ∈ s.sliceHeld, h.slice = homeSlice r.descPa → f.same h.frag = false ∧ f.sibling h.frag = false
  unspilled : bvFind s r.part (homeSlice r.descPa) f.label f.fno = none
  siblingUnspilled : bvFind s r.part (homeSlice r.descPa) (siblingLabel f.label) f.fno = none

/-- A fragment of no reduction at home with this descriptor. -/
def Elsewhere (r : RedOpen) (f : Frag) : Prop := f.remote = none → ¬(f.pa = r.descPa ∧ f.part = r.part ∧ labelId f.label = r.id)

/-- The descriptor's page holds all of it, and is not retired. -/
def DescPlain (s : State) (pa : Nat) : Prop := pa % 64 = 0 ∧ inRetired s pa = false

end Sys2Proof

/-- R98, R352: two present children give their parent's fragment: the operation's node on each element, and the OR of
their flags; an absent child gives the other's data. -/
def Sys2Proof.Claims.FragmentsPair : Prop :=
  ∀ (f g : Frag), labelIndex f.label % 2 = 0 → labelIndex g.label = labelIndex f.label + 1 → f.fmt = g.fmt →
    (pairFrags f g).label = parentLabel f.label ∧ (pairFrags g f).label = parentLabel f.label ∧
    (pairFrags f g).absent = (f.absent && g.absent) ∧ (pairFrags f g).dup = (f.dup || g.dup) ∧
    (pairFrags f g).orphan = (f.orphan || g.orphan) ∧
    (f.absent = true → (pairFrags f g).data = g.data) ∧ (f.absent = false → g.absent = true → (pairFrags f g).data = f.data) ∧
    (f.absent = false → g.absent = false →
      let n := fragElems f.tile f.fmt
      let x := fun e => treeNode (redOpOf f.op) f.fmt (fragElem f.fmt f.data e) (fragElem f.fmt g.data e)
      n * ewidth f.fmt ≤ 512 → (∀ e < n, (x e).1 < 2 ^ ewidth f.fmt) →
      ∀ e < n, fragElem f.fmt (pairFrags f g).data e = (x e).1)

/-- R354, R356, R357: in its core's buffer a fragment meets its sibling, and their parent's goes on where it is the
root and else takes the child's entry; it waits for its sibling while there is room, or goes on alone; the oldest held
is forwarded in time. -/
def Sys2Proof.Claims.FragmentsMeetInTheCore : Prop :=
  ∀ (s : State) (core : Nat) (f : Frag) (owner : Option (Nat × Mask)) (rest : List InFlight),
    (s.flights = ⟨.core, core, f, owner⟩ :: rest → underTest s core = false → Inner f →
      (f.remote.isSome = true ∨ (openRed s f).isSome = true) →
      ((∀ h ∈ heldIn s core, f.same h = false ∧ f.sibling h = false) →
        (coreUsed s core (some f.part) < bits (pregs s f.part).ppair 0 9 → coreUsed s core none < 256 →
          fenced s core = false → exec .arriveAt s = .next { s with flights := rest, coreHeld := s.coreHeld ++ [⟨core, f, s.time.toNat⟩] }) ∧
        (¬(coreUsed s core (some f.part) < bits (pregs s f.part).ppair 0 9 ∧ coreUsed s core none < 256 ∧
            fenced s core = false) →
          exec .arriveAt s = .next { s with flights := rest ++ [⟨onward f, core, f, owner⟩] })) ∧
      ∀ g ∈ heldIn s core, (∀ h ∈ heldIn s core, f.same h = false ∧ (f.sibling h = true → h = g)) → f.sibling g = true →
        g.format = false → (∀ h ∈ heldIn s core, (pairFrags f g).same h = false) →
        ((pairFrags f g).isRoot = true → ∃ t, exec .arriveAt s = .next t ∧
          t.flights = rest ++ [⟨onward f, core, pairFrags f g, owner⟩] ∧
          (∀ h, h ∈ t.coreHeld ↔ h ∈ s.coreHeld ∧ ¬(h.core = core ∧ f.sibling h.frag = true)) ∧
          t = { s with flights := t.flights, coreHeld := t.coreHeld, refused := t.refused }) ∧
        (Inner (pairFrags f g) → (∀ h ∈ heldIn s core, (pairFrags f g).sibling h = false) →
          ∃ t, exec .arriveAt s = .next t ∧ t.flights = rest ∧ (∀ h, h ∈ t.coreHeld ↔
            h = ⟨core, pairFrags f g, s.time.toNat⟩ ∨ h ∈ s.coreHeld ∧ ¬(h.core = core ∧ f.sibling h.frag = true)) ∧
          t = { s with flights := t.flights, coreHeld := t.coreHeld, refused := t.refused })) ∧
    ∀ h others, FirstIn s.coreHeld (fun x => x.core = core) h others →
      (∀ x ∈ others, x.core = core → h.frag.same x.frag = false) → h.frag.same h.frag = true →
      exec (.coreBufferForward core) s = .next { s with
        coreHeld := others, flights := s.flights ++ [⟨onward h.frag, core, h.frag, none⟩] }

/-- R358, R363, R366: at its home slice a fragment without its sibling takes an entry, else a bivouac slot, and is
refused where there is neither; a refused fragment offered again is taken in when there is room, and acknowledged if
it came over a link. -/
def Sys2Proof.Claims.FragmentsMeetAtTheSlice : Prop :=
  ∀ (s : State) (f : Frag) (r : RedOpen), AtSlice s f r → Inner f →
    (∀ k core owner rest, s.flights = ⟨.slice k, core, f, owner⟩ :: rest →
      (sliceRoom s r = true → exec .arriveAt s = .next { s with
        flights := rest, sliceHeld := s.sliceHeld ++ [⟨homeSlice r.descPa, f⟩] }) ∧
      (∀ a, sliceRoom s r = false → spillSlot s r f.label f.fno = some a → a % 128 = 0 → inRetired s a = false →
        ∃ t, exec .arriveAt s = .next t ∧ t.sliceHeld = s.sliceHeld ∧ t.flights = rest ∧
          t.spills = s.spills ++ [⟨r.part, homeSlice r.descPa, a, f.label, f.fno⟩] ∧ read64 t a = f.label ∧
          (f.absent = false → bytesAt t.mem (a + 64) 64 = bytesOfNat 64 f.data.toNat) ∧
          ∀ x, x < a ∨ a + 128 ≤ x → cellAt t.mem x = cellAt s.mem x) ∧
      (sliceRoom s r = false → spillSlot s r f.label f.fno = none → exec .arriveAt s = .next { s with
        flights := rest, refused := s.refused ++ [⟨core, f, s.time.toNat, none, owner⟩] })) ∧
    ∀ x : Refused, s.refused = [x] → x.frag = f → sliceRoom s r = true → f.same f = true →
      ∃ t, exec (.fragmentReoffer x.core) s = .next t ∧ t.refused = [] ∧
        t.sliceHeld = s.sliceHeld ++ [⟨homeSlice r.descPa, f⟩] ∧
        (x.reply = none → t.outbox = s.outbox) ∧
        (∀ q, x.reply = some q → ∃ a, t.outbox = s.outbox ++ [a] ∧ a.opcode = opACK ∧ a.dst = q.src ∧ a.tag = q.tag) ∧
        t = { s with refused := t.refused, sliceHeld := t.sliceHeld, outbox := t.outbox }

/-- R274, R359, R360: the root of a scalar reduction whose contributions do not overlap and whose descriptor software
has left alone writes dest, then tick, then the state word 2, and the descriptor is no longer open. R366: a descriptor
with a fragment refused for 1 ms fails, with flag 16 and the state 3, and its fragments are discarded everywhere. -/
def Sys2Proof.Claims.ReductionsEnd : Prop :=
  ∀ (s : State) (f : Frag) (r : RedOpen), AtSlice s f r → DescPlain s r.descPa → r ∈ s.reds →
    (∀ h ∈ s.sliceHeld, ¬(h.frag.pa = r.descPa ∧ h.frag.part = r.part ∧ labelId h.frag.label = r.id)) →
    spillsOf s r = [] → (∀ x ∈ s.reds, x.part = r.part → x.id = r.id → x.closedAt = none → x = r) →
    (∀ k core owner rest dest, s.flights = ⟨.slice k, core, f, owner⟩ :: rest → r.overlap = false →
      (∀ x ∈ rest, Elsewhere r x.frag) → (∀ x ∈ s.coreHeld, Elsewhere r x.frag) → (∀ x ∈ s.refused, Elsewhere r x.frag) →
      f.isRoot = true → f.tile = false → f.absent = false →
      r.roots = [] → r.dest.head? = some dest → dest % 8 = 0 → (dest + 8 ≤ r.descPa ∨ r.descPa + 64 ≤ dest) →
      inRetired s dest = false → redBytes f.fmt ≤ 8 →
      ∃ t, exec .arriveAt s = .next t ∧ bytesAt t.mem dest (redBytes f.fmt) = bytesOfNat (redBytes f.fmt) f.data.toNat ∧
        read64 t (r.descPa + 0x28) = s.time ∧ bits (read64 t (r.descPa + 0x20)) 0 3 = 2 ∧
        (f.nv = true → (read64 t (r.descPa + 0x20)).getLsbD 8 = true) ∧
        (f.of = true → (read64 t (r.descPa + 0x20)).getLsbD 9 = true) ∧ openRed t f = none ∧ t.flights = rest) ∧
    (∀ x : Refused, s.refused = [x] → x.frag = f → x.core ≠ 192 → f.remote = none → x.since + 1000000 ≤ s.time.toNat →
      ringOn (pregs s r.part).eqcfg = false →
      ∃ t, exec (.spillExhausted x.core) s = .next t ∧ bits (read64 t (r.descPa + 0x20)) 0 3 = 3 ∧
        (read64 t (r.descPa + 0x20)).getLsbD 16 = true ∧ openRed t f = none ∧ t.refused = [] ∧
        (∀ h ∈ t.coreHeld, h.frag.remote = none → ¬(h.frag.pa = r.descPa ∧ h.frag.part = r.part ∧ labelId h.frag.label = r.id)) ∧
        ∀ h ∈ t.flights, h.frag.remote = none → ¬(h.frag.pa = r.descPa ∧ h.frag.part = r.part ∧ labelId h.frag.label = r.id))

/-- R270, R271: the oldest red.init opens its well-formed descriptor with an id in use by no other, never 0; a
malformed one fails with flag 20. R451, R453: a slot that has waited its timeout sends its fragments on and is free; a
refused key forgotten for as long may ask again. -/
def Sys2Proof.Claims.DescriptorsOpenAndSlotsTimeOut : Prop :=
  (∀ (s : State) (q : RedInitReq) (rest : List RedInitReq), s.redReqs = q :: rest → sliceBusy s q.descPa = false →
    DescPlain s q.descPa → bits (read64 s (q.descPa + 0x20)) 0 3 ≠ 1 →
    (descMalformed s q.descPa = false → (usedIds s q.part).length < 2 ^ 24 - 1 →
      ∃ t id image, exec .sliceRedInit s = .next t ∧ id ≠ 0 ∧ id ∉ usedIds s q.part ∧ t.redReqs = rest ∧
        (⟨id, q.part, q.descPa, q.dest, [], false, image, false, none⟩ : RedOpen) ∈ t.reds ∧
        image = (List.range 6).map (fun i => read64 t (q.descPa + 8 * i)) ∧
        read64 t (q.descPa + 0x20) = BitVec.ofNat 64 (1 + id.toNat * 2 ^ 40) ∧
        ∀ x, x < q.descPa + 0x20 ∨ q.descPa + 0x28 ≤ x → cellAt t.mem x = cellAt s.mem x) ∧
    (descMalformed s q.descPa = true → ringOn (pregs s q.part).eqcfg = false →
      ∃ t, exec .sliceRedInit s = .next t ∧ t.reds = s.reds ∧ t.redReqs = rest ∧
        read64 t (q.descPa + 0x20) = BitVec.ofNat 64 (3 + 2 ^ 20))) ∧
  (∀ (s : State) (x : SwitchSlot), s.slots.find? (fun y => y.idx == x.idx) = some x →
    (s.time.toNat < x.last + slotTimeoutNs s → exec (.slotTimeout x.idx) s = .next s) ∧
    (x.last + slotTimeoutNs s ≤ s.time.toNat → (∀ f ∈ x.frags, f.remote.isSome = true) →
      ∃ t, exec (.slotTimeout x.idx) s = .next t ∧ (∀ y ∈ t.slots, y.idx ≠ x.idx) ∧
        t.outbox.length = s.outbox.length + x.frags.length ∧
        (∀ p ∈ t.outbox.drop s.outbox.length, p.opcode = opFRAG ∧ p.mclass = 1) ∧ t.mem = s.mem)) ∧
  ∀ (s : State) (key : SlotKey), ∃ t, exec (.keyPassExpiry key) s = .next t ∧
    (∀ x, x ∈ t.passing ↔ x ∈ s.passing ∧ ¬(x.1 = key ∧ x.2 + slotTimeoutNs s ≤ s.time.toNat)) ∧
    t = { s with passing := t.passing }

/-- R106, R109, R113: the nodes of a range of leaves cover it in ascending order, and none of them can be replaced by
its parent; the pending nodes of a run within its span, from the highest present level down, are those of the leaves
it covers. -/
def Obligations.RunsAreDecomposed : Prop :=
  (∀ a b : Nat, a < b →
    ((decompose a b).flatMap fun x => (List.range (2 ^ x.1)).map fun k => x.2 * 2 ^ x.1 + k) =
      (List.range (b - a)).map (fun k => a + k) ∧
    ∀ x ∈ decompose a b, ¬(a ≤ x.2 / 2 * 2 ^ (x.1 + 1) ∧ (x.2 / 2 + 1) * 2 ^ (x.1 + 1) ≤ b)) ∧
  ∀ base m c : Nat, c ≤ accSpan m →
    ((pendingNodes m c 16).map fun x => (base + x.1, x.2)) = decompose (m * 2 ^ base) ((m + c) * 2 ^ base)

/-! ## Events of commands -/

namespace Sys2Proof

/-- R292, R310, R328: a queued command whose guard's tags are 0, whose queue has started every earlier command, whose
accumulators no earlier command of its team names, and before which no command on its path has still to make accesses
(copies: to find out where they go); its team and its core run. -/
structure Startable (s : State) (k : Cmd) : Prop where
  here : cmdOf s k.cid = some k
  queued : k.phase = .queued
  team : ∃ tm, teamOf s k.gid k.team = some tm ∧ tm.phase = .running
  paused : (psched s k.part).paused = false
  slowed : (psched s k.part).slowed = false
  tested : underTest s k.core = false
  fast : throttled s k.core = false
  order : ∀ x ∈ s.cmds, x.gid = k.gid → x.team = k.team → x.cid < k.cid →
    (x.guard = k.guard → x.phase ≠ .queued) ∧ ∀ a ∈ x.op.accs, a ∉ k.op.accs
  path : ∀ x ∈ startedBefore s k, x.phase ≠ .started ∧ (k.op.path = some true ∨ x.phase = .worked)
  tags : ∀ n, k.guard = some n → (guardSlotOf s k.gid k.team n).wmask &&& teamTags s k.gid k.team = 0

/-- R310: the guard of a command names no flag, or its flag has met its condition. -/
def FlagPassed (s : State) (k : Cmd) : Prop :=
  k.flagMet = true ∨ ∀ n, k.guard = some n →
    (guardSlotOf s k.gid k.team n).fcond = 0 ∨ (guardSlotOf s k.gid k.team n).faddr = 0

/-- R310: the condition of a guard slot on a flag. -/
def FlagMeets (x : GuardSlot) (v : Dword) : Prop :=
  (x.fcond = 1 ∧ v = x.fval) ∨ (x.fcond = 2 ∧ v ≠ x.fval) ∨ (x.fcond = 3 ∧ x.fval.toNat ≤ v.toNat)

/-- R312: what the completion of a command makes of a guard slot. -/
def slotDone (k : Cmd) (n : Nat) (x : GuardSlot) : GuardSlot :=
  if k.guard = some n then
    { x with
      done := x.done + 1
      fcause := if k.cause ≠ 0 ∧ x.fcount = 0 then BitVec.ofNat 8 k.cause else x.fcause
      fcount := if k.cause ≠ 0 then x.fcount + 1 else x.fcount }
  else x

/-- The command names a copy tag, or counts in it through its guard slot (R306). -/
def NamesTag (k : Cmd) (n : Nat) : Prop := k.dtag = some n ∨ k.op.tag = some n

/-- R293, R306, R310, R312: the command k has completed: it is gone, its slot's counts and the last of its tags have
changed, a failure is recorded in its grid and, for a matrix command or a load, in its accumulators. -/
structure Completed (s t : State) (k : Cmd) : Prop where
  gone : ∀ x, x ∈ t.cmds ↔ x ∈ s.cmds ∧ x.cid ≠ k.cid
  team : ∀ tm, teamOf s k.gid k.team = some tm → ∃ tm', teamOf t k.gid k.team = some tm' ∧
    (∀ n < 64, tm'.tags.getLsbD n = true ↔ tm.tags.getLsbD n = true ∧
      (NamesTag k n → ∃ x ∈ t.cmds, x.gid = k.gid ∧ x.team = k.team ∧ NamesTag x n)) ∧
    (∀ n < 8, vget tm'.g n slotZero = slotDone k n (vget tm.g n slotZero)) ∧
    (∀ n, accOf tm' n = (accOf tm n).map fun a =>
      if k.cause ≠ 0 ∧ k.op.allOrNothing = true ∧ n ∈ k.op.accs then { a with fault := true } else a) ∧
    tm' = { tm with tags := tm'.tags, g := tm'.g, accs := tm'.accs }
  grid : gridOf t k.gid = (gridOf s k.gid).map fun g => { g with cfail := g.cfail || k.cause != 0 }
  groups : t.groups = s.groups
  clean : k.cause = 0 → t.mem = s.mem ∧ t.parts = s.parts

end Sys2Proof

/-- R292, R302, R312 to R314, R316, R396: a command starts once it may: acc.zero clears the words and dynamic state, a
held launch enters the pending set once that has room, a user event goes to Lantern, a plan's record is read and the
plan waits for a context, and acc.fold, acc.store and acc.ctrb of a faulted accumulator fail with cause 7 and do
nothing else. One that may not start stays queued. -/
def Sys2Proof.Claims.CommandsStart : Prop :=
  ∀ (s : State) (k : Cmd), Startable s k → k.cause = 0 →
    let starts := fun (k' : Cmd) (P : State → Prop) =>
      ∃ t n, exec (.commandStart k.cid) s = .next t ∧ cmdOf t k.cid = some { k' with order := n } ∧ P t
    let e : TapEv := ⟨2047, BitVec.ofNat 10 (bits (match k.op with | .lnt v => v | _ => 0) 0 10), BitVec.ofNat 4 k.part,
      BitVec.ofNat 48 (bits (match k.op with | .lnt v => v | _ => 0) 16 48), s.time⟩
    (FlagPassed s k →
      (∀ n tm a, k.op = .accZero n → teamOf s k.gid k.team = some tm → accOf tm n = some a →
        starts { k with phase := .worked } fun t => ∃ tm', teamOf t k.gid k.team = some tm' ∧
          accOf tm' n = some { Acc.cleared n with ctl := a.ctl, fmt := a.fmt } ∧
          (∀ m, m ≠ n → accOf tm' m = accOf tm m) ∧ tm' = { tm with accs := tm'.accs }) ∧
      (∀ h, k.op = .launch h →
        (pendingCount s k.part < 1024 → starts { k with phase := .worked } fun t =>
          t.grids = s.grids.map fun g => if g.part = k.part ∧ g.handle = h then { g with held := false } else g) ∧
        (1024 ≤ pendingCount s k.part → starts { k with phase := .started } fun t => t.grids = s.grids)) ∧
      (∀ v, k.op = .lnt v →
        (s.lantern.taps.filter fun x => x.source == 2047#11 && x.part == BitVec.ofNat 4 k.part).length < 64 →
        fenced s 3492 = false →
        starts { k with phase := .worked } fun t => t.lantern = { s.lantern with taps := s.lantern.taps ++ [e] }) ∧
      (∀ a pa m, k.op = .plan a → a.toNat < 2 ^ 56 → a.toNat % 256 ≤ 192 →
        access s (copyTlb k.core) k.part k.gid a.toNat false false = .ok pa m → sliceBusy s pa = false →
        poisoned s pa 64 = false →
        starts { k with phase := .planning, record := bytesAt s.mem pa 64 } fun t => t.mem = s.mem) ∧
      (∀ tm n a ctl fmt addr, teamOf s k.gid k.team = some tm → accOf tm n = some a → a.fault = true →
        (k.op = .accFold n ctl fmt false ∨ k.op = .accStore n addr ctl fmt false) →
        starts { k with phase := .worked, cause := 7 } fun t => t.mem = s.mem ∧ t.teams = s.teams)) ∧
    (¬FlagPassed s k → ∃ t, exec (.commandStart k.cid) s = .next t ∧ t = { s with freeCtr := t.freeCtr })

/-- R293, R306, R310, R312: a command whose work is done and whose remote accesses are answered completes. -/
def Sys2Proof.Claims.CommandsComplete : Prop :=
  ∀ (s : State) (k : Cmd), cmdOf s k.cid = some k → k.phase = .worked → k.remote = 0 → nodesFlying s k 0 = false →
    ∃ t, exec (.commandComplete k.cid) s = .next t ∧ Completed s t k

/-- R310: the engine reads the flag of a guarded command, whose other conditions hold, and remembers whether it met
the slot's condition; a flag in a peer window fails the command with cause 1, one on a page that is not resident with
cause 2, and that page is asked for. -/
def Sys2Proof.Claims.GuardFlagsAreRead : Prop :=
  ∀ (s : State) (k : Cmd) (n : Nat), Startable s k → k.guard = some n → k.flagMet = false → k.cause = 0 →
    let x := guardSlotOf s k.gid k.team n
    x.fcond ≠ 0 → x.faddr ≠ 0 → x.faddr.toNat < 2 ^ 56 →
    let meets := access s (copyTlb k.core) k.part k.gid x.faddr.toNat false false
    (∀ pa m, meets = .ok pa m → sliceBusy s pa = false →
      poisoned s pa 8 = false →
      ∃ t b, exec (.guardFlagRead k.cid) s = .next t ∧ cmdOf t k.cid = some { k with flagMet := b } ∧
        (b = true ↔ FlagMeets x (read64 s pa)) ∧ t = { s with cmds := t.cmds, tlb := t.tlb, freeCtr := t.freeCtr }) ∧
    (∀ dev win off, meets = .peer dev win off →
      ∃ t, exec (.guardFlagRead k.cid) s = .next t ∧ Completed s t { k with cause := 1 }) ∧
    (meets = .nonresident →
      ∃ t, exec (.guardFlagRead k.cid) s = .next t ∧
        Completed (postRes s k.part 1 k.gid x.faddr.toNat) t { k with cause := 2 })

/-- R307, R308, R323: a copy moves its next element, a FIFO bank permitting: it writes it to memory, or appends it to
a bank that has room; while the bank has none, or has not the bytes to take, the command waits as it is. Its last
element done, its work is done. -/
def Sys2Proof.Claims.CopiesMoveElements : Prop :=
  ∀ (s : State) (k : Cmd) (m : Move) (ms : List Move), cmdOf s k.cid = some k → k.phase = .streaming → k.moves = m :: ms →
    let after := { k with moves := ms, phase := if ms = [] then CmdPhase.worked else CmdPhase.streaming }
    (∀ v, k.takes = [] → m.val = some v → m.half = none →
      (∀ pa, m.dst = .mem pa → (∀ i < m.bytes, inRetired s (pa + i) = false) → 0 < m.bytes →
        ∃ t, exec (.cpyFifoElement k.cid) s = .next t ∧ cmdOf t k.cid = some after ∧
          bytesAt t.mem pa m.bytes = bytesOfNat m.bytes v ∧
          ∀ x, x < pa ∨ pa + m.bytes ≤ x → cellAt t.mem x = cellAt s.mem x) ∧
      (∀ tm b off x, m.dst = .stage tm b off true → stageBank s k.gid tm b = some x →
        (x.count + m.bytes ≤ 65536 →
          ∃ t x', exec (.cpyFifoElement k.cid) s = .next t ∧ cmdOf t k.cid = some after ∧
            stageBank t k.gid tm b = some x' ∧ x'.count = x.count + m.bytes ∧ x'.rd = x.rd ∧
            (∀ i < m.bytes, bankByte x' ((x.wr + i) % 65536) = BitVec.ofNat 8 (v / 256 ^ i)) ∧ t.mem = s.mem) ∧
        (65536 < x.count + m.bytes →
          ∃ t, exec (.cpyFifoElement k.cid) s = .next t ∧ cmdOf t k.cid = some k ∧ t = { s with cmds := t.cmds }))) ∧
    ∀ idx tm b off x rest, k.takes = (idx, .stage tm b off true) :: rest → m.idx = idx → m.val = none →
      k.low = [] → stageBank s k.gid tm b = some x → x.count < m.bytes →
      ∃ t, exec (.cpyFifoElement k.cid) s = .next t ∧ cmdOf t k.cid = some k ∧ t = { s with cmds := t.cmds }

/-! ## Events of launches and teams -/

namespace Sys2Proof

/-- R397: the queue of a virtual function of a partition has a record to take and the pending set has room. -/
structure QueueHas (s : State) (vf part slots : Nat) : Prop where
  owner : vfOwner s vf = some part
  slots : queueSlots (vfRegs s vf) = some slots
  record : (vfRegs s vf).lqrd.toNat < (vfRegs s vf).lqwr.toNat

/-- R394: the address of the record at the head of a queue. -/
def headRecord (s : State) (vf slots : Nat) : Nat :=
  bits (vfRegs s vf).lqbase 7 45 * 128 + 128 * ((vfRegs s vf).lqrd.toNat % slots)

/-- R394, R396, R398: what the event e makes of the record at a queue's head: an accepted one is pending under its handle, a
refused one has ended, failed, with its cause, and the queue moves on; for one whose page is absent the page is asked for,
and the queue tries again from now. -/
def TakesRecord (e : Instr) (s : State) (vf part slots : Nat) : Prop :=
  let moved := BitVec.ofNat 64 (((vfRegs s vf).lqrd.toNat + 1) % 2 ^ 40)
  let handle := hostHandle vf (vfRegs s vf).lqrd.toNat
  (∀ r, takeRecord s part vf (headRecord s vf slots) = .accepted r →
    ∃ t g, exec e s = .next t ∧ t.grids = s.grids ++ [g] ∧ g.handle = handle ∧ g.part = part ∧ g.record = r ∧
      g.phase = .pending ∧ g.held = false ∧ g.nextTeam = 0 ∧ (vfRegs t vf).lqrd = moved ∧ t.mem = s.mem) ∧
  (∀ r cause, takeRecord s part vf (headRecord s vf slots) = .refused r cause →
    ∃ t g, exec e s = .next t ∧ t.grids = s.grids ++ [g] ∧ g.handle = handle ∧ g.phase = .ended ∧ g.outcome = 1 ∧
      g.cause = BitVec.ofNat 8 cause ∧ (vfRegs t vf).lqrd = moved) ∧
  (∀ r errs, takeRecord s part vf (headRecord s vf slots) = .unread r errs →
    ∃ t g, exec e s = .next t ∧ t.grids = s.grids ++ [g] ∧ g.handle = handle ∧ g.phase = .ended ∧ g.outcome = 1 ∧
      g.cause = 1 ∧ (vfRegs t vf).lqrd = moved) ∧
  (∀ va, takeRecord s part vf (headRecord s vf slots) = .absent va →
    ∃ t, exec e s = .next t ∧ t.grids = s.grids ∧ vfRegs t vf = { vfRegs s vf with retryAt := some s.time.toNat } ∧
      t.parts = (postRes s part 3 0 va).parts ∧ t.mem = (postRes s part 3 0 va).mem)

/-- R57: the registers and the split of a group at its start: grpid i of a team of g on a core. -/
structure Fresh (s : State) (g : Grid) (core team i : Nat) (x : Group) : Prop where
  place : x.core = core ∧ x.gid = g.gid ∧ x.team = team ∧ x.grpid = i
  vector : ∀ n < 120, vget x.v n ⟨1, lanesOf fun _ => 1⟩ = VReg.zero
  blocks : x.held = 0
  index : x.xi = 0
  preds : ∀ n < 8, vget x.q n 1 = 0
  scalars : x.s = g.record.args.foldl (fun v a => vset v a.1 a.2) (Vector.replicate 64 0)
  sticky : ∀ l < 32, vget x.lst l 1 = 0
  control : x.ctl = 0 ∧ x.hz = 0 ∧ x.region = none ∧ x.parked = [] ∧ x.prio = false
  split : (splitAt x 0).arch = ⟨g.record.entry, noRejoin, BitVec.ofNat 32 (2 ^ min 32 (g.record.lanes - 32 * i) - 1), .ready, []⟩
  others : ∀ e, 1 ≤ e → e < 4 → (splitAt x e).live = false

/-- R420: the place i of the shedding order, among those in use, names the partition. -/
def ShedAt (s : State) (part i : Nat) : Prop := i < shedCount s ∧ bits s.dev.shedord (4 * i) 4 = part

/-- R420, R421: n steps of the shedding order have been taken: what each partition is. -/
def ShedIs (s t : State) (n : Nat) : Prop :=
  t.shed = n ∧ t.shedAt = s.time.toNat ∧ ∀ part < 12,
    ((psched t part).slowed = true ↔ ∃ i, ShedAt s part i ∧ i < n) ∧
    ((psched t part).paused = true ↔ ∃ i, ShedAt s part i ∧ shedCount s + i < n) ∧
    ((psched t part).evicted = true ↔ ∃ i, ShedAt s part i ∧ 2 * shedCount s + i < n)

end Sys2Proof

/-- R394, R396 to R398: a launch queue's head is taken while the pending set has room and no retry is due, and again,
with room there, 100 µs after its page was found absent; a write index behind the read index, or beyond the ring,
disables the queue. -/
def Sys2Proof.Claims.LaunchQueuesAreTaken : Prop :=
  ∀ (s : State) (vf part slots : Nat), vf < 256 → QueueHas s vf part slots →
    ((vfRegs s vf).retryAt = none → pendingCount s part < 1024 → TakesRecord (.launchQueueTake vf) s vf part slots) ∧
    (∀ n, (vfRegs s vf).retryAt = some n → n + 100000 ≤ s.time.toNat → pendingCount s part < 1024 →
      TakesRecord (.launchRecordRetry vf) s vf part slots) ∧
    (∀ n, (vfRegs s vf).retryAt = some n → s.time.toNat < n + 100000 ∨ 1024 ≤ pendingCount s part →
      ∃ t, exec (.launchRecordRetry vf) s = .next t ∧ t = { s with freeCtr := t.freeCtr }) ∧
    ∀ value, let wr := bits value 0 40
      let rd := (vfRegs s vf).lqrd.toNat
      (rd ≤ wr → wr ≤ rd + slots → ∃ t, exec (.lqwrWrite vf value) s = .next t ∧
        vfRegs t vf = { vfRegs s vf with lqwr := BitVec.ofNat 64 wr } ∧ t = { s with vfs := t.vfs }) ∧
      (wr < rd ∨ rd + slots < wr → ∃ t, exec (.lqwrWrite vf value) s = .next t ∧ (vfRegs t vf).off = true ∧
        queueSlots (vfRegs t vf) = none)

/-- R396, R398: the first pending record whose dependences have ended enters placement; it is cancelled where one did
not complete, unless it asks for the end only, and fails with PLACE where it can never fit; it ends at once, no access
of it being outstanding. -/
def Sys2Proof.Claims.PendingRecordsAreReleased : Prop :=
  ∀ (s : State) (g : Grid) (rest : List Grid),
    FirstIn s.grids (fun x => x.part = g.part ∧ x.phase = .pending ∧ x.held = false ∧
      ∀ h ∈ x.record.deps, depState s g.part h ≠ .waits) g rest →
    gridOf s g.gid = some g → gridQuiet s g.gid = true →
    let broken := ∃ h ∈ g.record.deps, depState s g.part h = .broken
    let becomes := fun g' => ∃ t, exec (.pendingRelease g.part) s = .next t ∧ gridOf t g.gid = some g'
    (broken → g.record.aft = false → becomes { g with phase := .ended, outcome := 2, cause := 3 }) ∧
    (¬(broken ∧ g.record.aft = false) → neverFits s g.part g.record = true →
      becomes { g with phase := .ended, outcome := 1, cause := 4 }) ∧
    (¬(broken ∧ g.record.aft = false) → neverFits s g.part g.record = false → becomes { g with phase := .placing })

/-- R57, R401, R402: the next team of a grid of single-core clusters, whose turn it is, starts on a core where it fits
and whose space is not held back for another, with every register as R57 gives it (and hz, which R57 leaves out, 0:
the model's choice, log 133). R402: a team with no group, command, remote line or acknowledgement left ends, and with
the last of a grid the grid completes, at once where no access of it is outstanding; one that still has remote lines
has them drain. -/
def Sys2Proof.Claims.TeamsStartAndEnd : Prop :=
  (∀ (s : State) (g : Grid) (core : Nat), gridOf s g.gid = some g → g.phase = .placing → g.nextTeam < g.record.teams →
    g.record.cw = 1 → g.record.chh = 1 → g.record.cores = false → mayPlace s g.part = true → placeTurn s g = true →
    fitsOn s g.part core g.record = true → heldBack s g core = false → freeAreas s g.part ≠ [] → teamOf s g.gid g.nextTeam = none →
    ∃ t tm gs, exec (.teamPlace g.gid [core]) s = .next t ∧ teamOf t g.gid g.nextTeam = some tm ∧ tm.phase = .running ∧
      tm.part = g.part ∧ tm.core = core ∧ tm.tags = 0 ∧ tm.accs = [] ∧ tm.groups = g.record.groups ∧
      tm.banks.length = g.record.banks ∧ (∀ b ∈ tm.banks, b.mode = 1 ∧ b.target = none ∧ fenced s (256 + 16 * core + b.phys) = false) ∧
      tm.area ∈ freeAreas s g.part ∧ (∀ n < 16, vget tm.w n 1 = 0) ∧ (∀ n < 8, vget tm.g n slotZero = slotZero) ∧
      t.groups = s.groups ++ gs ∧ gs.length = g.record.groups ∧
      (∀ i x, gs[i]? = some x → Fresh s g core g.nextTeam i x ∧ x.gslot ∈ freeSlots s core g.part) ∧
      gridOf t g.gid = some { g with nextTeam := g.nextTeam + 1, rect := [] } ∧ t.mem = s.mem) ∧
  ∀ (s : State) (tm : Team) (g : Grid), teamOf s tm.gid tm.team = some tm → tm.phase ≠ .saved → tm.phase ≠ .removed →
    (∀ x ∈ s.groups, ¬(x.gid = tm.gid ∧ x.team = tm.team)) → gridOf s tm.gid = some g → g.phase ≠ .ended → g.phase ≠ .ending →
    ((∀ k ∈ s.cmds, ¬(k.gid = tm.gid ∧ k.team = tm.team)) → remoteQuiet s tm.gid tm.team = true →
      ∃ t g', exec (.teamEnd tm.gid tm.team) s = .next t ∧ teamOf t tm.gid tm.team = none ∧
        gridOf t tm.gid = some g' ∧ g'.endedTeams = g.endedTeams + 1 ∧
        (g.endedTeams + 1 ≠ g.record.teams → g'.phase = g.phase) ∧
        (g.endedTeams + 1 = g.record.teams → g'.outcome = 0 ∧ g'.cause = 0 ∧
          (gridQuiet s tm.gid = true → g'.phase = .ended))) ∧
    (remoteQuiet s tm.gid tm.team = false →
      ∃ t, exec (.teamEnd tm.gid tm.team) s = .next t ∧ t = { s with rwc := t.rwc } ∧
        ∀ l ∈ t.rwc, l.gid = tm.gid → l.team = tm.team → l.age = 0)

/-- R410, R412: a grid that asks for space, before which no other of its partition does, gets the rectangle where
leaving is estimated to cost least, the first of equals: the victims there leave, each cluster in its mode, the others
stay, and the space is held back for it (single-core clusters). -/
def Sys2Proof.Claims.SpaceIsFreed : Prop :=
  ∀ (s : State) (g : Grid) (b : Nat) (v : List (List Team)), gridOf s g.gid = some g → g.record.cw = 1 → g.record.chh = 1 →
    g.record.cores = false → asksForSpace s g = true →
    (∀ x ∈ s.grids, x.part = g.part → x.before g = true → asksForSpace s x = false) →
    let mode := fun ts => clusterMode s g.record.bound ts
    let cost := fun (v : List (List Team)) => (v.map fun ts => (mode ts).2).sum
    b < 192 → victimsAt s (.fresh g) false b = some v →
    (∀ b' < 192, ∀ v', victimsAt s (.fresh g) false b' = some v' → cost v ≤ cost v' ∧ (b' < b → cost v < cost v')) →
    (∀ ts ∈ v, ∃ x ∈ ts, x.core = b ∧ x.phase = .running ∧ x.part = g.part ∧
      (g.record.cls < classOfGrid s x.gid ∨ ∀ y ∈ ts, allWaitl s y = true)) ∧
    fitsSomewhere (without (onceLeft s g.part) v.flatten) g = true ∧
    ∃ t, exec (.preemptionRequest (v.flatten.map fun x => (x.gid, x.team)) g.gid
        (v.flatMap fun ts => ts.map fun _ => (mode ts).1)) s = .next t ∧ gridOf t g.gid = some { g with rect := [b] } ∧
      t = { s with teams := t.teams, grids := t.grids, freeCtr := t.freeCtr } ∧
      ∀ tm, teamOf s tm.gid tm.team = some tm → ((∀ ts ∈ v, tm ∉ ts) → teamOf t tm.gid tm.team = some tm) ∧
        ∀ ts ∈ v, tm ∈ ts → tm.phase = .running → teamOf t tm.gid tm.team = some { tm with
          phase := if (mode ts).1 = .drain then .draining else .saving (mode ts).1, requestedAt := s.time.toNat }

/-- R412: the mode of leaving: save where a team's splits all wait in eng.waitl or no mode's estimate meets the bound,
and otherwise one that meets it; never drain where the estimate is infinite, and discard only where every group has an
open region and the grid is not co-resident. -/
def Sys2Proof.Claims.ModesOfLeaving : Prop :=
  ∀ (s : State) (g : Grid) (ts : List Team) (bound : Nat),
    let m := modeFor s g ts bound
    ((∃ x ∈ ts, allWaitl s x = true) → m.1 = .save) ∧ (m.1 ≠ .save → m.2 ≤ bound) ∧
    (m.1 = .drain → g.record.drh ≠ 0 ∧ ∀ x ∈ ts, g.record.drh - (s.time.toNat - x.placedAt) / 1000 ≤ bound) ∧
    (m.1 = .discard → g.record.cores = false ∧
      ∀ x ∈ ts, ∀ y ∈ s.groups, y.gid = x.gid → y.team = x.team → y.region.isSome = true) ∧
    (g.record.drh ≠ 0 → (∀ x ∈ ts, allWaitl s x = false) →
      (∀ x ∈ ts, g.record.drh - (s.time.toNat - x.placedAt) / 1000 ≤ bound) →
      ∃ x, (x = 0 ∨ ∃ y ∈ ts, x = g.record.drh - (s.time.toNat - y.placedAt) / 1000) ∧ m.2 ≤ x)

/-- R415 to R417: a time slice that has ended makes the team leave where something of its class or a lower number
waits for its space that the teams now leaving do not make room for, in the mode for the waiter's bound, or for the
slice where it has none; it begins anew where nothing does, and goes on while it has not ended. -/
def Sys2Proof.Claims.TimeSlicesEnd : Prop :=
  ∀ (s : State) (tm : Team) (g : Grid), gridOf s tm.gid = some g → teamOf s tm.gid tm.team = some tm →
    companions s g tm.team = [tm] →
    let us := bits (pregs s tm.part).tslice 0 20
    let past := us ≠ 0 ∧ tm.phase = .running ∧ (psched s tm.part).paused = false ∧ throttled s tm.core = false ∧
      tm.sliceStart + 1000 * us ≤ s.time.toNat
    let wants := fun (w : Waiter) => w.grid.record.cls ≤ g.record.cls ∧ w.fitsNow s = false ∧
      w.fitsNow (onceLeft s tm.part) = false ∧ sliceRect s w tm ≠ none
    (past → (∀ w ∈ waitersOf s tm.part, ¬wants w) → ∃ t, exec (.timeSliceEnd tm.gid tm.team) s = .next t ∧
      teamOf t tm.gid tm.team = some { tm with sliceStart := s.time.toNat } ∧
      t = { s with teams := t.teams, freeCtr := t.freeCtr }) ∧
    (∀ w rest, past → FirstIn (waitersOf s tm.part) wants w rest →
      let m := (modeFor s g [tm] (if w.grid.record.bound = 0 then us else w.grid.record.bound)).1
      ∃ t, exec (.timeSliceEnd tm.gid tm.team) s = .next t ∧ teamOf t tm.gid tm.team = some { tm with
        phase := if m = .drain then .draining else .saving m, requestedAt := s.time.toNat }) ∧
    (¬past → ∃ t, exec (.timeSliceEnd tm.gid tm.team) s = .next t ∧ t = { s with freeCtr := t.freeCtr })

/-- R406, R411 to R414: a team being saved, alone, whose work has stopped has its context written, and leaves its core
with its slots, banks and accumulators, the ages of its splits kept; a saved one whose turn it is comes back onto a
core where it fits with what its records hold (and hz the time of the restore: the model's choice, log 84), and its
queued commands with it; a malformed record fails its grid with RESTORE. -/
def Sys2Proof.Claims.TeamsAreSavedAndRestored : Prop :=
  (∀ (s : State) (tm : Team), teamOf s tm.gid tm.team = some tm → tm.phase = .saving .save → atBoundary s tm = true →
    commandsIdle s tm = true → accessesIdle s tm = true → savedWith s tm = [tm] →
    (∀ x ∈ s.groups, x.gid = tm.gid → x.team = tm.team → x.region = none) →
    ∃ t, exec (.contextWritten tm.gid tm.team) s = .next t ∧ t.mem = (writeContext s tm).mem ∧
      teamOf t tm.gid tm.team = some { tm with phase := .saved, banks := [], accs := [], wq := [], ages := agesOf s tm } ∧
      (∀ x ∈ t.groups, ¬(x.gid = tm.gid ∧ x.team = tm.team)) ∧ t.cmds = s.cmds) ∧
  ∀ (s : State) (tm : Team) (g : Grid) (core : Nat), teamOf s tm.gid tm.team = some tm → tm.phase = .saved →
    gridOf s tm.gid = some g → g.record.cw = 1 → g.record.chh = 1 → g.record.cores = false → g.phase ≠ .ended → g.phase ≠ .ending →
    (∀ x ∈ s.teams, x.gid = tm.gid → x.team = tm.team → x = tm) → mayPlace s tm.part = true → restoreTurn s tm = true →
    let pa := areaBase s tm.part tm.area
    (contextOk s tm g.record.banks = true → fitsBack s tm core g.record = true →
      heldBack s g core = false →
      ∃ t tm', exec (.teamRestore tm.gid tm.team core) s = .next t ∧ teamOf t tm.gid tm.team = some tm' ∧
        tm'.phase = .running ∧ tm'.core = core ∧ tm'.tags = read64 s (pa + 0x288) ∧
        (∀ n < 16, vget tm'.w n 0 = read64 s (pa + 8 * n)) ∧ tm'.banks.length = g.record.banks ∧
        (∀ x ∈ t.groups, x ∈ s.groups ∨ (x.core = core ∧ x.gid = tm.gid ∧ x.team = tm.team ∧
          (∀ n < 64, vget x.s n 0 = read64 s (groupBase s tm x.grpid + 0x1080 + 8 * n)) ∧
          x.ctl = read64 s (groupBase s tm x.grpid + 0x12C8) ∧ x.hz = s.time ∧ x.region = none)) ∧
        (∀ k ∈ t.cmds, k.gid = tm.gid → k.team = tm.team → k.core = core) ∧ t.mem = s.mem) ∧
    (contextOk s tm g.record.banks = false → gridQuiet s tm.gid = true → ∃ t, exec (.teamRestore tm.gid tm.team core) s = .next t ∧
      gridOf t tm.gid = some { g with phase := .ended, outcome := 1, cause := 5 })

/-- R419 to R421: 8 µs without a mark raise a rate by a 64th, up to the full rate. 100 µs after the last, one more
step of the shedding order is taken while the measured power exceeds the cap, and 1 ms after it the last is undone
while the power is 5 % below it; each step slows, then pauses, then evicts a partition of the order. -/
def Sys2Proof.Claims.RatesRecoverAndPowerIsShed : Prop :=
  (∀ (s : State) (r : Rate), s.rates.find? (fun x => x.part == r.part && x.group == r.group) = some r →
    (r.marked + 8000 ≤ s.time.toNat → ∃ t, exec (.rateRecovery r.part r.group) s = .next t ∧
      rateOf t r.part r.group = min 64 (r.rate + 1) ∧
      (∀ p g, ¬(p = r.part ∧ g = r.group) → rateOf t p g = rateOf s p g) ∧ t = { s with rates := t.rates }) ∧
    (s.time.toNat < r.marked + 8000 → exec (.rateRecovery r.part r.group) s = .next s)) ∧
  ∀ (s : State) (watts : Nat),
    let cap := 1000 * bits s.dev.shedcfg 0 12
    let more := cap < watts ∧ s.shed < 3 * shedCount s ∧ (s.shed = 0 ∨ s.shedAt + 100000 ≤ s.time.toNat)
    let less := 100 * watts ≤ 95 * cap ∧ 0 < s.shed ∧ s.shedAt + 1000000 ≤ s.time.toNat
    (more → ∃ t, exec (.shedStep watts) s = .next t ∧ ShedIs s t (s.shed + 1)) ∧
    (¬more → exec (.shedStep watts) s = .next s) ∧
    (less → ∃ t, exec (.shedUndo watts) s = .next t ∧ ShedIs s t (s.shed - 1)) ∧
    (¬less → exec (.shedUndo watts) s = .next s)

/-! ## Events of the fabric -/

namespace Sys2Proof

/-- R428, R432: a well-formed packet of an opcode for this device, from a device of the fabric, the next of its channel, on
which nothing else waits. -/
structure InOrder (s : State) (op : BitVec 8) (p : Packet) : Prop where
  formed : wellFormedPacket op p = true
  here : p.dst = s.devid
  fabric : toPod s p.src = false
  next : (chanIn s p.src p.tclass).expect = p.seq
  early : (chanIn s p.src p.tclass).early = []
  skipped : (chanIn s p.src p.tclass).skipped = []

/-- R427, R432: the request p counts as performed, and its one answer is on its way: a response of the opcode, cause and
payload, with the request's tag and mark. -/
def Answers (s t : State) (p : Packet) (op : BitVec 8) (cause : Nat) (payload : List Byte) : Prop :=
  (∃ a, t.outbox = s.outbox ++ [a] ∧ a.opcode = op ∧ a.mclass = 2 ∧ a.src = s.devid ∧ a.dst = p.src ∧ a.tag = p.tag ∧
    a.mark = p.mark ∧ a.cause = BitVec.ofNat 8 cause ∧ a.payload = payload) ∧
  (chanIn t p.src p.tclass).expect = p.seq + 1

/-- The frames of n bytes from pa are in use (R493). -/
def Unretired (s : State) (pa n : Nat) : Prop := ∀ i < n, inRetired s (pa + i) = false

/-- Every byte outside n bytes from pa reads as it did. -/
def SameOutside (s t : State) (pa n : Nat) : Prop := ∀ x, x < pa ∨ pa + n ≤ x → cellAt t.mem x = cellAt s.mem x

/-- R387, R489: the request reaches physical address pa, of a partition, whose slice is not under test. -/
structure Lands (s : State) (p : Packet) (write : Bool) (part pa : Nat) : Prop where
  ok : inbound s p.win p.ftid p.off.toNat write = .ok part pa
  free : sliceBusy s pa = false

/-- R430: a response of the opcode for this device, without a mark, that answers the request r. -/
structure Responds (s : State) (op : BitVec 8) (p : Packet) (r : Req) : Prop where
  formed : wellFormedPacket op p = true
  here : p.dst = s.devid
  mark : p.mark = false
  req : s.reqs.find? (fun x => x.tag == p.tag && !x.refused) = some r

/-- R258: registers from r up of a group have taken the value v of n bytes in one lane, with tag t; nothing else has. -/
structure LaneFilled (g g' : Group) (r regs lane n : Nat) (t : Tag) (v : Nat) : Prop where
  value : ∀ k < regs, laneGet (vreg g' (r + k)).lane lane =
    if n < 4 ∧ t = 1#6 then (BitVec.ofNat (8 * n) v).signExtend 32 else BitVec.ofNat 32 (v / 2 ^ (32 * k))
  tags : ∀ m, tagOf g' m = tagOf g m
  others : ∀ m l, l < 32 → ¬(l = lane ∧ r ≤ m ∧ m < r + regs) → laneGet (vreg g' m).lane l = laneGet (vreg g m).lane l
  rest : g' = { g with v := g'.v }

/-- R262: the predicate rq has been set in the lanes of M, and nothing else of the group has changed. -/
def PredSet (g g' : Group) (rq : BitVec 3) (M : Mask) : Prop :=
  g' = { g with q := g'.q } ∧ ∀ q < 8, ∀ l < 32,
    (vget g'.q q 0).getLsbD l = ((vget g.q q 0).getLsbD l || (q == rq.toNat && M.getLsbD l))

/-- R434: a SKIP for the request r. -/
def SkipFor (s : State) (r : Req) (q : Packet) : Prop :=
  q.opcode = opSKIP ∧ q.dst = r.dev ∧ q.tclass = r.tclass ∧ q.payload = bytesOfNat 4 r.seq.toNat ∧ q.src = s.devid ∧ q.seq = 0

/-- The channel end of a destination and class (R433). -/
def Kept (t : State) (dev : BitVec 14) (tclass : BitVec 2) : List (Packet × Nat) := (chanOut t dev tclass).kept

end Sys2Proof

/-- R387, R388, R427, R428, R491: RD, WR, WRM and ATM are performed at the address their window gives and answered,
each in channel order; a refused one changes nothing there and is answered with its cause. A replica of a multicast
line is performed as a write. -/
def Sys2Proof.Claims.RequestsArePerformed : Prop :=
  ∀ (s : State) (p : Packet) (part pa : Nat),
    let c := p.cause.toNat
    let n := if c / 8 % 2 = 1 then 8 else 4
    (InOrder s opRD p → Lands s p false part pa → poisoned s pa p.len.toNat = false →
      ∃ t, exec (.rd p) s = .next t ∧ Answers s t p opRDR 0 (bytesAt s.mem pa p.len.toNat) ∧ t.mem = s.mem) ∧
    (InOrder s opWR p → Lands s p true part pa → Unretired s pa 256 →
      ∃ t, exec (.wr p) s = .next t ∧ Answers s t p opACK 0 [] ∧ bytesAt t.mem pa 256 = p.payload ∧
        SameOutside s t pa 256) ∧
    (InOrder s opWRM p → Lands s p true part pa → Unretired s pa 256 →
      ∃ t, exec (.wrm p) s = .next t ∧ Answers s t p opACK 0 [] ∧ SameOutside s t pa 256 ∧
        ∀ i < 256, cellAt t.mem (pa + i) =
          if (p.payload.getD (i / 8) 0).getLsbD (i % 8) then p.payload.getD (32 + i) 0 else cellAt s.mem (pa + i)) ∧
    (InOrder s opATM p → Lands s p true part pa → poisoned s pa n = false → Unretired s pa n →
      ∃ t, exec (.atmPacket p) s = .next t ∧ Answers s t p opATR 0 (bytesOfNat 8 (readNat s pa n)) ∧ SameOutside s t pa n ∧
        bytesAt t.mem pa n = bytesOfNat n (atmNew (atmOpOf (c % 8)) n (c / 16 % 2 == 1) (readNat s pa n)
          (natOfBytes (p.payload.take n)) (natOfBytes ((p.payload.drop 8).take n)))) ∧
    (InOrder s opMST p → p.mclass = 1 → Lands s p true part pa → Unretired s pa 256 →
      ∃ t, exec (.mstPacket p) s = .next t ∧ Answers s t p opMACK 0 (List.replicate 320 0) ∧
        bytesAt t.mem pa 256 = p.payload ∧ SameOutside s t pa 256) ∧
    ∀ cause who e, (∀ w, inbound s p.win p.ftid p.off.toNat w = .refused cause who e) →
      (∀ q, who = some q → ringOn (pregs s q).eqcfg = false) → ringOn s.dev.deqcfg = false →
      (InOrder s opRD p → ∃ t, exec (.rd p) s = .next t ∧ Answers s t p opNACK cause [] ∧ t.mem = s.mem) ∧
      (InOrder s opWR p → ∃ t, exec (.wr p) s = .next t ∧ Answers s t p opNACK cause [] ∧ t.mem = s.mem) ∧
      (InOrder s opWRM p → ∃ t, exec (.wrm p) s = .next t ∧ Answers s t p opNACK cause [] ∧ t.mem = s.mem) ∧
      (InOrder s opATM p → ∃ t, exec (.atmPacket p) s = .next t ∧ Answers s t p opNACK cause [] ∧ t.mem = s.mem)

/-- R432 to R434: a packet already performed is performed no more, and one that comes early waits for those before it; a
SKIP's number counts as performed in its turn; a receiver says how far it has come, and SEQA lets go of the copies below
its number. -/
def Sys2Proof.Claims.ChannelsKeepOrder : Prop :=
  (∀ (s : State) (p : Packet), wellFormedPacket opWR p = true → p.dst = s.devid → toPod s p.src = false →
    let c := chanIn s p.src p.tclass
    (2 ^ 31 ≤ (p.seq - c.expect).toNat → ∃ t, exec (.wr p) s = .next t ∧ t.mem = s.mem ∧ t.outbox = s.outbox ∧
      (chanIn t p.src p.tclass).expect = c.expect) ∧
    (p.seq ≠ c.expect → (p.seq - c.expect).toNat < 2 ^ 31 → (∀ q ∈ c.early, q.seq ≠ p.seq ∧ q.seq ≠ c.expect) →
      c.expect ∉ c.skipped → ∃ t, exec (.wr p) s = .next t ∧ t.mem = s.mem ∧ t.outbox = s.outbox ∧
        (chanIn t p.src p.tclass).expect = c.expect ∧ (chanIn t p.src p.tclass).early = c.early ++ [p])) ∧
  (∀ (s : State) (p : Packet), wellFormedPacket opSKIP p = true → p.dst = s.devid →
    let c := chanIn s p.src p.tclass
    c.early = [] → c.skipped = [] → packetNumber p = c.expect →
    ∃ t, exec (.skip p) s = .next t ∧ (chanIn t p.src p.tclass).expect = c.expect + 1 ∧
      t = { s with chansIn := t.chansIn, freeCtr := t.freeCtr }) ∧
  (∀ (s : State) (p : Packet), wellFormedPacket opSEQA p = true → p.dst = s.devid →
    ∃ t, exec (.seqa p) s = .next t ∧ Kept t p.src p.tclass =
        (Kept s p.src p.tclass).filter (fun x => !decide (2 ^ 31 ≤ (x.1.seq - packetNumber p).toNat)) ∧
      (∀ x ∈ (chanOut t p.src p.tclass).skips, (x.1 - packetNumber p).toNat < 2 ^ 31) ∧
      t = { s with chansOut := t.chansOut, ports := t.ports, freeCtr := t.freeCtr }) ∧
  ∀ (s : State) (dev : BitVec 14) (tc : BitVec 2),
    let c := chanIn s dev tc
    (c.unacked ≠ 0 → toPod s c.dev = false → ∃ t q, exec (.seqaSend dev.toNat tc.toNat) s = .next t ∧ t.outbox = s.outbox ++ [q] ∧
      q.opcode = opSEQA ∧ q.mclass = 2 ∧ q.src = s.devid ∧ q.dst = c.dev ∧ q.payload = bytesOfNat 4 c.expect.toNat ∧
      (chanIn t dev tc).unacked = 0) ∧
    (c.unacked = 0 → exec (.seqaSend dev.toNat tc.toNat) s = .next s)

/-- R256, R262, R263, R340, R386, R430, R528: an answer ends its request: an ACK a store, whose groups get its
completion tick, an ATR an atomic, an RDR a load or a descriptor read; a NACK fails it, its lane 0 and its predicate
set, a store counted in its team's failures; a MACK gives the receipts of the members it stands for. -/
def Sys2Proof.Claims.AnswersEndRequests : Prop :=
  ∀ (s : State) (p : Packet) (r : Req),
    (∀ gid team lanes tm, r.kind = .store gid team lanes → teamOf s gid team = some tm → Responds s opACK p r →
      ∃ t, exec (.ack p) s = .next t ∧ t.reqs = s.reqs.erase r ∧
        teamOf t gid team = some { tm with outstanding := tm.outstanding - 1 } ∧
        (∀ x ∈ lanes, ∀ g, s.groups.find? (fun g => g.gid == gid && g.team == team && g.gslot == x.2.1 && g.grpid == x.2.2.1) =
          some g → ∃ k ∈ t.ticks, k.core = g.core ∧ k.gslot = g.gslot) ∧ (∀ k ∈ s.ticks, k ∈ t.ticks) ∧
        t = { s with reqs := t.reqs, teams := t.teams, ticks := t.ticks, freeCtr := t.freeCtr }) ∧
    (∀ core gslot reg lane n tag rq g, r.kind = .load core gslot reg lane n tag rq → groupAt s core gslot = some g →
      let regs := if n ≤ 4 then 1 else n / 4
      reg + regs ≤ 120 → 0 < n → lane < 32 → (∀ k < regs, tagOf g (reg + k) = tag) →
      (Responds s opRDR p r → ∃ t g', exec (.rdr p) s = .next t ∧ groupAt t core gslot = some g' ∧
        LaneFilled g g' reg regs lane n tag (natOfBytes (p.payload.take n)) ∧ t.reqs = s.reqs.erase r) ∧
      (Responds s opNACK p r → ∃ t g' g'', exec (.nack p) s = .next t ∧ groupAt t core gslot = some g' ∧
        LaneFilled g g'' reg regs lane n tag 0 ∧ PredSet g'' g' rq (BitVec.ofNat 32 (2 ^ lane)) ∧
        t.reqs = s.reqs.erase r)) ∧
    (∀ core gslot gid team reg lane n tag rq g tm, r.kind = .atomic core gslot gid team (some reg) lane n tag rq →
      groupAt s core gslot = some g → teamOf s gid team = some tm →
      let regs := if n ≤ 4 then 1 else n / 4
      reg + regs ≤ 120 → 0 < n → lane < 32 → (∀ k < regs, tagOf g (reg + k) = tag) → Responds s opATR p r →
      ∃ t g', exec (.atr p) s = .next t ∧ groupAt t core gslot = some g' ∧
        LaneFilled g g' reg regs lane n tag (natOfBytes (p.payload.take n)) ∧
        teamOf t gid team = some { tm with outstanding := tm.outstanding - 1 } ∧ t.reqs = s.reqs.erase r) ∧
    (∀ gid team m gslot grpid rq tm, r.kind = .store gid team [(m, gslot, grpid, rq)] → teamOf s gid team = some tm →
      Responds s opNACK p r → ∃ t, exec (.nack p) s = .next t ∧ t.reqs = s.reqs.erase r ∧
        teamOf t gid team = some { tm with outstanding := tm.outstanding - 1, remoteFailures := tm.remoteFailures + 1 } ∧
        ∀ core k g, groupAt s core k = some g → ∃ g', groupAt t core k = some g' ∧
          (g.gid = gid ∧ g.team = team ∧ g.grpid = grpid → PredSet g g' rq m) ∧
          (¬(g.gid = gid ∧ g.team = team ∧ g.grpid = grpid) → g' = g)) ∧
    (∀ core gslot lanes, r.kind = .desc core gslot lanes → Responds s opRDR p r →
      ∃ t, exec (.rdr p) s = .next t ∧ t.descs = s.descs ++
          [⟨core, gslot, lanes, some p.payload, r.packet.dst, r.packet.win, r.packet.off.toNat⟩] ∧
        t.reqs = s.reqs.erase r) ∧
    (∀ tag f m, r.kind = .multicast tag → s.mcFlights = [f] → f.tag = tag → requestMembers s f r = [m] → f.reply = none →
      m ∈ f.pending → (∃ k ∈ f.pending, k ≠ m) → Responds s opMACK p r → ∃ t f', exec (.mack p) s = .next t ∧
        t.mcFlights = [f'] ∧ f'.pending = f.pending.filter (fun k => k != m) ∧
        ((natOfBytes (p.payload.take 64)).testBit m = false → f'.causes = f.causes) ∧ t.reqs = s.reqs.erase r)

/-- R272, R358, R366, R452, R456, R463: a FRAG for an open descriptor is taken in and acknowledged, or kept,
unanswered, while its slice has no room; an MST request goes on to the member of this group; a TOKEN makes its input
present in the plan it names, or waits in the matching store, and is refused with cause 5 when that is full. -/
def Sys2Proof.Claims.FragmentsLinesAndTokensArrive : Prop :=
  (∀ (s : State) (p : Packet) (part pa : Nat) (r : RedOpen), InOrder s opFRAG p → Lands s p true part pa →
    let f := fragOf p part pa false
    fragDiffers s f = false → AtSlice s f r → Inner f →
    (sliceRoom s r = true → ∃ t, exec (.frag p) s = .next t ∧ Answers s t p opACK 0 [] ∧
      t.sliceHeld = s.sliceHeld ++ [⟨homeSlice r.descPa, f⟩] ∧ t.refused = s.refused) ∧
    (sliceRoom s r = false → spillSlot s r f.label f.fno = none → ∃ t, exec (.frag p) s = .next t ∧
      t.outbox = s.outbox ∧ t.sliceHeld = s.sliceHeld ∧ t.refused = s.refused ++ [⟨192, f, s.time.toNat, some p, none⟩])) ∧
  (∀ (s : State) (p : Packet) (g : McGroup) (m : Nat × BitVec 14 × BitVec 12), InOrder s opMST p → p.mclass = 0 →
    mcGroup s p.win.toNat = some g → g.listed.filter (fun x => devGroup x.2.1 == devGroup s.devid) = [m] →
    m.2.1 ≠ s.devid → (vget s.ltab (m.2.1.toNat % 32) 0).getLsbD 7 = true → s.mcFlights = [] →
    ∃ t q f, exec (.mstPacket p) s = .next t ∧ t.outbox = s.outbox ++ [q] ∧ q.opcode = opMST ∧ q.mclass = 1 ∧
      q.dst = m.2.1 ∧ q.win = m.2.2 ∧ q.off = p.off ∧ q.payload = p.payload ∧ t.mcFlights = [f] ∧ f.reply = some p ∧
      f.pending = [m.1] ∧ t.mem = s.mem) ∧
  ∀ (s : State) (p : Packet) (part : Nat), InOrder s opTOKEN p →
    (List.range 12).find? (fun i => partEnabled s i && ftidOf s i == p.ftid) = some part →
    let w := BitVec.ofNat 64 (natOfBytes p.payload)
    let k : StoredToken := ⟨part, w.extractLsb' 16 16, w.extractLsb' 32 8, w.extractLsb' 0 12⟩
    let runs := fun x : PlanCtx => x.cid.isSome = true ∧ x.part = part ∧ x.ptag = k.ptag ∧ x.inv = k.inv
    ((∃ x ∈ s.plans, runs x) → ∃ t, exec (.token p) s = .next t ∧ Answers s t p opACK 0 [] ∧ t.tokens = s.tokens ∧
      ∀ x ∈ t.plans, runs x → k.token ∈ x.tokens) ∧
    ((∀ x ∈ s.plans, ¬runs x) → k ∉ s.tokens → (s.tokens.filter fun x => x.part == part).length < 1024 →
      ∃ t, exec (.token p) s = .next t ∧ Answers s t p opACK 0 [] ∧ t.tokens = s.tokens ++ [k] ∧ t.plans = s.plans) ∧
    ((∀ x ∈ s.plans, ¬runs x) → k ∉ s.tokens → 1024 ≤ (s.tokens.filter fun x => x.part == part).length →
      ∃ t, exec (.token p) s = .next t ∧ Answers s t p opNACK 5 [] ∧ t.tokens = s.tokens ∧ t.plans = s.plans)

/-- R429, R431, R433 to R435, R463, R527: a packet leaves, at its rate, by a port its route allows, once the link is
free and the channel has a credit, marked where it is a request and the channel holds more than three quarters of its
credits (how many those are is Config's, log 129); a request with no path is answered with cause 4; one unanswered for
2 ms fails with cause 3 and its number is skipped, and a SKIP goes again after 50 µs, as an uncovered packet does; a
refused token goes again until its plan's timeout; a channel reset starts a device's channels anew. -/
def Sys2Proof.Claims.PacketsTravel : Prop :=
  (∀ (s : State) (p : Packet), p ∈ s.outbox → inWindow s p = true → p.dst ≠ s.devid → toPod s p.dst = false →
    (∀ n x, n ∈ routePorts s p → n < 48 → s.ports[n]? = some x → rateAllows s p = true →
      let used := x.used p.mclass (nextRank s p n)
      (x.busyTill ≤ s.time.toNat → used ≤ Config.moreCredits →
        ∃ t q x', exec (.packetRoute p (some n)) s = .next t ∧ t.outbox = s.outbox.erase p ∧ t.ports[n]? = some x' ∧
          x'.retry.getLast? = some (p, q) ∧ q = { p with rank := nextRank s p n, mark := q.mark } ∧
          (q.mark = true ↔ p.mark = true ∨ p.mclass = 0 ∧ 3 * (Config.moreCredits + 1) < 4 * used) ∧
          x'.used p.mclass (nextRank s p n) = used + 1 ∧ s.time.toNat < x'.busyTill) ∧
      (s.time.toNat < x.busyTill ∨ Config.moreCredits < used →
        ∃ t, exec (.packetRoute p (some n)) s = .next t ∧ t = { s with freeCtr := t.freeCtr })) ∧
    (∀ r, routePorts s p = [] → p.src = s.devid → p.mclass ≠ 2 → p.opcode ≠ opSKIP →
      s.reqs.find? (fun x => x.tag == p.tag && !x.refused) = some r → r.kind = .frag → toPod s r.dev = false →
      ∃ t q, exec (.packetRoute p none) s = .next t ∧ t.reqs = s.reqs.erase r ∧ t.outbox = s.outbox.erase p ++ [q] ∧
        SkipFor s r q)) ∧
  (∀ (s : State) (r : Req) (gid team : Nat) (tm : Team), s.reqs.find? (fun x => x.tag == r.tag && !x.refused) = some r →
    r.kind = .store gid team [] → teamOf s gid team = some tm → toPod s r.dev = false →
    (r.sentAt + 2000000 ≤ s.time.toNat → ∃ t q, exec (.requestTimeout r.tag) s = .next t ∧ t.reqs = s.reqs.erase r ∧
      t.outbox = s.outbox ++ [q] ∧ SkipFor s r q ∧ teamOf t gid team = some
        { tm with outstanding := tm.outstanding - 1, remoteFailures := tm.remoteFailures + 1 } ∧
      (r.seq, s.time.toNat) ∈ (chanOut t r.dev r.tclass).skips) ∧
    (s.time.toNat < r.sentAt + 2000000 → exec (.requestTimeout r.tag) s = .next s)) ∧
  (∀ (s : State) (c : ChanOut) (x : Packet × Nat) (at' : Nat), s.chansOut = [c] → c.kept = [x] → c.dev = x.1.dst →
    c.tclass = x.1.tclass → toPod s c.dev = false →
    (c.skips = [(x.1.seq, at')] → at' + 50000 ≤ s.time.toNat → ∃ t q, exec (.skipResend x.1.tag) s = .next t ∧
      t.outbox = s.outbox ++ [q] ∧ q.opcode = opSKIP ∧ q.payload = bytesOfNat 4 x.1.seq.toNat) ∧
    (c.skips = [] → x.2 + 50000 ≤ s.time.toNat → x.1 ∉ s.outbox →
      ∃ t, exec (.packetResend c.dev.toNat c.tclass.toNat) s = .next t ∧ t.outbox = s.outbox ++ [x.1] ∧
        Kept t c.dev c.tclass = [(x.1, s.time.toNat)])) ∧
  (∀ (s : State) (r : Req) (ctx op started : Nat) (x : PlanCtx),
    s.reqs.find? (fun y => y.tag == r.tag && y.refused) = some r → r.kind = .token ctx op started true →
    planOf s ctx = some x → s.time.toNat < started + 1000 * x.timeout → ∃ t q, exec (.tokenResend r.tag) s = .next t ∧
      t.outbox = s.outbox ++ [q] ∧ q.opcode = r.packet.opcode ∧ q.dst = r.packet.dst ∧ q.payload = r.packet.payload ∧
      ∃ y ∈ t.reqs, y.kind = .token ctx op started false ∧ y.packet = q) ∧
  ∀ (s : State) (value : BitVec 64),
    let dev := value.extractLsb' 0 14
    (∀ r ∈ s.reqs, r.dev = dev → r.refused = false → r.kind = .frag) →
    ∃ t, exec (.channelReset value) s = .next t ∧ t.dev.chrst = dev.setWidth 64 ∧
      (value.getLsbD 16 = true → (∀ tc, (chanOut t dev tc).next = 0 ∧ Kept t dev tc = [] ∧ (chanIn t dev tc).expect = 0) ∧
        (∀ r ∈ t.reqs, r.dev = dev → r.refused = true) ∧
        ∀ d tc, d ≠ dev → chanOut t d tc = chanOut s d tc ∧ chanIn t d tc = chanIn s d tc) ∧
      (value.getLsbD 16 = false → t = { s with dev := t.dev })

/-- R454 to R456: a load of the multicast table reads its group's entry, zeroes the counts of its record and replaces
the group; an entry that is not valid leaves the group with none. A member silent for 2 ms counts negative with cause
3; the last receipt of a line answers it with MACK at a replicating switch. -/
def Sys2Proof.Claims.MulticastTableAndTimeouts : Prop :=
  (∀ (s : State) (value : BitVec 64),
    let n := bits value 0 12
    let s' := { s with dev := { s.dev with mcctl := BitVec.ofNat 64 n } }
    let a := mcEntryAt s n
    (value.getLsbD 12 = false → exec (.multicastLoad value) s = .next s') ∧
    (value.getLsbD 12 = true → (read64 s a).getLsbD 0 = false →
      exec (.multicastLoad value) s = .next { s' with mcGroups := s.mcGroups.filter fun g => g.group != n }) ∧
    (∀ g, value.getLsbD 12 = true → (read64 s a).getLsbD 0 = true → mcEntry s n a = some g → Unretired s g.record 16 →
      ∃ t, exec (.multicastLoad value) s = .next t ∧ read64 t g.record = 0 ∧ read64 t (g.record + 8) = 0 ∧
        SameOutside s t g.record 16 ∧ mcGroup t n = some g ∧ t.dev = s'.dev)) ∧
  ∀ (s : State) (f : McFlight) (member : Nat), s.mcFlights = [f] → member ∈ f.pending →
    (f.reply = none → s.time.toNat < f.sentAt + 2000000 → exec (.memberTimeout f.group member) s = .next s) ∧
    (f.reply.isSome = true ∨ f.sentAt + 2000000 ≤ s.time.toNat →
      ((∃ k ∈ f.pending, k ≠ member) → ∃ t, exec (.memberTimeout f.group member) s = .next t ∧
        t = { s with mcFlights := [{ f with
          pending := f.pending.filter fun k => k != member, causes := f.causes ++ [(member, 3)] }] }) ∧
      (∀ q, (∀ k ∈ f.pending, k = member) → f.reply = some q →
        ∃ t a, exec (.memberTimeout f.group member) s = .next t ∧ t.mcFlights = [] ∧ t.outbox = s.outbox ++ [a] ∧
          a.opcode = opMACK ∧ a.dst = q.src ∧ a.tag = q.tag))

/-! ## Events of links and lane groups -/

namespace Sys2Proof

/-- The event e completes: port i becomes p', and the other ports stay. -/
def PortBecomes (e : Instr) (s : State) (i : Nat) (p' : Port) (out : List Packet) : Prop :=
  ∃ t, exec e s = .next t ∧ t.ports[i]? = some p' ∧ (∀ j, j ≠ i → t.ports[j]? = s.ports[j]?) ∧ t.outbox = s.outbox ++ out

/-- The event e completes: lane group n becomes g, and the others stay. -/
def GroupBecomes (e : Instr) (s : State) (n : Nat) (g : LaneGroup) : Prop :=
  ∃ t, exec e s = .next t ∧ lgAt t n = g ∧ ∀ m, m ≠ n → lgAt t m = lgAt s m

end Sys2Proof

/-- R436, R437: flit errors, loss of lock and training take a link through its states: the eighth replay within 1 ms,
and a loss of lock, retrain it, when its port leaves routing and sends again what its retry buffer holds, as it came;
an attempt that takes more than 10 ms fails; a third failed attempt takes it down, from where management retrains it;
100 µs after it came up its port is in routing again. -/
def Sys2Proof.Claims.LinksChangeState : Prop :=
  ∀ (s : State) (i : Nat) (p : Port), portExists s i = true → i < 48 → s.ports[i]? = some p →
    let now := s.time.toNat
    let replays := p.replays.filter (fun t => decide (now < t + 1000000)) ++ [now]
    let retrained := fun q : Port => { q with
      state := LinkState.retrain, routing := false, retry := [], attempts := 0, trainFrom := now, vcs := [] }
    let again := p.retry.map Prod.fst
    let failed := { p with attempts := p.attempts + 1, trainFrom := now }
    (p.state = .up → replays.length < 8 → PortBecomes (.flitError i) s i { p with state := .replay, replays := replays } []) ∧
    (p.state = .replay → replays.length < 8 → PortBecomes (.flitError i) s i { p with replays := replays } []) ∧
    (p.state = .up ∨ p.state = .replay → 8 ≤ replays.length →
      PortBecomes (.flitError i) s i (retrained { p with replays := replays }) again) ∧
    (p.state = .replay → PortBecomes (.lossOfLock i) s i (retrained p) again) ∧
    (p.state = .replay → PortBecomes (.replayComplete i) s i { p with state := .up, upSince := now } []) ∧
    (p.state = .retrain → now ≤ p.trainFrom + 10000000 → PortBecomes (.linkTrainResult i true) s i
      { p with state := .up, attempts := 0, replays := [], upSince := now } []) ∧
    (∀ trained, p.state = .retrain → (trained = false ∨ p.trainFrom + 10000000 < now) →
      (p.attempts + 1 < 3 → PortBecomes (.linkTrainResult i trained) s i failed []) ∧
      (3 ≤ p.attempts + 1 → PortBecomes (.linkTrainResult i trained) s i { failed with state := .down } [])) ∧
    (p.state = .up → p.routing = false → p.upSince + 100000 ≤ now →
      PortBecomes (.portRejoin i) s i { p with routing := true } []) ∧
    (now < p.upSince + 100000 → exec (.portRejoin i) s = .next s) ∧
    (p.state = .down → fenced s (portBlock i) = false →
      PortBecomes (.managementRetrain i) s i (retrained p) again)

/-- R438, R439, R444 to R448: a lane group that is not half of a bonded pair goes from its target's go through
Quiesce, Drain, Retrain and Map to its new personality; a change that may not be made, or does not train, fails with
its cause and carries nothing; a go while a change runs does nothing. -/
def Sys2Proof.Claims.LaneGroupsChangePersonality : Prop :=
  ∀ (s : State) (n : Nat), n < 20 → (lgAt s n).paired = false →
    let g := lgAt s n
    let now := s.time.toNat
    let failed := fun (x : LaneGroup) (cause : BitVec 4) =>
      { x with state := 5, cause := cause, cur := 0, cap := 0, paired := false, stateSince := now }
    (∀ value : BitVec 64,
      let t : BitVec 8 := value.setWidth 8
      let kept := { g with pers := t.extractLsb' 0 3, mode := t.extractLsb' 3 2, slot := t.extractLsb' 5 3 }
      let breach := if fenced s (3472 + n) then 4 else lgBreach s n t (bits value 9 55 ≠ 0)
      (value.getLsbD 8 = false → GroupBecomes (.lgctlGo n value) s n kept) ∧
      (value.getLsbD 8 = true → 1 ≤ g.state.toNat → g.state.toNat ≤ 4 → GroupBecomes (.lgctlGo n value) s n g) ∧
      (value.getLsbD 8 = true → ¬(1 ≤ g.state.toNat ∧ g.state.toNat ≤ 4) → breach ≠ 0 → GroupBecomes (.lgctlGo n value) s n
        (failed { kept with tgt := t } (BitVec.ofNat 4 breach))) ∧
      (value.getLsbD 8 = true → ¬(1 ≤ g.state.toNat ∧ g.state.toNat ≤ 4) → breach = 0 → persOf t ≠ 4 → GroupBecomes (.lgctlGo n value) s n
        { kept with state := 1, cause := 0, tgt := t, paired := false, stateSince := now })) ∧
    (g.state = 1 → GroupBecomes (.lgQuiesceEnd n) s n { g with state := 2, stateSince := now }) ∧
    (g.state = 2 → drainClear s n = true → GroupBecomes (.lgDrainEnd n true) s n
      { g with state := if persOf g.tgt = 0 then 4 else 3, stateSince := now }) ∧
    (∀ bound, g.state = 2 → drainBound g.cur = some bound → g.stateSince + bound ≤ now →
      GroupBecomes (.lgDrainEnd n false) s n { g with state := if persOf g.tgt = 0 then 4 else 3, stateSince := now }) ∧
    (∀ lanes cap, g.state = 3 →
      GroupBecomes (.lgRetrainEnd n false lanes cap) s n (failed { g with lanes := lanes } 4) ∧
      (persOf g.tgt ≠ 4 → GroupBecomes (.lgRetrainEnd n true lanes cap) s n
        { g with lanes := lanes, cap := 0, state := 4, stateSince := now }) ∧
      (persOf g.tgt = 4 → 1 ≤ cap → cap ≤ 4096 → cxlTotal s n + cap * 2 ^ 28 ≤ 4 * 10 ^ 12 →
        GroupBecomes (.lgRetrainEnd n true lanes cap) s n
          { g with lanes := lanes, cap := BitVec.ofNat 13 cap, state := 4, stateSince := now }) ∧
      (persOf g.tgt = 4 → 4096 < cap → GroupBecomes (.lgRetrainEnd n true lanes cap) s n (failed { g with lanes := lanes } 3))) ∧
    (g.state = 4 → persOf g.tgt ≠ 4 → GroupBecomes (.lgMap n) s n
      { g with
        cur := g.tgt.setWidth 3, state := 0, cause := 0, lanes := if persOf g.tgt = 0 then 0 else g.lanes
        sent := [], paired := false, cap := 0, mapped := none, stateSince := now }) ∧
    (∀ v, ∃ t, exec (.bootTableAccess n (some v)) s = .next t ∧ t.trust.bootTable[n]? = some v ∧
      (∀ m, m ≠ n → t.trust.bootTable[m]? = s.trust.bootTable[m]?) ∧ t = { s with trust := { s.trust with bootTable := t.trust.bootTable } }) ∧
    (∀ v, s.trust.bootTable[n]? = some v → exec (.bootTableAccess n none) s = .next
      { s with trust := { s.trust with reply := v.setWidth 64 } })

/-! ## Events of plans -/

namespace Sys2Proof

/-- R461: the operation op, of a kind, of a context's plan may fire: its inputs are present, and nothing has failed. -/
structure CanFire (s : State) (ctx op kind : Nat) (x : PlanCtx) (k : Cmd) (o : PlanOp) : Prop where
  context : planOf s ctx = some x
  command : x.cid = some k.cid
  here : cmdOf s k.cid = some k
  operation : x.ops[op]? = some o
  ofKind : o.kind = kind
  status : x.status = 0
  fired : op ∉ x.fired
  waiting : op ∉ x.waiting
  inputs : ∀ i ∈ o.inputs, x.has i = true

/-- n bytes at a virtual address, which cross no 256-byte boundary, lie in this device's memory, where a command may reach
them: at pa, sound, and in no slice under test. -/
structure HereFor (s : State) (k : Cmd) (va n : Nat) (write : Bool) (pa : Nat) : Prop where
  inside : va < 2 ^ 56
  nonempty : 0 < n
  line : va % 256 + n ≤ 256
  access : ∃ m, Machine.access s (copyTlb k.core) k.part k.gid va write false = .ok pa m
  free : sliceBusy s pa = false
  sound : poisoned s pa n = false

/-- R461: the operation has fired: its context notes it, and that it waits for its access where it does. -/
def FiredIn (t : State) (ctx op : Nat) (x : PlanCtx) (waits : Bool) : Prop :=
  planOf t ctx = some { x with fired := x.fired ++ [op], waiting := x.waiting ++ (if waits then [op] else []) }

/-- R314, R458, R464: the plan of command k ends with a status: its context is free, the command's work is done, failed with
cause 8 where the status is not 0, and the status word, where it can be written, holds the status. -/
def PlanEnds (s t : State) (ctx : Nat) (x : PlanCtx) (k : Cmd) (st : Nat) : Prop :=
  ∀ pa m, x.statusAddr.toNat < 2 ^ 56 → x.statusAddr.toNat % 8 = 0 →
    access s (copyTlb k.core) k.part k.gid x.statusAddr.toNat true false = .ok pa m → Unretired s pa 8 →
    read64 t pa = BitVec.ofNat 64 st ∧ SameOutside s t pa 8 ∧ (∃ x', planOf t ctx = some x' ∧ x'.cid = none) ∧
      cmdOf t k.cid = some { k with phase := .worked, cause := if st = 0 then 0 else 8 }

/-- R462, R463: what a token's word makes of the plans and the matching store of a partition. -/
def TokenTaken (s t : State) (part : Nat) (w : Dword) : Prop :=
  let k : StoredToken := ⟨part, w.extractLsb' 16 16, w.extractLsb' 32 8, w.extractLsb' 0 12⟩
  let runs := fun x : PlanCtx => x.cid.isSome = true ∧ x.part = part ∧ x.ptag = k.ptag ∧ x.inv = k.inv
  ((∃ x ∈ s.plans, runs x) → t.tokens = s.tokens ∧ ∀ x ∈ t.plans, runs x → k.token ∈ x.tokens) ∧
  ((∀ x ∈ s.plans, ¬runs x) → t.plans = s.plans ∧
    t.tokens = if k ∈ s.tokens ∨ 1024 ≤ (s.tokens.filter fun x => x.part == part).length then s.tokens else s.tokens ++ [k])

end Sys2Proof

/-- R314, R458, R459, R462: a started plan takes a free context, with its graph's operations, its record's bases and
its tag's next invocation number, and the tokens that waited for it; a malformed graph ends it with status 1; it waits
while no context is free. -/
def Sys2Proof.Claims.PlansTakeContexts : Prop :=
  ∀ (s : State) (k : Cmd) (addr : Dword) (io : CmdIo), cmdOf s k.cid = some k → k.op = .plan addr → k.phase = .planning →
    (∀ x ∈ s.plans, x.cid ≠ some k.cid) → io.busy = false → io.need = [] →
    (∀ record head ops, (readPlan s k addr).run CmdIo.start = (.run record head ops, io) →
      let ptag : BitVec 16 := BitVec.ofNat 16 (natOfBytes ((head.drop 10).take 2))
      (∀ i, freeCtx s k.part (dwordAt record 0) (dwordAt head 0) = some i → ∃ t x, exec (.planContextTake k.cid) s = .next t ∧
        planOf t i = some x ∧ x.cid = some k.cid ∧ x.ops = ops ∧ x.fired = [] ∧ x.waiting = [] ∧ x.finished = [] ∧
        x.status = 0 ∧ x.part = k.part ∧ x.ptag = ptag ∧ x.statusAddr = dwordAt record 0x38 ∧
        (∀ j < 6, x.bases[j]? = some (dwordAt record (8 + 8 * j))) ∧ x.inv = invNext s k.part ptag ∧
        invNext t k.part ptag = x.inv + 1 ∧ (∀ n, n ∈ x.tokens ↔ (⟨k.part, ptag, x.inv, n⟩ : StoredToken) ∈ s.tokens) ∧
        (∀ y ∈ t.tokens, ¬(y.part = k.part ∧ y.ptag = ptag ∧ y.inv = x.inv)) ∧ t.mem = s.mem) ∧
      (freeCtx s k.part (dwordAt record 0) (dwordAt head 0) = none → ∃ t, exec (.planContextTake k.cid) s = .next t ∧
        t = { s with freeCtr := t.freeCtr })) ∧
    ∀ record pa m, (readPlan s k addr).run CmdIo.start = (.bad record, io) →
      let st := (dwordAt record 0x38).toNat
      st < 2 ^ 56 → st % 8 = 0 → access s (copyTlb k.core) k.part k.gid st true false = .ok pa m → Unretired s pa 8 →
      ∃ t, exec (.planContextTake k.cid) s = .next t ∧ read64 t pa = 1 ∧ SameOutside s t pa 8 ∧
        cmdOf t k.cid = some { k with phase := .worked, cause := 8 }

/-- R460, R461, R463, R464: an operation whose inputs are present fires: NOP does nothing, COPY copies its bytes,
REDUCE contributes its node, WAITD looks for state 2 of its descriptor and fails with status 6 at state 3, SIGNAL
sends its token, and UEWRITE and UETOKEN hand their message to the lane group that their entry names, or fail with
status 5 where there is none. -/
def Sys2Proof.Claims.PlanOperationsFire : Prop :=
  ∀ (s : State) (ctx op kind : Nat) (x : PlanCtx) (k : Cmd) (o : PlanOp), CanFire s ctx op kind x k o →
    let S := x.src o
    let T := x.dst o
    let fires := fun (e : Instr) (waits : Bool) (P : State → Prop) =>
      ∃ t, exec e s = .next t ∧ FiredIn t ctx op x waits ∧ P t
    let fails := fun (e : Instr) (st : Nat) =>
      (∀ i ∈ x.fired, i ∈ x.finished) → k.remote = 0 → ∃ t, exec e s = .next t ∧ PlanEnds s t ctx x k st
    (kind = 0 → fires (.planNop ctx op) false fun t => t = { s with plans := t.plans, freeCtr := t.freeCtr }) ∧
    (∀ a b, kind = 1 → HereFor s k S o.len false a → HereFor s k T o.len true b → Unretired s b o.len →
      fires (.planCopy ctx op) false fun t => bytesAt t.mem b o.len = bytesAt s.mem a o.len ∧ SameOutside s t b o.len) ∧
    (∀ a b, kind = 2 → HereFor s k T 64 true b → T % 64 = 0 →
      let f := descFrag k.part (cmdClass s k) (descHere s b) (bits o.aux 34 6) (bits o.aux 0 34)
      (o.len = fragElems f.tile f.fmt * fragCount f.tile f.fmt * redBytes f.fmt → HereFor s k S o.len false a →
        f.orphan = false → fires (.planReduce ctx op) false fun t =>
          t.flights = s.flights ++ (nodeFrags f (bytesAt s.mem a o.len)).map (fun y =>
            ⟨.core, k.core, y, some (64 + k.cid, BitVec.ofNat 32 (op + 1))⟩) ∧
          t.mem = s.mem) ∧
      (o.len ≠ fragElems f.tile f.fmt * fragCount f.tile f.fmt * redBytes f.fmt → fails (.planReduce ctx op) 1)) ∧
    (∀ b, kind = 3 → HereFor s k T 64 false b → T % 64 = 0 →
      let st := bits (read64 s (b + 0x20)) 0 3
      (st = 2 → fires (.planWaitd ctx op) false fun t => t.mem = s.mem) ∧
      (st ≠ 2 → st ≠ 3 → fires (.planWaitd ctx op) true fun t => t.mem = s.mem) ∧
      (st = 3 → fails (.planWaitd ctx op) 6)) ∧
    (kind = 4 → fires (.planSignal ctx op) false fun t => ∃ q, t.outbox = s.outbox ++ [q] ∧ q.opcode = opTOKEN ∧
      q.dst = o.aux.extractLsb' 0 14 ∧ q.ftid = ftidOf s k.part ∧
      q.payload = bytesOfNat 8 (bits o.aux 16 12 + 2 ^ 16 * bits o.aux 32 16 + 2 ^ 32 * x.inv.toNat) ∧
      ∃ r ∈ t.reqs, r.kind = .token ctx op s.time.toNat false ∧ r.packet = q) ∧
    let entry := ueEntry s k.part (bits o.aux 0 10)
    let lg := bits (ueFlags entry) 2 5
    (∀ a, kind = 5 → HereFor s k S o.len false a → ueValid entry = true →
      (ueLink s entry = .carries → fires (.planUewrite ctx op) false fun t =>
        t.ueOut = s.ueOut ++ [⟨ctx, op, lg, entry, false, o.doff, bytesAt s.mem a o.len⟩]) ∧
      (ueLink s entry = .waits → fires (.planUewrite ctx op) true fun t => t.ueOut = s.ueOut) ∧
      (ueLink s entry = .absent → fails (.planUewrite ctx op) 5)) ∧
    (kind = 6 → ueValid entry = true → ueLink s entry = .carries → fires (.planUetoken ctx op) false fun t =>
      t.ueOut = s.ueOut ++ [⟨ctx, op, lg, entry, true, 0,
        bytesOfNat 8 (bits o.aux 16 12 + 2 ^ 16 * bits o.aux 32 16 + 2 ^ 32 * x.inv.toNat)⟩]) ∧
    (kind = 6 → ueValid entry = false → fails (.planUetoken ctx op) 5)

/-- R461, R462, R464: an operation nothing of which is on its way completes, and the last ends the plan with status 0;
an Ultra Ethernet delivery failure gives status 5, and a token that has not come within the timeout status 4; a plan
over ends once no access of its command is outstanding. -/
def Sys2Proof.Claims.PlansEnd : Prop :=
  ∀ (s : State) (ctx op : Nat) (x : PlanCtx) (k : Cmd) (o : PlanOp), planOf s ctx = some x → x.cid = some k.cid →
    cmdOf s k.cid = some k → x.status = 0 →
    (x.ops[op]? = some o → op ∈ x.fired → op ∉ x.waiting → op ∉ x.finished → planSettled s x k o op = true →
      (o.kind < 5 → x.finished.length + 1 ≠ x.ops.length → ∀ st, ∃ t, exec (.planOpComplete ctx op st) s = .next t ∧
        planOf t ctx = some { x with finished := x.finished ++ [op] } ∧ t = { s with plans := t.plans }) ∧
      (o.kind < 5 → x.finished.length + 1 = x.ops.length → k.remote = 0 → ∀ st, ∃ t, exec (.planOpComplete ctx op st) s = .next t ∧
        PlanEnds s t ctx x k 0) ∧
      ((o.kind = 5 ∨ o.kind = 6) → (∀ i ∈ x.fired, i ∈ x.finished ∨ i = op) → k.remote = 0 →
        ∃ t, exec (.planOpComplete ctx op 5) s = .next t ∧ PlanEnds s t ctx x k 5 ∧
          ∀ m, m ∈ t.ueOut ↔ m ∈ s.ueOut ∧ ¬(m.ctx = ctx ∧ m.op = op))) ∧
    ((∃ i o, x.ops[i]? = some o ∧ i ∉ x.fired ∧ ∃ n ∈ o.inputs, n.getLsbD 15 = true ∧ x.has n = false) →
      x.started + 1000 * x.timeout ≤ s.time.toNat →
      ((∀ i ∈ x.fired, i ∈ x.finished) → k.remote = 0 → ∃ t, exec (.tokenTimeout ctx) s = .next t ∧ PlanEnds s t ctx x k 4) ∧
      ((∃ i ∈ x.fired, i ∉ x.finished) ∨ k.remote ≠ 0 → ∃ t, exec (.tokenTimeout ctx) s = .next t ∧
        planOf t ctx = some { x with status := 4 } ∧ t = { s with plans := t.plans })) ∧
    (s.time.toNat < x.started + 1000 * x.timeout → exec (.tokenTimeout ctx) s = .next s)

/-- R443, R462, R463: a tagged send from a peer that a partition's table names is a token for that partition; bytes of
an RMA write stand at their address, where the partition may write there. -/
def Sys2Proof.Claims.UltraEthernetArrives : Prop :=
  (∀ (s : State) (ip : BitVec 128) (job : BitVec 32) (word : BitVec 64), bits word 12 4 = 0 → bits word 40 24 = 0 →
    (∀ part, uePart s ip job = some part → ∃ t, exec (.uetokenReceipt ip job word) s = .next t ∧ TokenTaken s t part word ∧
      t = { s with plans := t.plans, tokens := t.tokens }) ∧
    (uePart s ip job = none → ∃ t, exec (.uetokenReceipt ip job word) s = .next t ∧ t.tokens = s.tokens ∧
      t.plans = s.plans)) ∧
  ∀ (s : State) (part : Nat) (va : BitVec 64) (bytes : List (BitVec 8)) (pa : Nat), bytes ≠ [] →
    va.toNat % 256 + bytes.length ≤ 256 → va.toNat < 2 ^ 56 →
    (partEnabled s part = false → exec (.ueRmaWriteReceipt part va bytes) s = .next s) ∧
    (∀ w, partEnabled s part = true → access s walkerTlb part 0 va.toNat true false = .ok pa w → Unretired s pa bytes.length →
      ∃ t, exec (.ueRmaWriteReceipt part va bytes) s = .next t ∧ bytesAt t.mem pa bytes.length = bytes ∧
        SameOutside s t pa bytes.length)

/-! ## Events of Lantern -/

namespace Sys2Proof

/-- R466, R468, R493: the event e, of the present time, enters its tap's queue, or is dropped and counted where the queue is
full or Lantern fenced. -/
def Tapped (s t : State) (e : TapEv) : Prop :=
  let user := e.source = 2047#11
  let queued := (s.lantern.taps.filter fun x => decide (x.source = e.source ∧ (user → x.part = e.part))).length
  let room := queued < (if user then 64 else 4) ∧ fenced s 3492 = false
  e.time = s.time ∧
  (room → t = { s with lantern := { s.lantern with taps := s.lantern.taps ++ [e] } }) ∧
  (¬room → t = { s with lantern := { s.lantern with owners := t.lantern.owners } } ∧ ∀ o < 13, lnOwner t o =
    { lnOwner s o with dropped := (lnOwner s o).dropped + if o = e.part.toNat ∧ o < 12 then 1 else 0 })

/-- R474: xs are the attachments that match the event, in ascending number. -/
structure Matching (s : State) (e : TapEv) (xs : List LnAttach) : Prop where
  these : ∀ a, a ∈ xs ↔ a ∈ s.lantern.attaches ∧ a.lo ≤ e.source.toNat ∧ e.source.toNat ≤ a.hi ∧
    (e.source.toNat - a.lo) % a.step = 0 ∧ e.kind &&& a.mask = a.value &&& a.mask ∧ (a.owner = 12 ∨ a.owner = e.part.toNat)
  ascending : xs.Pairwise fun a b => a.idx < b.idx
  one : s.lantern.attaches.Pairwise fun a b => a.idx ≠ b.idx
  below : ∀ a ∈ s.lantern.attaches, a.idx < 256

/-- R477: the filter of an index does not start: its owner's bucket holds too little. -/
def Skipped (s : State) (i : Nat) : Prop :=
  ∃ f, lnFilter s i = some f ∧ (lnOwner s f.owner).bucket < f.code.length

/-- R480: an owner's command of a code, which is to run: its block is b. -/
structure LnGiven (s : State) (owner code : Nat) (b : LnBlock) : Prop where
  known : owner < 13
  go : (lnCmd s owner).getLsbD 0 = true
  idle : lnIdle s = true
  block : let a := bits (lnCmd s owner) 6 46 * 64
    lnMem s a 64 = true ∧ readNat s a 2 = code ∧ readNat s (a + 4) 4 = 0 ∧
      b = ⟨readNat s (a + 2) 2, readNat s (a + 8) 8, bytesAt s.mem (a + 16) 48⟩

/-- R480: an owner's command ends with a status, having left u: go reads 0. -/
def LnEnds (i : Instr) (s : State) (owner st : Nat) (u : State) : Prop :=
  exec i s = .next (putLnCmd u owner ((lnCmd u owner &&& ~~~0xF#64) ||| BitVec.ofNat 64 (2 * st)))

/-- The nine commands of R480, by code. -/
def LnCommandOf (owner code : Nat) (e : Instr) : Prop :=
  (code, e) ∈ [(1, .lnLoad owner), (2, .lnAttach owner), (3, .lnDetach owner), (4, .lnClear owner), (5, .lnSeeds owner),
    (6, .lnTrigger owner), (7, .lnArm owner), (8, .lnUnfreeze owner), (9, .lnPublish owner)]

/-- The commands whose block's index names a resource, and its kind. -/
def LnIndexes (owner code : Nat) (e : Instr) (r : LnRes) : Prop :=
  (code, e, r) ∈ [(1, .lnLoad owner, .filter), (2, .lnAttach owner, .attach), (3, .lnDetach owner, .attach),
    (5, .lnSeeds owner, .sketch), (6, .lnTrigger owner, .trig), (7, .lnArm owner, .trig), (8, .lnUnfreeze owner, .trace)]

/-- u is s but for Lantern. -/
def OnlyLantern (s u : State) : Prop := u = { s with lantern := u.lantern }

/-- R470, R471: f is the filter of the image at a. -/
structure FromImage (s : State) (owner i a : Nat) (f : LnFilter) : Prop where
  idx : f.idx = i
  owner : f.owner = owner
  hist : f.hist = bytesAt s.mem (a + 0x10) 16
  sketch : f.sketch = bytesAt s.mem (a + 0x20) 4
  trigs : f.trigs = bytesAt s.mem (a + 0x24) 4
  consts : ∀ k < 16, f.consts[k]? = some (read64 s (a + 0x40 + 8 * k))
  words : f.words = List.replicate 16 0
  length : f.code.length = readNat s a 1 ∧ 0 < f.code.length ∧ f.code.length ≤ 128
  code : ∀ k x, f.code[k]? = some x → decodeFilter (BitVec.ofNat 32 (readNat s (a + 0xC0 + 4 * k) 4)) = .ok x

/-- R478, R479: the four words of a ring entry or a trace record, at an address; zero where there is none. -/
def FourWords (t : State) (a : Nat) (w : Option (Dword × Dword × Dword × Dword)) : Prop :=
  let w := w.getD (0, 0, 0, 0)
  read64 t a = w.1 ∧ read64 t (a + 8) = w.2.1 ∧ read64 t (a + 16) = w.2.2.1 ∧ read64 t (a + 24) = w.2.2.2

end Sys2Proof

/-- R466 to R468, R474 to R477, R479: an event enters its source's queue or is dropped; the oldest event of a source
is admitted while no invocation runs: it is recorded in each trace buffer named, and the first of the filters that
match and can start, in ascending attachment number, runs. -/
def Sys2Proof.Claims.TapsAndInvocations : Prop :=
  (∀ (s : State) (e : TapEv), (e.source.toNat < 2016 ∨ e.source = 2047#11) →
    ∃ t, exec (.tapEvent e) s = .next t ∧
      Tapped s t { e with kind := if e.source = 2047#11 then e.kind else 0, time := s.time }) ∧
  (∀ (s : State) (e : TapEv), ((e.source.toNat < 1536 ∧ e.source.toNat % 8 = 7) ∨
      (1824 ≤ e.source.toNat ∧ e.source.toNat < 2016)) →
    ∃ t, exec (.tapSample e) s = .next t ∧ Tapped s t { e with kind := 0, part := 15, time := s.time }) ∧
  ∀ (s : State) (n : Nat) (e : TapEv) (rest : List TapEv) (xs : List LnAttach),
    FirstIn s.lantern.taps (fun x => x.source.toNat = n) e rest → lnIdle s = true → Matching s e xs →
    (∀ b, (lnTrace s b).next < 2048) →
    ∃ t, exec (.filterInvocation n) s = .next t ∧ t.lantern.taps = rest ∧ OnlyLantern s t ∧
      (∀ b, let m := (xs.filter fun a => decide (a.trace = some b)).length
        ((lnTrace s b).frozen = true → lnTrace t b = lnTrace s b) ∧
        ((lnTrace s b).frozen = false → (lnTrace t b).next = ((lnTrace s b).next + m) % 2048 ∧ ∀ j < m,
          (((lnTrace s b).next + j) % 2048, ⟨e.time, eventWord e, e.payload.setWidth 64, 0⟩) ∈ (lnTrace t b).recs)) ∧
      (∀ before i after G, (xs.map LnAttach.filter).eraseDups = before ++ i :: after →
        (∀ j ∈ before, lnFilter s j = none ∨ Skipped s j) → lnFilter s i = some G →
        G.code.length ≤ (lnOwner s G.owner).bucket →
        t.lantern.run = some (LnRun.start G e) ∧ t.lantern.todo = after.map (fun j => (j, e)) ∧
          ∀ j ∈ before, lnFilter t j = (lnFilter s j).map fun f => { f with skips := f.skips + 1 }) ∧
      ((∀ a ∈ xs, lnFilter s a.filter = none ∨ Skipped s a.filter) → t.lantern.run = none ∧ t.lantern.todo = [] ∧
        ∀ o < 13, lnOwner t o = { lnOwner s o with
          skipped := (lnOwner s o).skipped + BitVec.ofNat 64
            ((xs.map LnAttach.filter).eraseDups.filter fun i => (lnFilter s i).any fun f => f.owner == o).length })

/-- R477, R478: at each whole µs every bucket gains its owner's budget, up to eight times it; a trigger re-arms when its
hold-off time has passed since it fired. -/
def Sys2Proof.Claims.BucketsRefillAndTriggersRearm : Prop :=
  (∀ s : State, let us := s.time.toNat / 1000
    ∃ t, exec .bucketRefill s = .next t ∧ t.lantern.refilled = max us s.lantern.refilled ∧
      (∀ o < 13, lnOwner t o = { lnOwner s o with
        bucket := min (8 * lnBudget s o) ((lnOwner s o).bucket + (us - s.lantern.refilled) * lnBudget s o) }) ∧
      t = { s with lantern := { s.lantern with owners := t.lantern.owners, refilled := t.lantern.refilled } }) ∧
  ∀ (s : State) (i : Nat), exec (.triggerRearm i) s = .next { s with lantern := { s.lantern with
    trigs := s.lantern.trigs.map fun x => if x.idx = i ∧ x.hold ≠ 0 ∧ x.firedAt + 1000 * x.hold ≤ s.time.toNat
        then { x with armed := true } else x } }

/-- R469 to R471, R473, R474, R476, R478 to R480: the commands of an owner, and the statuses they end with. -/
def Sys2Proof.Claims.LanternCommands : Prop :=
  ∀ (s : State) (owner code : Nat) (b : LnBlock), LnGiven s owner code b →
    (∀ e, LnCommandOf owner code e → lnRangesBad s owner = true → LnEnds e s owner 2 s) ∧
    (lnRangesBad s owner = false →
      let z := b.addr = 0
      (∀ e r, LnIndexes owner code e r → lnIndex s owner r b.idx = none → LnEnds e s owner 1 s) ∧
      (∀ i, code = 1 → lnIndex s owner .filter b.idx = some i → b.zeroFrom 0 = true →
        (lnMem s b.addr 0xC0 = false → LnEnds (.lnLoad owner) s owner 3 s) ∧
        (lnMem s b.addr 0xC0 = true → lnMem s b.addr (0xC0 + 4 * readNat s b.addr 1) = true →
          (readImage s owner i b.addr = none → LnEnds (.lnLoad owner) s owner 1 s) ∧
          ∀ f, readImage s owner i b.addr = some f → FromImage s owner i b.addr f ∧
            ∃ u, LnEnds (.lnLoad owner) s owner 0 u ∧ OnlyLantern s u ∧
              ∀ j, lnFilter u j = if j = i then some f else lnFilter s j)) ∧
      (∀ i f tr, code = 2 → lnIndex s owner .attach b.idx = some i → lnIndex s owner .filter (b.num 0 2) = some f →
        traceOf s owner (b.num 12 1) = some tr → z → b.zeroFrom 13 = true →
        (1 ≤ b.num 6 2 → b.num 6 2 ≤ 2047 → b.num 2 2 ≤ 2047 → b.num 4 2 ≤ 2047 → b.num 8 2 ≤ 1023 → b.num 10 2 ≤ 1023 →
          LnEnds (.lnAttach owner) s owner 0 { s with lantern := { s.lantern with
            attaches := s.lantern.attaches.filter (fun a => a.idx != i) ++ [⟨i, owner, f, b.num 2 2, b.num 4 2, b.num 6 2,
              BitVec.ofNat 10 (b.num 8 2), BitVec.ofNat 10 (b.num 10 2), tr⟩] } }) ∧
        (b.num 6 2 = 0 ∨ 2047 < b.num 6 2 → LnEnds (.lnAttach owner) s owner 1 s)) ∧
      (∀ i, code = 3 → lnIndex s owner .attach b.idx = some i → z → b.zeroFrom 0 = true →
        LnEnds (.lnDetach owner) s owner 0 { s with lantern := { s.lantern with
          attaches := s.lantern.attaches.filter fun a => a.idx != i } }) ∧
      (code = 4 → z → b.zeroFrom 1 = true → ∃ u, OnlyLantern s u ∧
        (∀ i, b.num 0 1 = 0 → lnIndex s owner .filter b.idx = some i → LnEnds (.lnClear owner) s owner 0 u ∧
          ∀ j, lnFilter u j = if j = i then (lnFilter s i).map fun f => { f with words := List.replicate 16 0 }
            else lnFilter s j) ∧
        (∀ i, b.num 0 1 = 1 → lnIndex s owner .hist b.idx = some i → LnEnds (.lnClear owner) s owner 0 u ∧
          ∀ h c, histAt u h c = if h = i then 0 else histAt s h c) ∧
        (∀ i, b.num 0 1 = 2 → lnIndex s owner .sketch b.idx = some i → LnEnds (.lnClear owner) s owner 0 u ∧
          ∀ k c, sketchAt u k c = if k = i then 0 else sketchAt s k c) ∧
        (∀ i, b.num 0 1 = 3 → lnIndex s owner .trace b.idx = some i → LnEnds (.lnClear owner) s owner 0 u ∧
          (lnTrace u i).next = 0 ∧ (lnTrace u i).recs = [] ∧ ∀ k ≠ i, lnTrace u k = lnTrace s k) ∧
        (3 < b.num 0 1 → LnEnds (.lnClear owner) s owner 1 s)) ∧
      (∀ i, code = 5 → lnIndex s owner .sketch b.idx = some i → z → b.zeroFrom 32 = true →
        LnEnds (.lnSeeds owner) s owner 0 { s with lantern := { s.lantern with
          seeds := s.lantern.seeds.filter (fun x => x.1 != i) ++
            [(i, [0, 8, 16, 24].map fun k => BitVec.ofNat 64 (b.num k 8))] } }) ∧
      (∀ i tr, code = 6 → lnIndex s owner .trig b.idx = some i → traceOf s owner (b.num 1 1) = some tr → z →
        b.num 0 1 ≤ 7 → b.num 2 2 = 0 → b.zeroFrom 8 = true → ∃ u, LnEnds (.lnTrigger owner) s owner 0 u ∧
          OnlyLantern s u ∧ ∀ j, u.lantern.trigs.find? (fun x => x.idx == j) =
            if j = i then some ⟨i, owner, BitVec.ofNat 3 (b.num 0 1), tr, b.num 4 4, true, 0⟩
            else s.lantern.trigs.find? fun x => x.idx == j) ∧
      (∀ i, code = 7 → lnIndex s owner .trig b.idx = some i → z → b.zeroFrom 0 = true →
        LnEnds (.lnArm owner) s owner 0 { s with lantern := { s.lantern with
          trigs := s.lantern.trigs.map fun x => if x.idx = i then { x with armed := true } else x } }) ∧
      (∀ i, code = 8 → lnIndex s owner .trace b.idx = some i → z → b.zeroFrom 0 = true →
        ∃ u, LnEnds (.lnUnfreeze owner) s owner 0 u ∧ OnlyLantern s u ∧
          lnTrace u i = { lnTrace s i with frozen := false } ∧ ∀ k ≠ i, lnTrace u k = lnTrace s k) ∧
      (code = 9 → b.idx = 0 → b.zeroFrom 4 = true → b.addr % 4096 = 0 → 1 ≤ b.num 0 4 → b.num 0 4 ≤ 1000000 →
        (areaOk s owner b.addr = false → LnEnds (.lnPublish owner) s owner 3 s) ∧
        (areaOk s owner b.addr = true → ∃ u, LnEnds (.lnPublish owner) s owner 0 u ∧ OnlyLantern s u ∧
          lnOwner u owner = { lnOwner s owner with area := b.addr, interval := b.num 0 4, lastPub := s.time.toNat } ∧
          ∀ o, o ≠ owner → lnOwner u o = lnOwner s o)))

/-- R478, R479, R481, R482: a publication writes the owner's area: the counts, the write index of its ring, its
filters' skip counts, its trace buffers' places, its histograms, sketches, event ring and traces, and the next even
sequence word; it writes nothing outside the area. -/
def Sys2Proof.Claims.Publication : Prop :=
  ∀ (s : State) (owner : Nat), owner < 13 → lnIdle s = true →
    let o := lnOwner s owner
    let a := o.area
    (o.interval = 0 → exec (.publication owner) s = .next s) ∧
    (o.interval ≠ 0 → Unretired s a (areaSize s owner) → ∃ t, exec (.publication owner) s = .next t ∧
      let word := fun (off : Nat) (v : Dword) => read64 t (a + off) = v
      let h := lnRange s owner .hist
      let k := lnRange s owner .sketch
      let b := lnRange s owner .trace
      let ring := 0x1000 + 512 * h.2 + 16384 * k.2
      word 0 (o.seqw + 2) ∧ word 8 s.time ∧ word 0x10 o.skipped ∧ word 0x18 o.dropped ∧ word 0x20 o.executed ∧
      word 0x28 o.overruns ∧ word 0x30 (BitVec.ofNat 64 o.ringNext) ∧
      (∀ j < 64, ∀ i F, lnIndex s owner .filter j = some i → lnFilter s i = some F → word (0x40 + 8 * j) F.skips) ∧
      (∀ j < 16, ∀ i, lnIndex s owner .trace j = some i → word (0x300 + 8 * j)
        (BitVec.ofNat 64 ((lnTrace s i).next + if (lnTrace s i).frozen = true then 2 ^ 63 else 0))) ∧
      (∀ j < h.2, ∀ c < 64, word (0x1000 + 512 * j + 8 * c) (histAt s (h.1 + j) c)) ∧
      (∀ j < k.2, ∀ c < 4096,
        readNat t (a + (0x1000 + 512 * h.2 + 16384 * j + 4 * c)) 4 = (sketchAt s (k.1 + j) c).toNat) ∧
      (∀ j < 256, FourWords t (a + (ring + 32 * j))
        ((o.ring.find? fun x => x.1 == j).map fun x => (x.2.time, x.2.e2, x.2.value, x.2.trig))) ∧
      (∀ j < b.2, ∀ i < 2048, FourWords t (a + (ring + 8192 + 65536 * j + 32 * i))
        (((lnTrace s (b.1 + j)).recs.find? fun x => x.1 == i).map fun x => (x.2.time, x.2.e2, x.2.payload, x.2.value))) ∧
      SameOutside s t a (areaSize s owner) ∧
      lnOwner t owner = { o with seqw := o.seqw + 2, lastPub := s.time.toNat } ∧
      t = { s with mem := t.mem, poison := t.poison, reported := t.reported, lantern := t.lantern })

/-! ## Events of reliability, boot and the host -/

namespace Sys2Proof

/-- v is u but for the status of block n, which is b. -/
structure BlockIs (u v : State) (n : Nat) (b : Block) : Prop where
  block : blockOf v n = b
  others : ∀ m, m ≠ n → blockOf v m = blockOf u m
  rest : v = { u with blocks := v.blocks }

/-- R486, R491: an error counted in a block's status, up to the counter's highest value. -/
def counted (b : Block) (corrected : Bool) : Block :=
  { b with
    ce := if corrected = true ∧ b.ce.toNat < 2 ^ 32 - 1 then b.ce + 1 else b.ce
    ue := if corrected = false ∧ b.ue.toNat < 2 ^ 16 - 1 then b.ue + 1 else b.ue }

/-- R487, R494: what an entry of the device queue names a block by; a frame of DRAM has no block number. -/
def blockName (n : Nat) : Nat := if n < 65536 then n else 0xFFFF

/-- R493: what becomes of a block that has been fenced. -/
structure FencedIs (u v : State) (n : Nat) : Prop where
  core : n < 192 → (∀ h ∈ v.coreHeld, h.core ≠ n) ∧
    ∀ tm ∈ u.teams, tm.core = n → ∀ g, gridOf u tm.gid = some g → g.phase ≠ .ended → GridFailed v tm.gid 7
  bank : 256 ≤ n → n < 3328 → ∀ tm g, bankTeam u n = some tm → gridOf u tm.gid = some g → g.phase ≠ .ended →
    GridFailed v tm.gid 7
  slice : 3328 ≤ n → n < 3424 → (∀ h ∈ v.sliceHeld, h.slice ≠ n - 3328) ∧
    v.flights = u.flights ++ (u.sliceHeld.filter fun h => h.slice == n - 3328).map fun h => ⟨.slice (n - 3328), 0, h.frag, none⟩
  port : 3424 ≤ n → n < 3472 → ∀ p, u.ports[n - 3424]? = some p →
    v.ports[n - 3424]? = some { p with state := .down, routing := false, retry := [] }
  lantern : n = 3492 → v.lantern.taps = [] ∧ v.lantern.todo = [] ∧ v.lantern.run = none

/-- R424, R425, R500 to R502, R506, R526: what a reset of the device leaves. -/
structure ResetLeaves (s t : State) : Prop where
  cleared : ∀ a < 0x1000_0000_0000, cellAt t.mem a = 0
  cxl : ∀ a ≥ 0x1000_0000_0000, cellAt t.mem a = cellAt s.mem a
  empty : t.groups = [] ∧ t.teams = [] ∧ t.grids = [] ∧ t.cmds = [] ∧ t.descs = [] ∧ t.reqs = [] ∧ t.outbox = []
  good : t.poison = [] ∧ t.retired = [] ∧ t.blocks = []
  control : ∀ p < 12, pregs t p = PartRegs.reset
  functions : ∀ v < 256, vfRegs t v = VfRegs.reset
  lantern : t.lantern = Lantern.reset
  place : t.devid = s.devid
  tables : (∀ j < 32, vget t.ltab j 0 = ltabReset (localGroups t) (s.devid.toNat % 32) j) ∧
    ∀ h < 512, vget t.gtab h 0 = gtabReset (s.devid.toNat / 32) h
  optical : ∀ i, 32 ≤ i → i < 48 → t.ports[i]? = some Port.up
  images : t.trust.images = s.trust.images ∧ t.trust.bootTable = s.trust.bootTable
  measured : ∀ k < 4, vget t.trust.m k 0 =
    if imageGood k (s.trust.images.getD k FwImage.shipped) = true
      then measure (s.trust.images.getD k FwImage.shipped).body else 0
  fuses : vget t.trust.m 4 0 = measure Config.fuseConfig
  recovery : t.trust.recovery = true ↔ ∃ k < 4, imageGood k (s.trust.images.getD k FwImage.shipped) = false
  device : (∀ n < 20, bootBreach s.trust.bootTable n = false) →
    t.dev = { DevRegs.reset with hlth := if t.trust.recovery = true then 2 else 0 }
  groups : (∀ n < 20, bootBreach s.trust.bootTable n = false ∧ persOf (vget s.trust.bootTable n 0) ≠ 4 ∧
      ¬(persOf (vget s.trust.bootTable n 0) = 3 ∧ modeOf (vget s.trust.bootTable n 0) = 1)) →
    ∀ n < 20, let g := LaneGroup.boot (vget s.trust.bootTable n 0)
      (g.pers = 0 → lgAt t n = g) ∧
      (g.pers ≠ 0 → ∃ lanes, lgAt t n = { g with lanes := lanes } ∨
        lgAt t n = { g with lanes := lanes, state := 5, cause := 4, cur := 0 })

/-- R486, R499: the recorded stop of a partition is that of tm, and no other stop is held. -/
structure StoppedAlone (s : State) (part : Nat) (tm : Team) : Prop where
  known : part < 12
  stop : (pregs s part).dbgsta.getLsbD 0 = true
  team : stoppedTeam s part = some tm
  held : (psched s part).stops = []

/-- R503: the bytes of a report, by offset. -/
structure ReportAt (s t : State) (a : Nat) : Prop where
  head : bytesAt t.mem a 8 = [1#8, 0x4D, 0x56, 0x2D, 0x42, 0x34, 0x38, 0x30]
  devid : readNat t (a + 8) 8 = s.devid.toNat
  nonce : ∀ i < 4, read64 t (a + 0x10 + 8 * i) = vget s.dev.attn i 0
  key : ∀ i < 64, cellAt t.mem (a + 0x30 + i) = Config.identityKey i
  measures : ∀ k < 5, readNat t (a + 0x70 + 64 * k) 64 = (vget s.trust.m k 0).toNat
  versions : ∀ k < 4, readNat t (a + 0x1B0 + 2 * k) 2 = vget s.trust.svns k 0 % 65536
  hlth : read64 t (a + 0x1B8) = s.dev.hlth
  signature : ∀ i < 49856, cellAt t.mem (a + 0x1C0 + i) = Config.reportSignature (bytesAt t.mem a 0x1C0) i

/-- R485, R486: the registers of a partition control block whose fields software only writes: offset, and the bits of their
fields. -/
def partFields : List (Nat × Dword) :=
  [(0x008, 0xFFFF#64), (0x010, 0x3FFF#64), (0x018, 0x3FF#64), (0x040, 0x1FFF#64), (0x048, 0x1FFFF#64), (0x050, 0x1FF#64),
   (0x058, 0x1FF#64), (0x060, 0x1FFF#64), (0x068, 0x1FF#64), (0x070, 0x3#64), (0x078, 0x1FFF#64), (0x080, 0xFFFFF#64),
   (0x088, 0xFFFFFFFFF0000#64), (0x090, 0xFFFFFFFF#64), (0x100, 0xFFFFFFFFFF000#64), (0x108, 0xFFFFFFFFFF001#64),
   (0x110, 0xFFFFFFFF#64), (0x118, 0xFFFFFFFFFFFF0#64), (0x128, 0xFFFFFFFFFFFFF8#64), (0x130, 0xFFFFFFFFFFF03F#64),
   (0x180, 0x7#64), (0x188, 0xFFFFFFFFFFC00#64), (0x190, 0xFFFFFFFF1F#64), (0x198, 0xFFFFFFFFE0000#64),
   (0x1A0, 0xFFFFFFFFF8000#64), (0x200, 0xFFFFFFFFFFFFFFF#64), (0x240, 0xFFFFFFFFFFFE0#64)]

/-- R484: a device register of plain fields: its offset and their bits. -/
def deviceField (off : Nat) (mask : Dword) : Prop :=
  (off, mask) ∈ [(0x18, 0xFFF#64), (0x20, 0x3FF#64), (0x30, 0xFFFFFFFFFFFC0#64), (0x40, 0xFFFFFFFFFFFFFFF#64),
    (0x60, 0xFFFFFFFFFFFE0#64)] ∨
  (∃ i < 4, off = 0x88 + 8 * i ∧ mask = BitVec.allOnes 64) ∨ (∃ v < 256, off = 0x1000 + 8 * v ∧ mask = 0x10F#64) ∨
  (∃ j < 32, off = 0x2000 + 8 * j ∧ mask = 0xFF#64) ∨ (∃ h < 512, off = 0x3000 + 8 * h ∧ mask = 0x3FF#64)

/-- R484: the write completes; the register reads as v, and every other of its space as before. -/
def RegisterTakes (s : State) (space : RegSpace) (off : Nat) (value v : Dword) (t : State) : Prop :=
  exec (.registerWrite space off value) s = .next t ∧ registerRead t space off = v ∧
    ∀ o, o ≠ off → registerRead t space o = registerRead s space o

/-- R382, R486: the ring register cfg after a write of value. -/
structure RingWritten (cfg value new : Dword) : Prop where
  lgn : bits new 0 5 = bits value 0 5
  full : new.getLsbD 5 = (cfg.getLsbD 5 && decide (bits value 16 16 = bits cfg 16 16))
  head : bits new 16 16 = bits value 16 16
  tail : bits new 32 16 = bits cfg 32 16
  ovf : bits new 48 16 = if bits value 48 16 ≠ 0 then 0 else bits cfg 48 16

end Sys2Proof

/-- R409, R421, R489 to R494, R497, R498: an error is counted in its block, which is then under test; uncorrected data
are poisoned, or its grid fails; a block under test that errs again runs its test again; a passed test ends with the
block good, a failed one with it fenced, and a frame of DRAM retired; re-planning a margin changes nothing; a power
block's report is an event, and its teams' time slices stood still while its clock was below 0.5 GHz. -/
def Obligations.ErrorsTestsAndPower : Prop :=
  (∀ (s : State) (n : Nat) (pa : Option Nat), blockKnown n = true →
    let b := blockOf s n
    let record : ErrRec := ⟨7, 70, blockName n, 0, pa.getD 0⟩
    (b.state = 0 → ∃ t, exec (.eccError n true pa) s = .next t ∧
      BlockIs (errDev s record) t n { counted b true with state := 1, retested := false }) ∧
    (b.state = 1 → b.retested = false → ∃ t, exec (.eccError n true pa) s = .next t ∧
      BlockIs (errDev s record) t n { counted b true with retested := true }) ∧
    (b.state = 2 → ∃ t, exec (.eccError n true pa) s = .next t ∧ BlockIs (errDev s record) t n (counted b true)) ∧
    (∀ p, b.state = 0 → pa = some p →
      let after := { counted b false with state := 1, retested := false }
      ∃ t, exec (.eccError n false pa) s = .next t ∧ blockOf t n = after ∧ (∀ m, m ≠ n → blockOf t m = blockOf s m) ∧
        (((3328 ≤ n ∧ n < 3424) ∨ 65536 ≤ n) → (∀ w, w ∈ t.poison ↔ w ∈ s.poison ∨ w = p / 8 * 8) ∧
          t = { s with blocks := t.blocks, poison := t.poison, reported := t.reported }) ∧
        (∀ g gr, n < 192 → groupAt s n p = some g → gridOf s g.gid = some gr → gr.phase ≠ .ended →
          GridFailed t g.gid 7) ∧
        (∀ tm, 256 ≤ n → n < 3328 → bankTeam s n = some tm → teamOf s tm.gid tm.team = some tm →
          teamOf t tm.gid tm.team = some { tm with
            banks := tm.banks.map fun x => if x.phys = (n - 256) % 16 ∧ p / 8 * 8 ∉ x.bad
              then { x with bad := x.bad ++ [p / 8 * 8] } else x }))) ∧
  (∀ (s : State) (n : Nat) (result : BitVec 8),
    let b := blockOf s n
    let record : ErrRec := ⟨7, 71, blockName n, 0, if n < 65536 then 0 else (n - 65536) * 4096⟩
    (b.state ≠ 1 → exec (.selfTestEnd n result) s = .next s) ∧
    (b.state = 1 → n < 65536 → result = 0 → ∃ u, BlockIs s u n { b with state := 0, res := 0, retested := false } ∧
      exec (.selfTestEnd n result) s = .next (drainChans (errDev u record))) ∧
    (b.state = 1 → n < 65536 → result ≠ 0 → ∃ u v,
      BlockIs (errDev s record) u n { b with state := 2, res := result, retested := false } ∧ FencedIs u v n ∧
      exec (.selfTestEnd n result) s = .next (drainChans (noteHlth (errDev v ⟨8, 81, n, 0, 0⟩)))) ∧
    (b.state = 1 → 65536 ≤ n → result ≠ 0 → ∃ u, u.retired =
        (if n - 65536 ∈ s.retired then s.retired else s.retired ++ [n - 65536]) ∧
      u = { errDev s record with blocks := u.blocks, retired := u.retired } ∧
      exec (.selfTestEnd n result) s =
        .next (drainChans (noteHlth (errDev u ⟨8, 82, 0xFFFF, 0, (n - 65536) * 4096⟩))))) ∧
  (∀ s : State, let f := (s.blocks.filter fun b => b.state == 2#2 && b.num < 65536).length
    let h := (noteHlth s).dev.hlth
    (h.getLsbD 0 = true ↔ f ≠ 0 ∨ s.retired ≠ []) ∧ h.getLsbD 1 = s.trust.recovery ∧ bits h 16 16 = f % 65536 ∧
      bits h 32 16 = min 65535 s.retired.length) ∧
  (∀ (s : State) (n : Nat), exec (.marginReplan n) s = .next s) ∧
  ∀ (s : State) (b mhz mw celsius : Nat) (p : Power), s.power[b]? = some p →
    let slow := b < 24 ∧ mhz < 500
    let was := b < 24 ∧ p.mhz < 500
    let paused := was ∧ ¬slow
    ∃ t u, exec (.powerBlockUpdate b mhz mw celsius) s = .next t ∧
      Tapped u t ⟨BitVec.ofNat 11 (1984 + b), 0, 15, BitVec.ofNat 48 mw, s.time⟩ ∧
      u.power[b]? = some ⟨mhz, mw, celsius, if slow then (if was then p.slowSince else s.time.toNat) else 0⟩ ∧
      (∀ c, c ≠ b → u.power[c]? = s.power[c]?) ∧
      (let upto := fun x : Team => if (psched s x.part).paused = true then (psched s x.part).pausedAt else s.time.toNat
       u.teams = s.teams.map fun x => if paused ∧ x.core / 8 = b then
         { x with sliceStart := x.sliceStart + (upto x - max p.slowSince x.sliceStart) } else x) ∧
      u = { s with power := u.power, teams := u.teams }

/-- R499, R506, R526: a reset, the device's own at 115 °C too, leaves memory clear and every register at its reset
value; a stopped team goes on at dbgctl.go, and its grid fails with cause 6 at dbgctl.kill. -/
def Sys2Proof.Claims.ResetsAndDebugStops : Prop :=
  (∀ s : State, (∃ t, exec .deviceReset s = .next t ∧ ResetLeaves s t ∧ t.trust.overtemp = false) ∧
    ∃ t, exec .junctionOvertemp s = .next t ∧ ResetLeaves s t ∧ t.trust.overtemp = true) ∧
  ∀ (s : State) (part : Nat) (tm : Team), StoppedAlone s part tm →
    (teamOf s tm.gid tm.team = some tm → ∃ t, exec (.debugGo part) s = .next t ∧
      teamOf t tm.gid tm.team = some { tm with stopped := none } ∧
      (∀ g j, ¬(g = tm.gid ∧ j = tm.team) → teamOf t g j = teamOf s g j) ∧ pregs t part = { pregs s part with dbgsta := 0 } ∧
      t = { s with teams := t.teams, parts := t.parts }) ∧
    ∀ gr, gridOf s tm.gid = some gr → gr.phase ≠ .ended → ∃ t, exec (.debugKill part) s = .next t ∧
      GridFailed t tm.gid 6 ∧ (pregs t part).dbgsta = 0

/-- R500, R503, R505: attctl.go asks for a report, which is written to an area of bonded DRAM, and any other area
refused; an update that verifies is stored, and another is not (the images the part ships with verify: log DESIGN
CHOICE 4; the reply is the model's: log DEDUCED 115); a sensor reads. -/
def Sys2Proof.Claims.AttestationAndManagement : Prop :=
  (∀ (s : State) (value : BitVec 64), ∃ t, exec (.attestationRequest value) s = .next t ∧
    bits t.dev.attctl 16 36 = bits value 16 36 ∧ bits t.dev.attctl 62 2 = bits s.dev.attctl 62 2 ∧
    t.dev.attctl.getLsbD 0 = (s.dev.attctl.getLsbD 0 || value.getLsbD 0) ∧
    t = { s with dev := { s.dev with attctl := t.dev.attctl } }) ∧
  (∀ s : State, let a := bits s.dev.attctl 16 36 * 65536
    (s.dev.attctl.getLsbD 0 = false → exec .attestationWritten s = .next s) ∧
    (s.dev.attctl.getLsbD 0 = true → isBonded (a + 65535) = true → Unretired s a 50304 →
      ∃ t, exec .attestationWritten s = .next t ∧ ReportAt s t a ∧ SameOutside s t a 50304 ∧
        t.dev.attctl.getLsbD 0 = false ∧ bits t.dev.attctl 62 2 = 1) ∧
    (s.dev.attctl.getLsbD 0 = true → isBonded (a + 65535) = false → ∃ t, exec .attestationWritten s = .next t ∧
      t.dev.attctl.getLsbD 0 = false ∧ bits t.dev.attctl 62 2 = 2 ∧
      t = { s with dev := { s.dev with attctl := t.dev.attctl } })) ∧
  (∀ (s : State) (k : Nat) (image : FwImage),
    let verifies := k < 4 ∧ (image = FwImage.shipped ∨
      (Config.signatureGood ((List.range 64).map fun j => (Config.shake256 image.body).extractLsb' (8 * j) 8) image.signature = true ∧
        Config.shake256 image.key = Config.fusedKeyDigest ∧ Config.fusedSvn k ≤ image.svn))
    ∃ t, exec (.pldmFirmwareUpdate k image) s = .next t ∧
      (verifies → t = { s with trust := { s.trust with images := s.trust.images.set k image, reply := 1 } }) ∧
      (¬verifies → t = { s with trust := { s.trust with reply := 0 } })) ∧
  ∀ (s : State) (n : Nat), ∃ t, exec (.pldmSensorRead n) s = .next t ∧
    t = { s with trust := { s.trust with reply := t.trust.reply } } ∧
    (∀ p, s.power[n]? = some p → t.trust.reply = BitVec.ofNat 64 p.milliwatts) ∧
    (∀ p, 32 ≤ n → n < 64 → s.power[n - 32]? = some p → t.trust.reply = BitVec.ofNat 64 p.celsius) ∧
    (n = 64 → t.trust.reply = BitVec.ofNat 64 (s.power.toList.map Power.milliwatts).sum) ∧
    (n = 65 → t.trust.reply = BitVec.ofNat 64 (bits s.dev.hlth 0 1)) ∧
    (n = 66 → t.trust.reply = BitVec.ofNat 64 (bits s.dev.hlth 16 16)) ∧
    (n = 67 → t.trust.reply = BitVec.ofNat 64 (bits s.dev.hlth 32 16))

/-- R8, R397, R469, R480, R484 to R486, R502: an aligned write replaces the fields of the register at its offset and
of no other; status registers keep theirs; one that is not aligned is ignored; a function that is off reads zero and
ignores writes; no partition is enabled in recovery mode; a queue register takes its head. -/
def Sys2Proof.Claims.RegistersAreWritten : Prop :=
  (∀ (s : State) (space : RegSpace) (off : Nat) (value : BitVec 64), off % 8 ≠ 0 →
    exec (.registerWrite space off value) s = .next s ∧ registerRead s space off = 0) ∧
  (∀ (s : State) (p off : Nat) (mask value : BitVec 64), p < 12 →
    ((off, mask) ∈ partFields ∨ (off = 0 ∧ mask = if s.trust.recovery = true then 0xFF02 else 0xFF03)) →
    ∃ t, RegisterTakes s (.partition p) off value (value &&& mask) t ∧ (∀ q, q ≠ p → pregs t q = pregs s q) ∧
      t = { s with parts := t.parts }) ∧
  (∀ (s : State) (off : Nat) (mask value : BitVec 64), deviceField off mask →
    ∃ t, RegisterTakes s .device off value (value &&& mask) t ∧ t.mem = s.mem ∧ t.parts = s.parts) ∧
  (∀ (s : State) (value : BitVec 64), (∀ p < 12, exec (.registerWrite (.partition p) 0x250 value) s = .next s) ∧
    ∀ off, off = 0 ∨ off = 8 ∨ (0x4100 ≤ off ∧ off < 0x41A0) ∨ 0x10000 ≤ off →
      exec (.registerWrite .device off value) s = .next s) ∧
  (∀ (s : State) (v off : Nat) (value : BitVec 64), vfOwner s v = none →
    exec (.registerWrite (.function v) off value) s = .next s ∧ registerRead s (.function v) off = 0) ∧
  (∀ (s : State) (v part : Nat) (value : BitVec 64), vfOwner s v = some part →
    (∃ t, RegisterTakes s (.function v) 0 value (value &&& 0xF_FFFF_FFFF_FF80#64) t ∧ t = { s with vfs := t.vfs }) ∧
    ∃ t, RegisterTakes s (.function v) 0x20 value ((vfRegs s v).vfint &&& ~~~value) t ∧ t = { s with vfs := t.vfs }) ∧
  (∀ (s : State) (p : Nat) (value : BitVec 64), p < 12 →
    exec (.registerWrite (.partition p) 0x120 value) s = exec (.queueHeadWrite (.rqcfg p) value) s ∧
    exec (.registerWrite (.partition p) 0x248 value) s = exec (.queueHeadWrite (.eqcfg p) value) s ∧
    exec (.registerWrite .device 0x68 value) s = exec (.queueHeadWrite .deqcfg value) s ∧
    (∃ t, exec (.queueHeadWrite (.rqcfg p) value) s = .next t ∧ RingWritten (pregs s p).rqcfg value (pregs t p).rqcfg ∧
      pregs t p = { pregs s p with rqcfg := (pregs t p).rqcfg } ∧ t = { s with parts := t.parts }) ∧
    (∃ t, exec (.queueHeadWrite (.eqcfg p) value) s = .next t ∧ RingWritten (pregs s p).eqcfg value (pregs t p).eqcfg ∧
      pregs t p = { pregs s p with eqcfg := (pregs t p).eqcfg } ∧ t = { s with parts := t.parts }) ∧
    (∃ t, exec (.queueHeadWrite .deqcfg value) s = .next t ∧ RingWritten s.dev.deqcfg value t.dev.deqcfg ∧
      t = { s with dev := { s.dev with deqcfg := t.dev.deqcfg } }) ∧
    ((lnCmd s p).getLsbD 0 = true → exec (.registerWrite (.partition p) 0x210 value) s = .next s) ∧
    ((lnCmd s p).getLsbD 0 = false → value.getLsbD 0 = true → lnMem s (bits value 6 46 * 64) 64 = true →
      1 ≤ readNat s (bits value 6 46 * 64) 2 → readNat s (bits value 6 46 * 64) 2 ≤ 9 →
      ∃ t, exec (.registerWrite (.partition p) 0x210 value) s = .next t ∧ bits (lnCmd t p) 6 46 = bits value 6 46 ∧
        (lnCmd t p).getLsbD 0 = true ∧ t = { s with parts := t.parts }) ∧
    (let rest := (((List.range 13).filter fun o => o != p).map (lnBudget s)).sum
     (rest + bits value 22 14 ≤ 8000 → ∃ t,
        RegisterTakes s (.partition p) 0x208 value (value &&& 0xF_FFFF_FFFF#64) t ∧ t = { s with parts := t.parts }) ∧
     (8000 < rest + bits value 22 14 → lnBudget s p < bits value 22 14 →
        exec (.registerWrite (.partition p) 0x208 value) s = .next (errDev s ⟨9, 95, 3492, 0, p⟩))))

/-! ## The whole machine: terms -/

namespace Sys2Proof

/-- The next step is that of split w, of group g: nothing is due before it, the slots of its core have had their
opportunities, and the split is Ready. -/
structure ReadyNext (s : State) (w : Issuer) (rest : List Issuer) (g : Group) : Prop where
  due : s.agenda = []
  turn : s.turn = w :: rest
  cursor : s.cursor % 4 = 0
  group : groupAt s w.core w.gslot = some g
  ready : (splitAt g w.entry).arch.state = .ready
  issues : (splitAt g w.entry).idle = none

/-- R119, R378: the halfwords hs stand at an address, where a fetch of a core may read them. -/
def StandsAt (s : State) (core part gid : Nat) (pc : Dword) (hs : List (BitVec 16)) : Prop :=
  ∀ k h, hs[k]? = some h → pc.toNat + 2 * k < 2 ^ 56 ∧ ∃ pa m,
    access s (coreTlb core) part gid (pc.toNat + 2 * k) false true = .ok pa m ∧
    poisoned s pa 2 = false ∧ readNat s pa 2 = h.toNat

/-- R403: the split at w has stalled: its instruction has still to issue. -/
def StallsAt (t : State) (w : Issuer) : Prop := ∃ g, groupAt t w.core w.gslot = some g ∧ (splitAt g w.entry).idle ≠ none

/-- R120, R136, R146: the split w of group g, next to issue, takes the illegal-instruction trap. -/
def TakesIllegal (s : State) (w : Issuer) (rest : List Issuer) (g : Group) : Prop :=
  let p := splitAt g w.entry
  ∃ n, step s = .next (noteIssue { enterTrap { s with turn := rest } ⟨w, p.arch.pc, p.arch.pc⟩ (plainTrap 0 p.arch.mask) with
    cur := none
    freeCtr := n } w.core w.gslot p.arch.mask)

/-- A program's instruction, which is no filter instruction and no step of the device. -/
def IsProgram (i : Instr) : Prop := (∃ p f u, view i = .core p f u) ∨ ∃ op w, view i = .half op w

/-- What stands in the device where an instruction is looked for: steps of the device are due, and the filters hold filter
instructions. -/
structure InPlace (s : State) : Prop where
  due : ∀ i ∈ s.agenda, view i = .event
  filters : ∀ f ∈ s.lantern.filters, ∀ i ∈ f.code, ∃ w, view i = .filter w

/-- R382: an entry of n bytes enters the queue of base and configuration cfg, where there is room, and is counted as lost
where there is none: what becomes of memory, and the register. -/
structure Queued (s t : State) (cfg cfg' : Dword) (base n : Nat) (entry : List Byte) : Prop where
  room : ringOn cfg = true → ringHeld cfg < 2 ^ bits cfg 0 5 →
    let a := base + n * (bits cfg 32 16 % 2 ^ bits cfg 0 5)
    (Unretired s a n → bytesAt t.mem a n = entry) ∧ SameOutside s t a n ∧
    bits cfg' 32 16 = (bits cfg 32 16 + 1) % 2 ^ 16 ∧ (cfg'.getLsbD 5 = true ↔ ringHeld cfg + 1 = 2 ^ bits cfg 0 5) ∧
    bits cfg' 48 16 = bits cfg 48 16
  none : (ringOn cfg = false ∨ 2 ^ bits cfg 0 5 ≤ ringHeld cfg) → t.mem = s.mem ∧
    bits cfg' 32 16 = bits cfg 32 16 ∧ cfg'.getLsbD 5 = cfg.getLsbD 5 ∧ bits cfg' 48 16 = min 0xFFFF (bits cfg 48 16 + 1)
  head : bits cfg' 16 16 = bits cfg 16 16
  lgn : bits cfg' 0 5 = bits cfg 0 5

/-- R371, R372: below the root, four tables lead from va to the page entry e, each at T k and each valid, with the second
stage off; of the pages that need several entries, all entries are the same (R373). -/
structure FourTables (s : State) (part va : Nat) (T : Nat → Nat) (e : Dword) : Prop where
  off : (pregs s part).s2cfg.getLsbD 0 = false
  root : T 5 = bits (pregs s part).ptroot 12 40 * 4096
  here : ∀ k, 1 ≤ k → k ≤ 5 → isMem s (T k) = true
  tables : ∀ k, 2 ≤ k → k ≤ 5 → let x := read64 s (T k + 8 * (va / 2 ^ (3 + 9 * k) % 512))
    x.getLsbD 0 = true ∧ bits x 1 2 = 0 ∧ bits x 3 9 = 0 ∧ bits x 52 12 = 0 ∧ bits x 12 40 * 4096 = T (k - 1)
  page : e = read64 s (T 1 + 8 * (va / 4096 % 512))
  alike : ∀ k, 1 ≤ k → k ≤ 5 → ∀ n ∈ pageSpans k, pageDiffers s k (T k + 8 * (va / 2 ^ (3 + 9 * k) % 512 / n * n)) n = false

/-- R378, R383: a unit holds no translation of an address. -/
def NotHeld (s : State) (unit part va : Nat) : Prop := ∀ e ∈ s.tlb, e.covers unit part va = false

end Sys2Proof

/-! ## The whole machine: statements -/

/-- R119, R127 to R132, R137, R146, R471: the halfwords of every legal instruction of a program decode to it and leave
what follows them, and halfwords decode to nothing but a legal instruction whose halfwords they begin with; the same
of filter words. -/
def Obligations.WordsAndInstructionsAgree : Prop :=
  (∀ (i : Instr) (rest : List (BitVec 16)), IsProgram i → WellFormed i → decode (encode i ++ rest) = .ok (i, rest)) ∧
  (∀ (hs rest : List (BitVec 16)) (i : Instr), decode hs = .ok (i, rest) →
    IsProgram i ∧ WellFormed i ∧ hs = encode i ++ rest) ∧
  (∀ (i : Instr) (w : Word), view i = .filter w → decodeFilter w = .ok i) ∧
  ∀ (i : Instr) (w : Word), decodeFilter w = .ok i → view i = .filter w

/-- Words written out from the spec's encodings decode to the instructions they stand for: fmul.c v8, v9, v10,
ffma.ru.c v4, b0, v6, v7 behind its pfx, the halfword fadd v3, v3, b1, mmt, acc.bind, cpy.load, wtg.any, eng.gset,
mst, fence.f, sys.trap 10, sys.rte, and filter words. -/
def Obligations.WrittenWordsDecode : Prop :=
  let core := fun (ws : List Word) => decode (ws.flatMap wordHalves)
  core [0x8A122045#32] = .ok (.fmul ⟨.none, true, 0, 8, 9, 10⟩, []) ∧
  core [0x030713FF#32, 0x86F01047#32] =
    .ok (.ffma ⟨.op ⟨3, false, 7, false, false, false, true, false, 3⟩, true, 0, 4, 120, 6⟩, []) ∧
  core [0x001008F1#32] = .ok (.mmt .none 2 8, []) ∧ core [0x010004F5#32] = .ok (.accBind 1, []) ∧
  core [0x001814F7#32] = .ok (.cpyLoad .none 5 12, []) ∧ core [0x000800F9#32] = .ok (.wtgAny 4, []) ∧
  core [0x000600FB#32] = .ok (.engGset 3, []) ∧ core [0x050C08E7#32] = .ok (.mst .none 2 6 5, []) ∧
  core [0x042800E9#32] = .ok (.fence .none 4 20, []) ∧ core [0x001400FD#32] = .ok (.sysTrap 10, []) ∧
  core [0x010000FD#32] = .ok (.sysRte, []) ∧ decode [0xF472#16] = .ok (.faddC16 ⟨61, 3⟩, []) ∧
  decodeFilter 0x000000D4#32 = .ok (.filterLbkt 0 3) ∧ decodeFilter 0x00040110#32 = .ok (.filterMovi 1 4) ∧
  decodeFilter 0x0005401A#32 = .ok (.filterBltu 1 5 0) ∧ decodeFilter 0x0000001B#32 = .ok (.filterTrig 0 0)

/-- R119, R120, R131, R136, R147, R236, R403, R475: the step of a Ready split carries out the instruction whose
halfwords stand at its pc, with the address after it, and counts as an issue to its group's yielded splits; where the
instruction stalls, the issue slot has its opportunity again; a pattern that is no instruction takes the
illegal-instruction trap; a step that is due, and the filter instruction of the running invocation, are carried out as
they stand; with nothing to do, the next issue slot has its opportunity, the splits of a core that it chooses issue
lower group slot first, and after the last slot of a cycle the cycle ends (the order of the slots is the model's: log
DESIGN CHOICE 14). -/
def Obligations.StepRunsTheDecodedInstruction : Prop :=
  (∀ (s : State) (w : Issuer) (rest : List Issuer) (g : Group) (i : Instr), ReadyNext s w rest g → IsProgram i →
    WellFormed i →
    let pc := (splitAt g w.entry).arch.pc
    let fetched := (List.range (length i)).map fun k => pc.toNat + 2 * k
    StandsAt s w.core (partOf s g) g.gid pc (encode i) → ∀ t,
    exec i { keepTlb { s with turn := rest } (coreTlb w.core) (partOf s g) g.gid fetched with
        cur := some ⟨w, pc, pc + BitVec.ofNat 64 (2 * length i)⟩ } = .next t →
      (¬StallsAt t w → step s = .next (noteIssue { t with cur := none } w.core w.gslot (splitAt g w.entry).arch.mask)) ∧
      (StallsAt t w → step s = slotTurn w.core (w.gslot % 4) { t with cur := none })) ∧
  (∀ (s : State) (w : Issuer) (rest : List Issuer) (g : Group) (hs : List (BitVec 16)), ReadyNext s w rest g →
    hs.length ≤ 6 → StandsAt s w.core (partOf s g) g.gid (splitAt g w.entry).arch.pc hs → commitReady s g = true →
    (decode hs = .error .zeroHalfword ∨ decode hs = .error .pfxBeforeHalf ∨ decode hs = .error .badPfx ∨
      ∃ m, decode hs = .error (.badWord m)) → TakesIllegal s w rest g) ∧
  (∀ (s : State) (w : Issuer) (rest : List Issuer), s.agenda = [] → s.turn = w :: rest → s.cursor % 4 = 0 →
    (∀ g, groupAt s w.core w.gslot = some g → (splitAt g w.entry).arch.state ≠ .ready) →
    step s = .next { s with turn := rest }) ∧
  (∀ (s : State) (i : Instr) (rest : List Instr), s.agenda = i :: rest →
    step s = endInstr (exec i { s with agenda := rest })) ∧
  ∀ s : State, s.agenda = [] →
    (∀ r F i, s.turn = [] → s.lantern.run = some r → underTest s 3492 = false → lnFilter s r.filter = some F →
      F.code[r.pc]? = some i → step s = exec i s) ∧
    ((s.turn ≠ [] ∧ s.cursor % 4 ≠ 0) ∨
        (s.turn = [] ∧ s.lantern.run = none ∧ s.lantern.taps = [] ∧ nextPacket s = none) →
      (768 ≤ s.cursor → step s = .next (cycleEnd { s with cursor := 0 })) ∧
      (s.cursor < 768 → ∀ t, slotTurn (s.cursor / 4) (s.cursor % 4) { s with cursor := s.cursor + 1 } = .next t →
        step s = .next (if t.cursor % 4 = 0 then { t with turn := byGroupSlot t.turn } else t)))

/-- R120, R136: the halfword 0x0000, every word of major opcode 0x00 and every word of a reserved major opcode raise the
illegal-instruction trap. -/
def Obligations.ReservedPatternsTrap : Prop :=
  (∀ rest, decode (0#16 :: rest) = .error .zeroHalfword) ∧
  (∀ (w : Word) (rest : List (BitVec 16)), w.getLsbD 0 = true → w.extractLsb' 1 7 = 0 →
    ∃ raw, decode (wordHalves w ++ rest) = .ok (.ill raw, rest)) ∧
  decode [1#16, 0#16] = .ok (.ill 0, []) ∧
  (∀ (w : Word) (rest : List (BitVec 16)), w.getLsbD 0 = true →
    let m := (w.extractLsb' 1 7).toNat
    ((0x1A ≤ m ∧ m ≤ 0x1F) ∨ (0x39 ≤ m ∧ m ≤ 0x3F) ∨ m = 0x4E ∨ m = 0x4F) →
    decode (wordHalves w ++ rest) = .error (.badWord (w.extractLsb' 1 7))) ∧
  (∀ (s : State) (c : Ctx) (raw : BitVec 24), Issuing s c → commitReady s c.g = true →
    Traps (.ill raw) s c (plainTrap 0 c.mask)) ∧
  ∀ (s : State) (w : Issuer) (rest : List Issuer) (g : Group) (hs : List (BitVec 16)), ReadyNext s w rest g →
    hs.length ≤ 6 → StandsAt s w.core (partOf s g) g.gid (splitAt g w.entry).arch.pc hs → commitReady s g = true →
    (decode hs = .error .zeroHalfword ∨ ∃ m, decode hs = .error (.badWord m)) → TakesIllegal s w rest g

/-- R377, R397, R420, R424, R425, R451, R480, R485, R486, R493, R506, R526: the values that the manual gives for the
end of reset; memory is in its canonical form there, and only steps of the device are due. -/
def Obligations.ResetHasItsValues : Prop :=
  let s := State.reset
  (∀ a, cellAt s.mem a = 0) ∧ s.groups = [] ∧ s.teams = [] ∧ s.grids = [] ∧ s.cmds = [] ∧
  (∀ p < 12, ∀ off, registerRead s (.partition p) off =
    if off = 0x070 ∨ off = 0x180 then 3 else if off = 0x110 then 0xFFFF_FFFF else 0) ∧
  (∀ v < 256, registerRead s .device (0x1000 + 8 * v) = 0 ∧ ∀ off, registerRead s (.function v) off = 0) ∧
  registerRead s .device 0x18 = 2800 ∧ registerRead s .device 0x20 = 50 ∧ registerRead s .device 0x08 = 1536000000000 ∧
  (∀ n, blockAssigned n = true → registerRead s .device (0x10000 + 8 * n) = 0) ∧
  registerRead s .device 0x4000 = 3 ∧ (∀ n, 0 < n → n < 20 → registerRead s .device (0x4000 + 8 * n) = 0) ∧
  (∀ o < 13, lnBudget s o = 0 ∧ (lnOwner s o).ring = [] ∧ (lnOwner s o).interval = 0) ∧ s.lantern.attaches = [] ∧
  Memory.wf s.mem = true ∧ InPlace s

/-- Every step, and every instruction, keeps memory in its canonical form: addresses rise strictly, and no listed byte
is what an unlisted one reads as. -/
def Obligations.MemoryStaysCanonical : Prop :=
  (∀ (s t : State), Memory.wf s.mem = true → step s = .next t → Memory.wf t.mem = true) ∧
  ∀ (i : Instr) (s t : State), Memory.wf s.mem = true → exec i s = .next t → Memory.wf t.mem = true

/-- No instruction is refused, and one faults only where no split and no invocation carries it out; from a device in
whose queues stand what belongs there, every step answers a next state, of which the same holds. -/
def Obligations.EveryStepGoesOn : Prop :=
  (∀ (i : Instr) (s : State), (∀ x, exec i s ≠ .refused x) ∧ ∀ x, exec i s = .fault x → x = .noIssuer ∧
    ((∃ w, view i = .filter w) → s.lantern.run = none) ∧ view i ≠ .event ∧ (IsProgram i → ∀ c, ¬Standing s c)) ∧
  ∀ s : State, InPlace s → ∃ t, step s = .next t ∧ InPlace t

/-- R495: blkst of a number that no block has reads zero. -/
def Obligations.UnassignedBlocksReadZero : Prop :=
  ∀ (s : State) (n : Nat), ¬(n < 192 ∨ (256 ≤ n ∧ n < 3328) ∨ (3328 ≤ n ∧ n < 3424) ∨ (3424 ≤ n ∧ n < 3472) ∨
    (3472 ≤ n ∧ n ≤ 3493)) → registerRead s .device (0x10000 + 8 * n) = 0

/-- R475: what an invocation starts with. -/
def Obligations.InvocationsStart : Prop :=
  ∀ (s : State) (n : Nat) (r : LnRun) (t : State), s.lantern.run = none → exec (.filterInvocation n) s = .next t →
    t.lantern.run = some r →
    vget r.e 0 0 = r.ev.payload.setWidth 64 ∧ vget r.e 1 0 = r.ev.time ∧
    (vget r.e 2 0).toNat = r.ev.source.toNat + r.ev.kind.toNat * 2 ^ 11 + r.ev.part.toNat * 2 ^ 21 ∧
    (∀ i, 3 ≤ i → i < 16 → vget r.e i 0 = 0) ∧ r.pc = 0

/-- R361, R371 to R374, R376, R378, R383, R389, R390: an access for which its unit holds no translation, where it is
let through, reaches memory of the device, in a colour of its partition and in no bivouac region; through four tables
and the entry of a 4 KiB page it reaches that page, where the entry allows it. While a unit holds a translation marked
non-resident, no access of its page is let through. -/
def Obligations.TranslationReachesPages : Prop :=
  (∀ (s : State) (unit part gid va pa gpa : Nat) (w x : Bool), NotHeld s unit part va →
    access s unit part gid va w x = .ok pa gpa →
    isMem s pa = true ∧ (pregs s part).ccm.getLsbD (pa / 2 ^ 16 % 32) = true ∧ inBivouac s pa = false) ∧
  (∀ (s : State) (unit part gid va : Nat) (w x : Bool) (T : Nat → Nat) (e : Dword), NotHeld s unit part va →
    FourTables s part va T e →
    let meets := access s unit part gid va w x
    (e.getLsbD 0 = false → meets = .denied []) ∧
    (e.getLsbD 0 = true → bits e 1 2 = 3 → bits e 8 4 = 0 → meets = .denied [xlErr 1 gid (T 1 + 8 * (va / 4096 % 512))]) ∧
    (e.getLsbD 0 = true → bits e 1 2 = 1 → bits e 8 4 = 0 → bits e 6 2 = 0 → bits e 52 12 = 0 →
      let pa := bits e 12 40 * 4096 + va % 4096
      isMem s pa = true →
      meets =
        if (w = true ∧ e.getLsbD 3 = false) ∨ (x = true ∧ e.getLsbD 4 = false) then .denied []
        else if e.getLsbD 5 = true then .nonresident
        else if inBivouac s pa = true then .denied []
        else if (pregs s part).ccm.getLsbD (pa / 2 ^ 16 % 32) = true then .ok pa pa
        else .denied [xlErr 3 gid pa])) ∧
  ∀ (s : State) (unit part gid va : Nat) (w x : Bool) (e : TlbEntry) (before after : List TlbEntry),
    s.tlb = before ++ e :: after → (∀ y ∈ before, y.covers unit part va = false) → e.covers unit part va = true →
    e.marked = true → (∀ pa gpa, access s unit part gid va w x ≠ .ok pa gpa) ∧
      ∀ dev win off, access s unit part gid va w x ≠ .peer dev win off

/-- R382, R487, R488: an event is an entry of a partition's or the device's queue, and a residency request one of its
partition's, or is counted as lost; an entry of a partition's error queue sets bit 0 of its function's vfint and
raises its vector, once. -/
def Obligations.QueuesTakeEntries : Prop :=
  (∀ (s : State) (p : Nat) (e : ErrRec), p < 12 →
    let t := errPart s p e
    let r := pregs s p
    let v := bits r.pctl 8 8
    Queued s t r.eqcfg (pregs t p).eqcfg (r.eqbase.toNat / 32 * 32 % 2 ^ 52) 32 (errBytes s e) ∧
    (∀ q, q ≠ p → pregs t q = pregs s q) ∧
    (ringOn r.eqcfg = true → ringHeld r.eqcfg < 2 ^ bits r.eqcfg 0 5 → (vfRegs t v).vfint.getLsbD 0 = true ∧
      t.msix = s.msix ++ (if (vfRegs s v).vfint.getLsbD 0 = true then [] else [(v, 0)])) ∧
    ((ringOn r.eqcfg = false ∨ 2 ^ bits r.eqcfg 0 5 ≤ ringHeld r.eqcfg) → t.vfs = s.vfs ∧ t.msix = s.msix)) ∧
  (∀ (s : State) (e : ErrRec), let t := errDev s e
    Queued s t s.dev.deqcfg t.dev.deqcfg (s.dev.deqbase.toNat / 32 * 32 % 2 ^ 52) 32 (errBytes s e) ∧ t.parts = s.parts) ∧
  (∀ (s : State) (e : ErrRec), (errBytes s e).length = 32 ∧ natOfBytes ((errBytes s e).take 8) = s.time.toNat ∧
    natOfBytes (((errBytes s e).drop 8).take 1) = e.kind % 256 ∧
    natOfBytes (((errBytes s e).drop 10).take 2) = e.block % 2 ^ 16 ∧
    natOfBytes (((errBytes s e).drop 12).take 4) = e.gid % 2 ^ 32 ∧
    natOfBytes (((errBytes s e).drop 16).take 8) = e.addr % 2 ^ 64) ∧
  ∀ (s : State) (p source gid va : Nat), p < 12 → source < 8 →
    let t := postRes s p source gid va
    let r := pregs s p
    Queued s t r.rqcfg (pregs t p).rqcfg (r.rqbase.toNat / 16 * 16 % 2 ^ 52) 16
      (bytesOfNat 8 (va / 4096 * 4096 % 2 ^ 56 + source) ++ bytesOfNat 8 (gid % 2 ^ 32))

/-! ## Statements of several claims -/

/-- Integer lane instructions: arithmetic, logic, shifts, fields and distances in each active lane: the claims of the
names below, each with its rules. Each of these forms completes under one of them: add, sub, mul, mulh, mad, min, max,
addsat, subsat, lsa, addC16, subC16, mulC16, and, or, xor, andn, shl, shr, sra, rot, andC16, orC16, xorC16, shlC16,
shrC16, sraC16, bfx, bfi, sad. -/
def Obligations.IntegerOperations : Prop :=
  Sys2Proof.Claims.IntegerArithmeticPerElement ∧
  Sys2Proof.Claims.LogicAndShiftsPerElement ∧
  Sys2Proof.Claims.FieldsAndDistances

/-- The iun operations, sel and movi in each active lane: the claims of the names below, each with its rules. Each of
these forms completes under one of them: iunAbs, iunNeg, iunNot, iunClz, iunPopc, iunBrev, iunMov, movC16, sel, movi.
-/
def Obligations.PicksAndImmediates : Prop :=
  Sys2Proof.Claims.SingleSourceOperations ∧
  Sys2Proof.Claims.SelectionAndImmediates

/-- Floating-point arithmetic rounds once; picks, signs and classes; NaN operands give the canonical NaN: the claims
of the names below, each with its rules. Each of these forms completes under one of them: fadd, fsub, fmul, ffma,
fmin, fmax, fdiv, fsqrt, frcp, frsq, frint, fscale, fneg, faddC16, fsubC16, fmulC16, fminC16, fmaxC16, fnegC16, fminp,
fmaxp, fclass, fabs, fcpsgn. -/
def Obligations.FloatArithmetic : Prop :=
  Sys2Proof.Claims.FloatArithmeticRoundsOnce ∧
  Sys2Proof.Claims.FloatPicksAndSigns ∧
  Sys2Proof.Claims.NaNOperandsGiveTheCanonicalNaN

/-- swpp, shfl, bcast, rfal, match, redl and votes read other lanes of the split: the claims of the names below, each
with its rules. Each of these forms completes under one of them: swpp, shfl, rfal, bcast, matchLanes, redlSum,
redlMax, redlMin, voteAny, voteAll, voteBallot. -/
def Obligations.LanesShareValues : Prop :=
  Sys2Proof.Claims.LanesReadOneAnother ∧
  Sys2Proof.Claims.VotesOverActiveLanes

/-- Scalar instructions write their register; a team scalar arrives later: the claims of the names below, each with
its rules. Each of these forms completes under one of them: sadd, ssub, smul, smad, sand, sor, sxor, sshl, sshr, ssra,
smin, smax, smov, slsa, sli. -/
def Obligations.ScalarInstructions : Prop :=
  Sys2Proof.Claims.ScalarOperations ∧
  Sys2Proof.Claims.TeamScalarArrives

/-- exit, kill and yld: the claims of the names below, each with its rules. Each of these forms completes under one of
them: exit, kill, yld. -/
def Obligations.EndingAndYielding : Prop :=
  Sys2Proof.Claims.LanesEnd ∧
  Sys2Proof.Claims.LanesEndBesideParkedSplits ∧
  Sys2Proof.Claims.YieldsGiveWay

/-- ld of local memory writes each active lane, and of a peer window asks for it: the claims of the names below, each
with its rules. Each of these forms completes under one of them: ld. -/
def Obligations.Loads : Prop :=
  Sys2Proof.Claims.LoadsPerLane ∧
  Sys2Proof.Claims.LoadsFromPeers

/-- ldu and stu read and write one scalar value: the claims of the names below, each with its rules. Each of these
forms completes under one of them: ldu, stu. -/
def Obligations.ScalarMemory : Prop :=
  Sys2Proof.Claims.ScalarLoads ∧
  Sys2Proof.Claims.ScalarStores

/-- st writes each active lane's bytes, or waits; a region holds st, stu and sts back: the claims of the names below,
each with its rules. Each of these forms completes under one of them: st. -/
def Obligations.Stores : Prop :=
  Sys2Proof.Claims.StoresPerLane ∧
  Sys2Proof.Claims.StoresHeldInRegion ∧
  Sys2Proof.Claims.StoresWait

/-- lds and sts in scratch and FIFO banks: the claims of the names below, each with its rules. Each of these forms
completes under one of them: lds, sts. -/
def Obligations.StageMemory : Prop :=
  Sys2Proof.Claims.StageScratchAccess ∧
  Sys2Proof.Claims.StageFifoAccess

/-- atm in local memory and at peers; pgreq posts its pages: the claims of the names below, each with its rules. Each
of these forms completes under one of them: atmAdd, atmMin, atmMax, atmAnd, atmOr, atmXor, atmXchg, atmCas, pgreq. -/
def Obligations.AtomicsAndResidency : Prop :=
  Sys2Proof.Claims.AtomicsPerLane ∧
  Sys2Proof.Claims.AtomicsAtPeers ∧
  Sys2Proof.Claims.ResidencyRequests

/-- rgn.begin and rgn.commit open a region and perform what it holds; a committing region goes first: the claims of
the names below, each with its rules. Each of these forms completes under one of them: rgnBegin, rgnCommit. -/
def Obligations.Regions : Prop :=
  Sys2Proof.Claims.RegionsOpenAndClose ∧
  Sys2Proof.Claims.CommitPerformsTheBuffer ∧
  Sys2Proof.Claims.CommittingRegionsGoFirst

/-- fence, fence.s and fencex complete when what they wait for has: the claims of the names below, each with its
rules. Each of these forms completes under one of them: fence, fencex, fenceS. -/
def Obligations.FencesOrder : Prop :=
  Sys2Proof.Claims.Fences ∧
  Sys2Proof.Claims.StreamFence

/-- bar arrives, waits, and releases its participants: the claims of the names below, each with its rules. Each of
these forms completes under one of them: bar. -/
def Obligations.Barriers : Prop :=
  Sys2Proof.Claims.ArrivingAtBarriers ∧
  Sys2Proof.Claims.BarriersComplete

/-- cpy, eng.plan and eng.lnt enter the engine queue; a full queue makes engine instructions wait: the claims of the
names below, each with its rules. Each of these forms completes under one of them: cpyLoad, cpyStore, cpyGather,
cpyScatter, cpyFill, cpyL2pf, cpyXfer, engPlan, engLnt. -/
def Obligations.EngineQueue : Prop :=
  Sys2Proof.Claims.CopiesAndPlansQueue ∧
  Sys2Proof.Claims.FullQueueWaits

/-- acc operations bind accumulators and enter the queue: the claims of the names below, each with its rules. Each of
these forms completes under one of them: accZero, accLoad, accStore, accFold, accCtrb, accBind. -/
def Obligations.Accumulators : Prop :=
  Sys2Proof.Claims.AccumulatorCommands ∧
  Sys2Proof.Claims.BindingAccumulators

/-- wtg waits on copy tags; eng.gset sets a guard slot: the claims of the names below, each with its rules. Each of
these forms completes under one of them: wtgAny, wtgAll, wtgFirst, wtgTest, engGset. -/
def Obligations.TagsAndGuardSlots : Prop :=
  Sys2Proof.Claims.WaitingOnTags ∧
  Sys2Proof.Claims.SettingGuardSlots

/-- eng.launch accepts a launch or refuses it, and eng.waitl waits for one: the claims of the names below, each with
its rules. Each of these forms completes under one of them: engLaunch, engWaitl. -/
def Obligations.DeviceLaunching : Prop :=
  Sys2Proof.Claims.DeviceLaunches ∧
  Sys2Proof.Claims.LaunchReadsPages ∧
  Sys2Proof.Claims.LaunchRefusals ∧
  Sys2Proof.Claims.WaitingOnLaunches

/-- sys operations on register blocks, special registers and bank modes: the claims of the names below, each with its
rules. Each of these forms completes under one of them: sysRegacq, sysRegrel, sysMovsr, sysMovcr, sysXiset, sysStat,
sysNop, sysClk, sysMode. -/
def Obligations.SystemState : Prop :=
  Sys2Proof.Claims.RegisterBlocks ∧
  Sys2Proof.Claims.SystemRegisters ∧
  Sys2Proof.Claims.BankModes

/-- Where lane instructions, ld and st trap, in which order and with what: the claims of the names below, each with
its rules. -/
def Obligations.OperandTraps : Prop :=
  Sys2Proof.Claims.LaneTraps ∧
  Sys2Proof.Claims.MemoryTraps

/-- Lantern's filter instructions: the claims of the names below, each with its rules. Each of these forms completes
under one of them: filterAdd, filterSub, filterMul, filterAnd, filterOr, filterXor, filterShl, filterShr, filterMin,
filterMax, filterClz, filterAddi, filterAndi, filterShli, filterShri, filterMovi, filterLbkt, filterLdk, filterLdst,
filterStst, filterHadd, filterKadd, filterKest, filterBeq, filterBne, filterBltu, filterEnd, filterTrig. -/
def Obligations.FilterInstructions : Prop :=
  Sys2Proof.Claims.FilterArithmetic ∧
  Sys2Proof.Claims.FilterObjectsAndBranches ∧
  Sys2Proof.Claims.FilterTriggersAndEnd

/-- Waits end, splits rotate, and an issue slot chooses its splits: the claims of the names below, each with its
rules. Each of these forms completes under one of them: fenceRetire, issueAccessComplete, engineQueueRetry, wtgWake,
waitlReturn, gsetExchange, fifoAccessResume, yldResume, regacqGrant, splitRotation, issueOpportunity. -/
def Obligations.SplitEvents : Prop :=
  Sys2Proof.Claims.WaitsEnd ∧
  Sys2Proof.Claims.FifoWaitsEnd ∧
  Sys2Proof.Claims.YieldsAndGrantsEnd ∧
  Sys2Proof.Claims.SplitsRotate ∧
  Sys2Proof.Claims.IssueChoosesSplits ∧
  Sys2Proof.Claims.SharedPorts

/-- Stores finish, banks take their mode, invalidations run and end: the claims of the names below, each with its
rules. Each of these forms completes under one of them: rwcLineDrain, accessCompletion, bankDrainComplete,
invalidationComplete, tinvFirstStage, tinvSecondStage, tinvAll, tinvWindows. -/
def Obligations.MemoryEvents : Prop :=
  Sys2Proof.Claims.StoresFinish ∧
  Sys2Proof.Claims.BanksTakeTheirMode ∧
  Sys2Proof.Claims.InvalidationsRunAndEnd

/-- Fragments pair as siblings in the core and at the slice: the claims of the names below, each with its rules. Each
of these forms completes under one of them: coreBufferForward, arriveAt, fragmentReoffer. -/
def Obligations.FragmentsArePaired : Prop :=
  Sys2Proof.Claims.FragmentsPair ∧
  Sys2Proof.Claims.FragmentsMeetInTheCore ∧
  Sys2Proof.Claims.FragmentsMeetAtTheSlice

/-- Descriptors open, reductions end, and switch slots time out: the claims of the names below, each with its rules.
Each of these forms completes under one of them: spillExhausted, slotTimeout, sliceRedInit, keyPassExpiry. -/
def Obligations.ReductionsOpenAndEnd : Prop :=
  Sys2Proof.Claims.ReductionsEnd ∧
  Sys2Proof.Claims.DescriptorsOpenAndSlotsTimeOut

/-- Engine commands start, move their elements and complete: the claims of the names below, each with its rules. Each
of these forms completes under one of them: commandStart, commandComplete, guardFlagRead, cpyFifoElement. -/
def Obligations.CommandEvents : Prop :=
  Sys2Proof.Claims.CommandsStart ∧
  Sys2Proof.Claims.CommandsComplete ∧
  Sys2Proof.Claims.GuardFlagsAreRead ∧
  Sys2Proof.Claims.CopiesMoveElements

/-- Launch queues, pending launches, teams placed, ended, made to leave, saved and restored; rates and power: the
claims of the names below, each with its rules. Each of these forms completes under one of them: launchQueueTake,
launchRecordRetry, lqwrWrite, pendingRelease, teamPlace, teamEnd, preemptionRequest, timeSliceEnd, contextWritten,
teamRestore, shedStep, shedUndo, rateRecovery. -/
def Obligations.LaunchesAndTeams : Prop :=
  Sys2Proof.Claims.LaunchQueuesAreTaken ∧
  Sys2Proof.Claims.PendingRecordsAreReleased ∧
  Sys2Proof.Claims.TeamsStartAndEnd ∧
  Sys2Proof.Claims.SpaceIsFreed ∧
  Sys2Proof.Claims.ModesOfLeaving ∧
  Sys2Proof.Claims.TimeSlicesEnd ∧
  Sys2Proof.Claims.TeamsAreSavedAndRestored ∧
  Sys2Proof.Claims.RatesRecoverAndPowerIsShed

/-- Fabric requests are performed in channel order and their answers end them: the claims of the names below, each
with its rules. Each of these forms completes under one of them: rd, wr, wrm, atmPacket, seqa, skip, seqaSend, ack,
nack, rdr, atr, mack. -/
def Obligations.FabricRequests : Prop :=
  Sys2Proof.Claims.RequestsArePerformed ∧
  Sys2Proof.Claims.ChannelsKeepOrder ∧
  Sys2Proof.Claims.AnswersEndRequests

/-- Fragments, lines and tokens arrive; packets travel; multicast entries and timeouts: the claims of the names below,
each with its rules. Each of these forms completes under one of them: frag, mstPacket, token, requestTimeout,
packetRoute, packetResend, skipResend, channelReset, tokenResend, multicastLoad, memberTimeout. -/
def Obligations.FabricPackets : Prop :=
  Sys2Proof.Claims.FragmentsLinesAndTokensArrive ∧
  Sys2Proof.Claims.PacketsTravel ∧
  Sys2Proof.Claims.MulticastTableAndTimeouts

/-- Links and lane groups change state, and the boot table is kept: the claims of the names below, each with its
rules. Each of these forms completes under one of them: flitError, lossOfLock, linkTrainResult, portRejoin,
managementRetrain, replayComplete, lgctlGo, lgQuiesceEnd, lgDrainEnd, lgRetrainEnd, lgMap, bootTableAccess. -/
def Obligations.LinksAndLaneGroups : Prop :=
  Sys2Proof.Claims.LinksChangeState ∧
  Sys2Proof.Claims.LaneGroupsChangePersonality

/-- Plans take contexts, their operations fire, and they end; Ultra Ethernet arrives: the claims of the names below,
each with its rules. Each of these forms completes under one of them: planContextTake, planNop, planCopy, planReduce,
planWaitd, planSignal, planUewrite, planUetoken, planOpComplete, tokenTimeout, uetokenReceipt, ueRmaWriteReceipt. -/
def Obligations.Plans : Prop :=
  Sys2Proof.Claims.PlansTakeContexts ∧
  Sys2Proof.Claims.PlanOperationsFire ∧
  Sys2Proof.Claims.PlansEnd ∧
  Sys2Proof.Claims.UltraEthernetArrives

/-- Taps, invocations, buckets, triggers, commands and publication of Lantern: the claims of the names below, each
with its rules. Each of these forms completes under one of them: tapEvent, tapSample, filterInvocation, bucketRefill,
triggerRearm, lnLoad, lnAttach, lnDetach, lnClear, lnSeeds, lnTrigger, lnArm, lnUnfreeze, lnPublish, publication. -/
def Obligations.LanternEvents : Prop :=
  Sys2Proof.Claims.TapsAndInvocations ∧
  Sys2Proof.Claims.BucketsRefillAndTriggersRearm ∧
  Sys2Proof.Claims.LanternCommands ∧
  Sys2Proof.Claims.Publication

/-- Resets, debug stops, attestation, management and register writes: the claims of the names below, each with its
rules. Each of these forms completes under one of them: junctionOvertemp, deviceReset, debugGo, debugKill,
attestationRequest, attestationWritten, pldmFirmwareUpdate, pldmSensorRead, queueHeadWrite, registerWrite. -/
def Obligations.HostAndManagement : Prop :=
  Sys2Proof.Claims.ResetsAndDebugStops ∧
  Sys2Proof.Claims.AttestationAndManagement ∧
  Sys2Proof.Claims.RegistersAreWritten
end

