-- ==== Sys2Proof/Laws/State.lean ====
section
/-! SUPPORT. Laws/State.lean: what each update of the state and of a group leaves in each field. -/
namespace Sys2Proof.Laws

open Sys2Proof.Machine

/-! ## putGroup -/

@[simp] theorem putGroup_time (s : State) (g : Group) : (putGroup s g).time = s.time := rfl
@[simp] theorem putGroup_half (s : State) (g : Group) : (putGroup s g).half = s.half := rfl
@[simp] theorem putGroup_clk (s : State) (g : Group) : (putGroup s g).clk = s.clk := rfl
@[simp] theorem putGroup_agenda (s : State) (g : Group) : (putGroup s g).agenda = s.agenda := rfl
@[simp] theorem putGroup_turn (s : State) (g : Group) : (putGroup s g).turn = s.turn := rfl
@[simp] theorem putGroup_cursor (s : State) (g : Group) : (putGroup s g).cursor = s.cursor := rfl
@[simp] theorem putGroup_cur (s : State) (g : Group) : (putGroup s g).cur = s.cur := rfl
@[simp] theorem putGroup_freeCtr (s : State) (g : Group) : (putGroup s g).freeCtr = s.freeCtr := rfl
@[simp] theorem putGroup_mem (s : State) (g : Group) : (putGroup s g).mem = s.mem := rfl
@[simp] theorem putGroup_poison (s : State) (g : Group) : (putGroup s g).poison = s.poison := rfl
@[simp] theorem putGroup_retired (s : State) (g : Group) : (putGroup s g).retired = s.retired := rfl
@[simp] theorem putGroup_reported (s : State) (g : Group) : (putGroup s g).reported = s.reported := rfl
@[simp] theorem putGroup_devid (s : State) (g : Group) : (putGroup s g).devid = s.devid := rfl
@[simp] theorem putGroup_teams (s : State) (g : Group) : (putGroup s g).teams = s.teams := rfl
@[simp] theorem putGroup_grids (s : State) (g : Group) : (putGroup s g).grids = s.grids := rfl
@[simp] theorem putGroup_cmds (s : State) (g : Group) : (putGroup s g).cmds = s.cmds := rfl
@[simp] theorem putGroup_nextCid (s : State) (g : Group) : (putGroup s g).nextCid = s.nextCid := rfl
@[simp] theorem putGroup_barriers (s : State) (g : Group) : (putGroup s g).barriers = s.barriers := rfl
@[simp] theorem putGroup_ticks (s : State) (g : Group) : (putGroup s g).ticks = s.ticks := rfl
@[simp] theorem putGroup_regWaits (s : State) (g : Group) : (putGroup s g).regWaits = s.regWaits := rfl
@[simp] theorem putGroup_opCache (s : State) (g : Group) : (putGroup s g).opCache = s.opCache := rfl
@[simp] theorem putGroup_tlb (s : State) (g : Group) : (putGroup s g).tlb = s.tlb := rfl
@[simp] theorem putGroup_redReqs (s : State) (g : Group) : (putGroup s g).redReqs = s.redReqs := rfl
@[simp] theorem putGroup_flights (s : State) (g : Group) : (putGroup s g).flights = s.flights := rfl
@[simp] theorem putGroup_coreHeld (s : State) (g : Group) : (putGroup s g).coreHeld = s.coreHeld := rfl
@[simp] theorem putGroup_sliceHeld (s : State) (g : Group) : (putGroup s g).sliceHeld = s.sliceHeld := rfl
@[simp] theorem putGroup_refused (s : State) (g : Group) : (putGroup s g).refused = s.refused := rfl
@[simp] theorem putGroup_filters (s : State) (g : Group) : (putGroup s g).filters = s.filters := rfl
@[simp] theorem putGroup_reds (s : State) (g : Group) : (putGroup s g).reds = s.reds := rfl
@[simp] theorem putGroup_spills (s : State) (g : Group) : (putGroup s g).spills = s.spills := rfl
@[simp] theorem putGroup_carried (s : State) (g : Group) : (putGroup s g).carried = s.carried := rfl
@[simp] theorem putGroup_descs (s : State) (g : Group) : (putGroup s g).descs = s.descs := rfl
@[simp] theorem putGroup_outbox (s : State) (g : Group) : (putGroup s g).outbox = s.outbox := rfl
@[simp] theorem putGroup_chansOut (s : State) (g : Group) : (putGroup s g).chansOut = s.chansOut := rfl
@[simp] theorem putGroup_chansIn (s : State) (g : Group) : (putGroup s g).chansIn = s.chansIn := rfl
@[simp] theorem putGroup_reqs (s : State) (g : Group) : (putGroup s g).reqs = s.reqs := rfl
@[simp] theorem putGroup_nextTag (s : State) (g : Group) : (putGroup s g).nextTag = s.nextTag := rfl
@[simp] theorem putGroup_rwc (s : State) (g : Group) : (putGroup s g).rwc = s.rwc := rfl
@[simp] theorem putGroup_ports (s : State) (g : Group) : (putGroup s g).ports = s.ports := rfl
@[simp] theorem putGroup_lgs (s : State) (g : Group) : (putGroup s g).lgs = s.lgs := rfl
@[simp] theorem putGroup_ltab (s : State) (g : Group) : (putGroup s g).ltab = s.ltab := rfl
@[simp] theorem putGroup_gtab (s : State) (g : Group) : (putGroup s g).gtab = s.gtab := rfl
@[simp] theorem putGroup_slots (s : State) (g : Group) : (putGroup s g).slots = s.slots := rfl
@[simp] theorem putGroup_passing (s : State) (g : Group) : (putGroup s g).passing = s.passing := rfl
@[simp] theorem putGroup_fairness (s : State) (g : Group) : (putGroup s g).fairness = s.fairness := rfl
@[simp] theorem putGroup_mcGroups (s : State) (g : Group) : (putGroup s g).mcGroups = s.mcGroups := rfl
@[simp] theorem putGroup_mcFlights (s : State) (g : Group) : (putGroup s g).mcFlights = s.mcFlights := rfl
@[simp] theorem putGroup_rates (s : State) (g : Group) : (putGroup s g).rates = s.rates := rfl
@[simp] theorem putGroup_plans (s : State) (g : Group) : (putGroup s g).plans = s.plans := rfl
@[simp] theorem putGroup_ueOut (s : State) (g : Group) : (putGroup s g).ueOut = s.ueOut := rfl
@[simp] theorem putGroup_tokens (s : State) (g : Group) : (putGroup s g).tokens = s.tokens := rfl
@[simp] theorem putGroup_invs (s : State) (g : Group) : (putGroup s g).invs = s.invs := rfl
@[simp] theorem putGroup_lantern (s : State) (g : Group) : (putGroup s g).lantern = s.lantern := rfl
@[simp] theorem putGroup_parts (s : State) (g : Group) : (putGroup s g).parts = s.parts := rfl
@[simp] theorem putGroup_sched (s : State) (g : Group) : (putGroup s g).sched = s.sched := rfl
@[simp] theorem putGroup_dev (s : State) (g : Group) : (putGroup s g).dev = s.dev := rfl
@[simp] theorem putGroup_vfs (s : State) (g : Group) : (putGroup s g).vfs = s.vfs := rfl
@[simp] theorem putGroup_blocks (s : State) (g : Group) : (putGroup s g).blocks = s.blocks := rfl
@[simp] theorem putGroup_power (s : State) (g : Group) : (putGroup s g).power = s.power := rfl
@[simp] theorem putGroup_trust (s : State) (g : Group) : (putGroup s g).trust = s.trust := rfl
@[simp] theorem putGroup_shed (s : State) (g : Group) : (putGroup s g).shed = s.shed := rfl
@[simp] theorem putGroup_shedAt (s : State) (g : Group) : (putGroup s g).shedAt = s.shedAt := rfl
@[simp] theorem putGroup_msix (s : State) (g : Group) : (putGroup s g).msix = s.msix := rfl

/-! ## modGroup -/

@[simp] theorem modGroup_time (s : State) (k j : Nat) (f : Group → Group) : (modGroup s k j f).time = s.time := rfl
@[simp] theorem modGroup_half (s : State) (k j : Nat) (f : Group → Group) : (modGroup s k j f).half = s.half := rfl
@[simp] theorem modGroup_clk (s : State) (k j : Nat) (f : Group → Group) : (modGroup s k j f).clk = s.clk := rfl
@[simp] theorem modGroup_agenda (s : State) (k j : Nat) (f : Group → Group) : (modGroup s k j f).agenda = s.agenda := rfl
@[simp] theorem modGroup_turn (s : State) (k j : Nat) (f : Group → Group) : (modGroup s k j f).turn = s.turn := rfl
@[simp] theorem modGroup_cursor (s : State) (k j : Nat) (f : Group → Group) : (modGroup s k j f).cursor = s.cursor := rfl
@[simp] theorem modGroup_cur (s : State) (k j : Nat) (f : Group → Group) : (modGroup s k j f).cur = s.cur := rfl
@[simp] theorem modGroup_freeCtr (s : State) (k j : Nat) (f : Group → Group) : (modGroup s k j f).freeCtr = s.freeCtr := rfl
@[simp] theorem modGroup_mem (s : State) (k j : Nat) (f : Group → Group) : (modGroup s k j f).mem = s.mem := rfl
@[simp] theorem modGroup_poison (s : State) (k j : Nat) (f : Group → Group) : (modGroup s k j f).poison = s.poison := rfl
@[simp] theorem modGroup_retired (s : State) (k j : Nat) (f : Group → Group) : (modGroup s k j f).retired = s.retired := rfl
@[simp] theorem modGroup_reported (s : State) (k j : Nat) (f : Group → Group) : (modGroup s k j f).reported = s.reported := rfl
@[simp] theorem modGroup_devid (s : State) (k j : Nat) (f : Group → Group) : (modGroup s k j f).devid = s.devid := rfl
@[simp] theorem modGroup_teams (s : State) (k j : Nat) (f : Group → Group) : (modGroup s k j f).teams = s.teams := rfl
@[simp] theorem modGroup_grids (s : State) (k j : Nat) (f : Group → Group) : (modGroup s k j f).grids = s.grids := rfl
@[simp] theorem modGroup_cmds (s : State) (k j : Nat) (f : Group → Group) : (modGroup s k j f).cmds = s.cmds := rfl
@[simp] theorem modGroup_nextCid (s : State) (k j : Nat) (f : Group → Group) : (modGroup s k j f).nextCid = s.nextCid := rfl
@[simp] theorem modGroup_barriers (s : State) (k j : Nat) (f : Group → Group) : (modGroup s k j f).barriers = s.barriers := rfl
@[simp] theorem modGroup_ticks (s : State) (k j : Nat) (f : Group → Group) : (modGroup s k j f).ticks = s.ticks := rfl
@[simp] theorem modGroup_regWaits (s : State) (k j : Nat) (f : Group → Group) : (modGroup s k j f).regWaits = s.regWaits := rfl
@[simp] theorem modGroup_opCache (s : State) (k j : Nat) (f : Group → Group) : (modGroup s k j f).opCache = s.opCache := rfl
@[simp] theorem modGroup_tlb (s : State) (k j : Nat) (f : Group → Group) : (modGroup s k j f).tlb = s.tlb := rfl
@[simp] theorem modGroup_redReqs (s : State) (k j : Nat) (f : Group → Group) : (modGroup s k j f).redReqs = s.redReqs := rfl
@[simp] theorem modGroup_flights (s : State) (k j : Nat) (f : Group → Group) : (modGroup s k j f).flights = s.flights := rfl
@[simp] theorem modGroup_coreHeld (s : State) (k j : Nat) (f : Group → Group) : (modGroup s k j f).coreHeld = s.coreHeld := rfl
@[simp] theorem modGroup_sliceHeld (s : State) (k j : Nat) (f : Group → Group) : (modGroup s k j f).sliceHeld = s.sliceHeld := rfl
@[simp] theorem modGroup_refused (s : State) (k j : Nat) (f : Group → Group) : (modGroup s k j f).refused = s.refused := rfl
@[simp] theorem modGroup_filters (s : State) (k j : Nat) (f : Group → Group) : (modGroup s k j f).filters = s.filters := rfl
@[simp] theorem modGroup_reds (s : State) (k j : Nat) (f : Group → Group) : (modGroup s k j f).reds = s.reds := rfl
@[simp] theorem modGroup_spills (s : State) (k j : Nat) (f : Group → Group) : (modGroup s k j f).spills = s.spills := rfl
@[simp] theorem modGroup_carried (s : State) (k j : Nat) (f : Group → Group) : (modGroup s k j f).carried = s.carried := rfl
@[simp] theorem modGroup_descs (s : State) (k j : Nat) (f : Group → Group) : (modGroup s k j f).descs = s.descs := rfl
@[simp] theorem modGroup_outbox (s : State) (k j : Nat) (f : Group → Group) : (modGroup s k j f).outbox = s.outbox := rfl
@[simp] theorem modGroup_chansOut (s : State) (k j : Nat) (f : Group → Group) : (modGroup s k j f).chansOut = s.chansOut := rfl
@[simp] theorem modGroup_chansIn (s : State) (k j : Nat) (f : Group → Group) : (modGroup s k j f).chansIn = s.chansIn := rfl
@[simp] theorem modGroup_reqs (s : State) (k j : Nat) (f : Group → Group) : (modGroup s k j f).reqs = s.reqs := rfl
@[simp] theorem modGroup_nextTag (s : State) (k j : Nat) (f : Group → Group) : (modGroup s k j f).nextTag = s.nextTag := rfl
@[simp] theorem modGroup_rwc (s : State) (k j : Nat) (f : Group → Group) : (modGroup s k j f).rwc = s.rwc := rfl
@[simp] theorem modGroup_ports (s : State) (k j : Nat) (f : Group → Group) : (modGroup s k j f).ports = s.ports := rfl
@[simp] theorem modGroup_lgs (s : State) (k j : Nat) (f : Group → Group) : (modGroup s k j f).lgs = s.lgs := rfl
@[simp] theorem modGroup_ltab (s : State) (k j : Nat) (f : Group → Group) : (modGroup s k j f).ltab = s.ltab := rfl
@[simp] theorem modGroup_gtab (s : State) (k j : Nat) (f : Group → Group) : (modGroup s k j f).gtab = s.gtab := rfl
@[simp] theorem modGroup_slots (s : State) (k j : Nat) (f : Group → Group) : (modGroup s k j f).slots = s.slots := rfl
@[simp] theorem modGroup_passing (s : State) (k j : Nat) (f : Group → Group) : (modGroup s k j f).passing = s.passing := rfl
@[simp] theorem modGroup_fairness (s : State) (k j : Nat) (f : Group → Group) : (modGroup s k j f).fairness = s.fairness := rfl
@[simp] theorem modGroup_mcGroups (s : State) (k j : Nat) (f : Group → Group) : (modGroup s k j f).mcGroups = s.mcGroups := rfl
@[simp] theorem modGroup_mcFlights (s : State) (k j : Nat) (f : Group → Group) : (modGroup s k j f).mcFlights = s.mcFlights := rfl
@[simp] theorem modGroup_rates (s : State) (k j : Nat) (f : Group → Group) : (modGroup s k j f).rates = s.rates := rfl
@[simp] theorem modGroup_plans (s : State) (k j : Nat) (f : Group → Group) : (modGroup s k j f).plans = s.plans := rfl
@[simp] theorem modGroup_ueOut (s : State) (k j : Nat) (f : Group → Group) : (modGroup s k j f).ueOut = s.ueOut := rfl
@[simp] theorem modGroup_tokens (s : State) (k j : Nat) (f : Group → Group) : (modGroup s k j f).tokens = s.tokens := rfl
@[simp] theorem modGroup_invs (s : State) (k j : Nat) (f : Group → Group) : (modGroup s k j f).invs = s.invs := rfl
@[simp] theorem modGroup_lantern (s : State) (k j : Nat) (f : Group → Group) : (modGroup s k j f).lantern = s.lantern := rfl
@[simp] theorem modGroup_parts (s : State) (k j : Nat) (f : Group → Group) : (modGroup s k j f).parts = s.parts := rfl
@[simp] theorem modGroup_sched (s : State) (k j : Nat) (f : Group → Group) : (modGroup s k j f).sched = s.sched := rfl
@[simp] theorem modGroup_dev (s : State) (k j : Nat) (f : Group → Group) : (modGroup s k j f).dev = s.dev := rfl
@[simp] theorem modGroup_vfs (s : State) (k j : Nat) (f : Group → Group) : (modGroup s k j f).vfs = s.vfs := rfl
@[simp] theorem modGroup_blocks (s : State) (k j : Nat) (f : Group → Group) : (modGroup s k j f).blocks = s.blocks := rfl
@[simp] theorem modGroup_power (s : State) (k j : Nat) (f : Group → Group) : (modGroup s k j f).power = s.power := rfl
@[simp] theorem modGroup_trust (s : State) (k j : Nat) (f : Group → Group) : (modGroup s k j f).trust = s.trust := rfl
@[simp] theorem modGroup_shed (s : State) (k j : Nat) (f : Group → Group) : (modGroup s k j f).shed = s.shed := rfl
@[simp] theorem modGroup_shedAt (s : State) (k j : Nat) (f : Group → Group) : (modGroup s k j f).shedAt = s.shedAt := rfl
@[simp] theorem modGroup_msix (s : State) (k j : Nat) (f : Group → Group) : (modGroup s k j f).msix = s.msix := rfl

/-! ## modTeam -/

@[simp] theorem modTeam_time (s : State) (k j : Nat) (f : Team → Team) : (modTeam s k j f).time = s.time := rfl
@[simp] theorem modTeam_half (s : State) (k j : Nat) (f : Team → Team) : (modTeam s k j f).half = s.half := rfl
@[simp] theorem modTeam_clk (s : State) (k j : Nat) (f : Team → Team) : (modTeam s k j f).clk = s.clk := rfl
@[simp] theorem modTeam_agenda (s : State) (k j : Nat) (f : Team → Team) : (modTeam s k j f).agenda = s.agenda := rfl
@[simp] theorem modTeam_turn (s : State) (k j : Nat) (f : Team → Team) : (modTeam s k j f).turn = s.turn := rfl
@[simp] theorem modTeam_cursor (s : State) (k j : Nat) (f : Team → Team) : (modTeam s k j f).cursor = s.cursor := rfl
@[simp] theorem modTeam_cur (s : State) (k j : Nat) (f : Team → Team) : (modTeam s k j f).cur = s.cur := rfl
@[simp] theorem modTeam_freeCtr (s : State) (k j : Nat) (f : Team → Team) : (modTeam s k j f).freeCtr = s.freeCtr := rfl
@[simp] theorem modTeam_mem (s : State) (k j : Nat) (f : Team → Team) : (modTeam s k j f).mem = s.mem := rfl
@[simp] theorem modTeam_poison (s : State) (k j : Nat) (f : Team → Team) : (modTeam s k j f).poison = s.poison := rfl
@[simp] theorem modTeam_retired (s : State) (k j : Nat) (f : Team → Team) : (modTeam s k j f).retired = s.retired := rfl
@[simp] theorem modTeam_reported (s : State) (k j : Nat) (f : Team → Team) : (modTeam s k j f).reported = s.reported := rfl
@[simp] theorem modTeam_devid (s : State) (k j : Nat) (f : Team → Team) : (modTeam s k j f).devid = s.devid := rfl
@[simp] theorem modTeam_groups (s : State) (k j : Nat) (f : Team → Team) : (modTeam s k j f).groups = s.groups := rfl
@[simp] theorem modTeam_grids (s : State) (k j : Nat) (f : Team → Team) : (modTeam s k j f).grids = s.grids := rfl
@[simp] theorem modTeam_cmds (s : State) (k j : Nat) (f : Team → Team) : (modTeam s k j f).cmds = s.cmds := rfl
@[simp] theorem modTeam_nextCid (s : State) (k j : Nat) (f : Team → Team) : (modTeam s k j f).nextCid = s.nextCid := rfl
@[simp] theorem modTeam_barriers (s : State) (k j : Nat) (f : Team → Team) : (modTeam s k j f).barriers = s.barriers := rfl
@[simp] theorem modTeam_ticks (s : State) (k j : Nat) (f : Team → Team) : (modTeam s k j f).ticks = s.ticks := rfl
@[simp] theorem modTeam_regWaits (s : State) (k j : Nat) (f : Team → Team) : (modTeam s k j f).regWaits = s.regWaits := rfl
@[simp] theorem modTeam_opCache (s : State) (k j : Nat) (f : Team → Team) : (modTeam s k j f).opCache = s.opCache := rfl
@[simp] theorem modTeam_tlb (s : State) (k j : Nat) (f : Team → Team) : (modTeam s k j f).tlb = s.tlb := rfl
@[simp] theorem modTeam_redReqs (s : State) (k j : Nat) (f : Team → Team) : (modTeam s k j f).redReqs = s.redReqs := rfl
@[simp] theorem modTeam_flights (s : State) (k j : Nat) (f : Team → Team) : (modTeam s k j f).flights = s.flights := rfl
@[simp] theorem modTeam_coreHeld (s : State) (k j : Nat) (f : Team → Team) : (modTeam s k j f).coreHeld = s.coreHeld := rfl
@[simp] theorem modTeam_sliceHeld (s : State) (k j : Nat) (f : Team → Team) : (modTeam s k j f).sliceHeld = s.sliceHeld := rfl
@[simp] theorem modTeam_refused (s : State) (k j : Nat) (f : Team → Team) : (modTeam s k j f).refused = s.refused := rfl
@[simp] theorem modTeam_filters (s : State) (k j : Nat) (f : Team → Team) : (modTeam s k j f).filters = s.filters := rfl
@[simp] theorem modTeam_reds (s : State) (k j : Nat) (f : Team → Team) : (modTeam s k j f).reds = s.reds := rfl
@[simp] theorem modTeam_spills (s : State) (k j : Nat) (f : Team → Team) : (modTeam s k j f).spills = s.spills := rfl
@[simp] theorem modTeam_carried (s : State) (k j : Nat) (f : Team → Team) : (modTeam s k j f).carried = s.carried := rfl
@[simp] theorem modTeam_descs (s : State) (k j : Nat) (f : Team → Team) : (modTeam s k j f).descs = s.descs := rfl
@[simp] theorem modTeam_outbox (s : State) (k j : Nat) (f : Team → Team) : (modTeam s k j f).outbox = s.outbox := rfl
@[simp] theorem modTeam_chansOut (s : State) (k j : Nat) (f : Team → Team) : (modTeam s k j f).chansOut = s.chansOut := rfl
@[simp] theorem modTeam_chansIn (s : State) (k j : Nat) (f : Team → Team) : (modTeam s k j f).chansIn = s.chansIn := rfl
@[simp] theorem modTeam_reqs (s : State) (k j : Nat) (f : Team → Team) : (modTeam s k j f).reqs = s.reqs := rfl
@[simp] theorem modTeam_nextTag (s : State) (k j : Nat) (f : Team → Team) : (modTeam s k j f).nextTag = s.nextTag := rfl
@[simp] theorem modTeam_rwc (s : State) (k j : Nat) (f : Team → Team) : (modTeam s k j f).rwc = s.rwc := rfl
@[simp] theorem modTeam_ports (s : State) (k j : Nat) (f : Team → Team) : (modTeam s k j f).ports = s.ports := rfl
@[simp] theorem modTeam_lgs (s : State) (k j : Nat) (f : Team → Team) : (modTeam s k j f).lgs = s.lgs := rfl
@[simp] theorem modTeam_ltab (s : State) (k j : Nat) (f : Team → Team) : (modTeam s k j f).ltab = s.ltab := rfl
@[simp] theorem modTeam_gtab (s : State) (k j : Nat) (f : Team → Team) : (modTeam s k j f).gtab = s.gtab := rfl
@[simp] theorem modTeam_slots (s : State) (k j : Nat) (f : Team → Team) : (modTeam s k j f).slots = s.slots := rfl
@[simp] theorem modTeam_passing (s : State) (k j : Nat) (f : Team → Team) : (modTeam s k j f).passing = s.passing := rfl
@[simp] theorem modTeam_fairness (s : State) (k j : Nat) (f : Team → Team) : (modTeam s k j f).fairness = s.fairness := rfl
@[simp] theorem modTeam_mcGroups (s : State) (k j : Nat) (f : Team → Team) : (modTeam s k j f).mcGroups = s.mcGroups := rfl
@[simp] theorem modTeam_mcFlights (s : State) (k j : Nat) (f : Team → Team) : (modTeam s k j f).mcFlights = s.mcFlights := rfl
@[simp] theorem modTeam_rates (s : State) (k j : Nat) (f : Team → Team) : (modTeam s k j f).rates = s.rates := rfl
@[simp] theorem modTeam_plans (s : State) (k j : Nat) (f : Team → Team) : (modTeam s k j f).plans = s.plans := rfl
@[simp] theorem modTeam_ueOut (s : State) (k j : Nat) (f : Team → Team) : (modTeam s k j f).ueOut = s.ueOut := rfl
@[simp] theorem modTeam_tokens (s : State) (k j : Nat) (f : Team → Team) : (modTeam s k j f).tokens = s.tokens := rfl
@[simp] theorem modTeam_invs (s : State) (k j : Nat) (f : Team → Team) : (modTeam s k j f).invs = s.invs := rfl
@[simp] theorem modTeam_lantern (s : State) (k j : Nat) (f : Team → Team) : (modTeam s k j f).lantern = s.lantern := rfl
@[simp] theorem modTeam_parts (s : State) (k j : Nat) (f : Team → Team) : (modTeam s k j f).parts = s.parts := rfl
@[simp] theorem modTeam_sched (s : State) (k j : Nat) (f : Team → Team) : (modTeam s k j f).sched = s.sched := rfl
@[simp] theorem modTeam_dev (s : State) (k j : Nat) (f : Team → Team) : (modTeam s k j f).dev = s.dev := rfl
@[simp] theorem modTeam_vfs (s : State) (k j : Nat) (f : Team → Team) : (modTeam s k j f).vfs = s.vfs := rfl
@[simp] theorem modTeam_blocks (s : State) (k j : Nat) (f : Team → Team) : (modTeam s k j f).blocks = s.blocks := rfl
@[simp] theorem modTeam_power (s : State) (k j : Nat) (f : Team → Team) : (modTeam s k j f).power = s.power := rfl
@[simp] theorem modTeam_trust (s : State) (k j : Nat) (f : Team → Team) : (modTeam s k j f).trust = s.trust := rfl
@[simp] theorem modTeam_shed (s : State) (k j : Nat) (f : Team → Team) : (modTeam s k j f).shed = s.shed := rfl
@[simp] theorem modTeam_shedAt (s : State) (k j : Nat) (f : Team → Team) : (modTeam s k j f).shedAt = s.shedAt := rfl
@[simp] theorem modTeam_msix (s : State) (k j : Nat) (f : Team → Team) : (modTeam s k j f).msix = s.msix := rfl

/-! ## modGrid -/

@[simp] theorem modGrid_time (s : State) (k : Nat) (f : Grid → Grid) : (modGrid s k f).time = s.time := rfl
@[simp] theorem modGrid_half (s : State) (k : Nat) (f : Grid → Grid) : (modGrid s k f).half = s.half := rfl
@[simp] theorem modGrid_clk (s : State) (k : Nat) (f : Grid → Grid) : (modGrid s k f).clk = s.clk := rfl
@[simp] theorem modGrid_agenda (s : State) (k : Nat) (f : Grid → Grid) : (modGrid s k f).agenda = s.agenda := rfl
@[simp] theorem modGrid_turn (s : State) (k : Nat) (f : Grid → Grid) : (modGrid s k f).turn = s.turn := rfl
@[simp] theorem modGrid_cursor (s : State) (k : Nat) (f : Grid → Grid) : (modGrid s k f).cursor = s.cursor := rfl
@[simp] theorem modGrid_cur (s : State) (k : Nat) (f : Grid → Grid) : (modGrid s k f).cur = s.cur := rfl
@[simp] theorem modGrid_freeCtr (s : State) (k : Nat) (f : Grid → Grid) : (modGrid s k f).freeCtr = s.freeCtr := rfl
@[simp] theorem modGrid_mem (s : State) (k : Nat) (f : Grid → Grid) : (modGrid s k f).mem = s.mem := rfl
@[simp] theorem modGrid_poison (s : State) (k : Nat) (f : Grid → Grid) : (modGrid s k f).poison = s.poison := rfl
@[simp] theorem modGrid_retired (s : State) (k : Nat) (f : Grid → Grid) : (modGrid s k f).retired = s.retired := rfl
@[simp] theorem modGrid_reported (s : State) (k : Nat) (f : Grid → Grid) : (modGrid s k f).reported = s.reported := rfl
@[simp] theorem modGrid_devid (s : State) (k : Nat) (f : Grid → Grid) : (modGrid s k f).devid = s.devid := rfl
@[simp] theorem modGrid_groups (s : State) (k : Nat) (f : Grid → Grid) : (modGrid s k f).groups = s.groups := rfl
@[simp] theorem modGrid_teams (s : State) (k : Nat) (f : Grid → Grid) : (modGrid s k f).teams = s.teams := rfl
@[simp] theorem modGrid_cmds (s : State) (k : Nat) (f : Grid → Grid) : (modGrid s k f).cmds = s.cmds := rfl
@[simp] theorem modGrid_nextCid (s : State) (k : Nat) (f : Grid → Grid) : (modGrid s k f).nextCid = s.nextCid := rfl
@[simp] theorem modGrid_barriers (s : State) (k : Nat) (f : Grid → Grid) : (modGrid s k f).barriers = s.barriers := rfl
@[simp] theorem modGrid_ticks (s : State) (k : Nat) (f : Grid → Grid) : (modGrid s k f).ticks = s.ticks := rfl
@[simp] theorem modGrid_regWaits (s : State) (k : Nat) (f : Grid → Grid) : (modGrid s k f).regWaits = s.regWaits := rfl
@[simp] theorem modGrid_opCache (s : State) (k : Nat) (f : Grid → Grid) : (modGrid s k f).opCache = s.opCache := rfl
@[simp] theorem modGrid_tlb (s : State) (k : Nat) (f : Grid → Grid) : (modGrid s k f).tlb = s.tlb := rfl
@[simp] theorem modGrid_redReqs (s : State) (k : Nat) (f : Grid → Grid) : (modGrid s k f).redReqs = s.redReqs := rfl
@[simp] theorem modGrid_flights (s : State) (k : Nat) (f : Grid → Grid) : (modGrid s k f).flights = s.flights := rfl
@[simp] theorem modGrid_coreHeld (s : State) (k : Nat) (f : Grid → Grid) : (modGrid s k f).coreHeld = s.coreHeld := rfl
@[simp] theorem modGrid_sliceHeld (s : State) (k : Nat) (f : Grid → Grid) : (modGrid s k f).sliceHeld = s.sliceHeld := rfl
@[simp] theorem modGrid_refused (s : State) (k : Nat) (f : Grid → Grid) : (modGrid s k f).refused = s.refused := rfl
@[simp] theorem modGrid_filters (s : State) (k : Nat) (f : Grid → Grid) : (modGrid s k f).filters = s.filters := rfl
@[simp] theorem modGrid_reds (s : State) (k : Nat) (f : Grid → Grid) : (modGrid s k f).reds = s.reds := rfl
@[simp] theorem modGrid_spills (s : State) (k : Nat) (f : Grid → Grid) : (modGrid s k f).spills = s.spills := rfl
@[simp] theorem modGrid_carried (s : State) (k : Nat) (f : Grid → Grid) : (modGrid s k f).carried = s.carried := rfl
@[simp] theorem modGrid_descs (s : State) (k : Nat) (f : Grid → Grid) : (modGrid s k f).descs = s.descs := rfl
@[simp] theorem modGrid_outbox (s : State) (k : Nat) (f : Grid → Grid) : (modGrid s k f).outbox = s.outbox := rfl
@[simp] theorem modGrid_chansOut (s : State) (k : Nat) (f : Grid → Grid) : (modGrid s k f).chansOut = s.chansOut := rfl
@[simp] theorem modGrid_chansIn (s : State) (k : Nat) (f : Grid → Grid) : (modGrid s k f).chansIn = s.chansIn := rfl
@[simp] theorem modGrid_reqs (s : State) (k : Nat) (f : Grid → Grid) : (modGrid s k f).reqs = s.reqs := rfl
@[simp] theorem modGrid_nextTag (s : State) (k : Nat) (f : Grid → Grid) : (modGrid s k f).nextTag = s.nextTag := rfl
@[simp] theorem modGrid_rwc (s : State) (k : Nat) (f : Grid → Grid) : (modGrid s k f).rwc = s.rwc := rfl
@[simp] theorem modGrid_ports (s : State) (k : Nat) (f : Grid → Grid) : (modGrid s k f).ports = s.ports := rfl
@[simp] theorem modGrid_lgs (s : State) (k : Nat) (f : Grid → Grid) : (modGrid s k f).lgs = s.lgs := rfl
@[simp] theorem modGrid_ltab (s : State) (k : Nat) (f : Grid → Grid) : (modGrid s k f).ltab = s.ltab := rfl
@[simp] theorem modGrid_gtab (s : State) (k : Nat) (f : Grid → Grid) : (modGrid s k f).gtab = s.gtab := rfl
@[simp] theorem modGrid_slots (s : State) (k : Nat) (f : Grid → Grid) : (modGrid s k f).slots = s.slots := rfl
@[simp] theorem modGrid_passing (s : State) (k : Nat) (f : Grid → Grid) : (modGrid s k f).passing = s.passing := rfl
@[simp] theorem modGrid_fairness (s : State) (k : Nat) (f : Grid → Grid) : (modGrid s k f).fairness = s.fairness := rfl
@[simp] theorem modGrid_mcGroups (s : State) (k : Nat) (f : Grid → Grid) : (modGrid s k f).mcGroups = s.mcGroups := rfl
@[simp] theorem modGrid_mcFlights (s : State) (k : Nat) (f : Grid → Grid) : (modGrid s k f).mcFlights = s.mcFlights := rfl
@[simp] theorem modGrid_rates (s : State) (k : Nat) (f : Grid → Grid) : (modGrid s k f).rates = s.rates := rfl
@[simp] theorem modGrid_plans (s : State) (k : Nat) (f : Grid → Grid) : (modGrid s k f).plans = s.plans := rfl
@[simp] theorem modGrid_ueOut (s : State) (k : Nat) (f : Grid → Grid) : (modGrid s k f).ueOut = s.ueOut := rfl
@[simp] theorem modGrid_tokens (s : State) (k : Nat) (f : Grid → Grid) : (modGrid s k f).tokens = s.tokens := rfl
@[simp] theorem modGrid_invs (s : State) (k : Nat) (f : Grid → Grid) : (modGrid s k f).invs = s.invs := rfl
@[simp] theorem modGrid_lantern (s : State) (k : Nat) (f : Grid → Grid) : (modGrid s k f).lantern = s.lantern := rfl
@[simp] theorem modGrid_parts (s : State) (k : Nat) (f : Grid → Grid) : (modGrid s k f).parts = s.parts := rfl
@[simp] theorem modGrid_sched (s : State) (k : Nat) (f : Grid → Grid) : (modGrid s k f).sched = s.sched := rfl
@[simp] theorem modGrid_dev (s : State) (k : Nat) (f : Grid → Grid) : (modGrid s k f).dev = s.dev := rfl
@[simp] theorem modGrid_vfs (s : State) (k : Nat) (f : Grid → Grid) : (modGrid s k f).vfs = s.vfs := rfl
@[simp] theorem modGrid_blocks (s : State) (k : Nat) (f : Grid → Grid) : (modGrid s k f).blocks = s.blocks := rfl
@[simp] theorem modGrid_power (s : State) (k : Nat) (f : Grid → Grid) : (modGrid s k f).power = s.power := rfl
@[simp] theorem modGrid_trust (s : State) (k : Nat) (f : Grid → Grid) : (modGrid s k f).trust = s.trust := rfl
@[simp] theorem modGrid_shed (s : State) (k : Nat) (f : Grid → Grid) : (modGrid s k f).shed = s.shed := rfl
@[simp] theorem modGrid_shedAt (s : State) (k : Nat) (f : Grid → Grid) : (modGrid s k f).shedAt = s.shedAt := rfl
@[simp] theorem modGrid_msix (s : State) (k : Nat) (f : Grid → Grid) : (modGrid s k f).msix = s.msix := rfl

/-! ## modPregs -/

@[simp] theorem modPregs_time (s : State) (k : Nat) (f : PartRegs → PartRegs) : (modPregs s k f).time = s.time := rfl
@[simp] theorem modPregs_half (s : State) (k : Nat) (f : PartRegs → PartRegs) : (modPregs s k f).half = s.half := rfl
@[simp] theorem modPregs_clk (s : State) (k : Nat) (f : PartRegs → PartRegs) : (modPregs s k f).clk = s.clk := rfl
@[simp] theorem modPregs_agenda (s : State) (k : Nat) (f : PartRegs → PartRegs) : (modPregs s k f).agenda = s.agenda := rfl
@[simp] theorem modPregs_turn (s : State) (k : Nat) (f : PartRegs → PartRegs) : (modPregs s k f).turn = s.turn := rfl
@[simp] theorem modPregs_cursor (s : State) (k : Nat) (f : PartRegs → PartRegs) : (modPregs s k f).cursor = s.cursor := rfl
@[simp] theorem modPregs_cur (s : State) (k : Nat) (f : PartRegs → PartRegs) : (modPregs s k f).cur = s.cur := rfl
@[simp] theorem modPregs_freeCtr (s : State) (k : Nat) (f : PartRegs → PartRegs) : (modPregs s k f).freeCtr = s.freeCtr := rfl
@[simp] theorem modPregs_mem (s : State) (k : Nat) (f : PartRegs → PartRegs) : (modPregs s k f).mem = s.mem := rfl
@[simp] theorem modPregs_poison (s : State) (k : Nat) (f : PartRegs → PartRegs) : (modPregs s k f).poison = s.poison := rfl
@[simp] theorem modPregs_retired (s : State) (k : Nat) (f : PartRegs → PartRegs) : (modPregs s k f).retired = s.retired := rfl
@[simp] theorem modPregs_reported (s : State) (k : Nat) (f : PartRegs → PartRegs) : (modPregs s k f).reported = s.reported := rfl
@[simp] theorem modPregs_devid (s : State) (k : Nat) (f : PartRegs → PartRegs) : (modPregs s k f).devid = s.devid := rfl
@[simp] theorem modPregs_groups (s : State) (k : Nat) (f : PartRegs → PartRegs) : (modPregs s k f).groups = s.groups := rfl
@[simp] theorem modPregs_teams (s : State) (k : Nat) (f : PartRegs → PartRegs) : (modPregs s k f).teams = s.teams := rfl
@[simp] theorem modPregs_grids (s : State) (k : Nat) (f : PartRegs → PartRegs) : (modPregs s k f).grids = s.grids := rfl
@[simp] theorem modPregs_cmds (s : State) (k : Nat) (f : PartRegs → PartRegs) : (modPregs s k f).cmds = s.cmds := rfl
@[simp] theorem modPregs_nextCid (s : State) (k : Nat) (f : PartRegs → PartRegs) : (modPregs s k f).nextCid = s.nextCid := rfl
@[simp] theorem modPregs_barriers (s : State) (k : Nat) (f : PartRegs → PartRegs) : (modPregs s k f).barriers = s.barriers := rfl
@[simp] theorem modPregs_ticks (s : State) (k : Nat) (f : PartRegs → PartRegs) : (modPregs s k f).ticks = s.ticks := rfl
@[simp] theorem modPregs_regWaits (s : State) (k : Nat) (f : PartRegs → PartRegs) : (modPregs s k f).regWaits = s.regWaits := rfl
@[simp] theorem modPregs_opCache (s : State) (k : Nat) (f : PartRegs → PartRegs) : (modPregs s k f).opCache = s.opCache := rfl
@[simp] theorem modPregs_tlb (s : State) (k : Nat) (f : PartRegs → PartRegs) : (modPregs s k f).tlb = s.tlb := rfl
@[simp] theorem modPregs_redReqs (s : State) (k : Nat) (f : PartRegs → PartRegs) : (modPregs s k f).redReqs = s.redReqs := rfl
@[simp] theorem modPregs_flights (s : State) (k : Nat) (f : PartRegs → PartRegs) : (modPregs s k f).flights = s.flights := rfl
@[simp] theorem modPregs_coreHeld (s : State) (k : Nat) (f : PartRegs → PartRegs) : (modPregs s k f).coreHeld = s.coreHeld := rfl
@[simp] theorem modPregs_sliceHeld (s : State) (k : Nat) (f : PartRegs → PartRegs) : (modPregs s k f).sliceHeld = s.sliceHeld := rfl
@[simp] theorem modPregs_refused (s : State) (k : Nat) (f : PartRegs → PartRegs) : (modPregs s k f).refused = s.refused := rfl
@[simp] theorem modPregs_filters (s : State) (k : Nat) (f : PartRegs → PartRegs) : (modPregs s k f).filters = s.filters := rfl
@[simp] theorem modPregs_reds (s : State) (k : Nat) (f : PartRegs → PartRegs) : (modPregs s k f).reds = s.reds := rfl
@[simp] theorem modPregs_spills (s : State) (k : Nat) (f : PartRegs → PartRegs) : (modPregs s k f).spills = s.spills := rfl
@[simp] theorem modPregs_carried (s : State) (k : Nat) (f : PartRegs → PartRegs) : (modPregs s k f).carried = s.carried := rfl
@[simp] theorem modPregs_descs (s : State) (k : Nat) (f : PartRegs → PartRegs) : (modPregs s k f).descs = s.descs := rfl
@[simp] theorem modPregs_outbox (s : State) (k : Nat) (f : PartRegs → PartRegs) : (modPregs s k f).outbox = s.outbox := rfl
@[simp] theorem modPregs_chansOut (s : State) (k : Nat) (f : PartRegs → PartRegs) : (modPregs s k f).chansOut = s.chansOut := rfl
@[simp] theorem modPregs_chansIn (s : State) (k : Nat) (f : PartRegs → PartRegs) : (modPregs s k f).chansIn = s.chansIn := rfl
@[simp] theorem modPregs_reqs (s : State) (k : Nat) (f : PartRegs → PartRegs) : (modPregs s k f).reqs = s.reqs := rfl
@[simp] theorem modPregs_nextTag (s : State) (k : Nat) (f : PartRegs → PartRegs) : (modPregs s k f).nextTag = s.nextTag := rfl
@[simp] theorem modPregs_rwc (s : State) (k : Nat) (f : PartRegs → PartRegs) : (modPregs s k f).rwc = s.rwc := rfl
@[simp] theorem modPregs_ports (s : State) (k : Nat) (f : PartRegs → PartRegs) : (modPregs s k f).ports = s.ports := rfl
@[simp] theorem modPregs_lgs (s : State) (k : Nat) (f : PartRegs → PartRegs) : (modPregs s k f).lgs = s.lgs := rfl
@[simp] theorem modPregs_ltab (s : State) (k : Nat) (f : PartRegs → PartRegs) : (modPregs s k f).ltab = s.ltab := rfl
@[simp] theorem modPregs_gtab (s : State) (k : Nat) (f : PartRegs → PartRegs) : (modPregs s k f).gtab = s.gtab := rfl
@[simp] theorem modPregs_slots (s : State) (k : Nat) (f : PartRegs → PartRegs) : (modPregs s k f).slots = s.slots := rfl
@[simp] theorem modPregs_passing (s : State) (k : Nat) (f : PartRegs → PartRegs) : (modPregs s k f).passing = s.passing := rfl
@[simp] theorem modPregs_fairness (s : State) (k : Nat) (f : PartRegs → PartRegs) : (modPregs s k f).fairness = s.fairness := rfl
@[simp] theorem modPregs_mcGroups (s : State) (k : Nat) (f : PartRegs → PartRegs) : (modPregs s k f).mcGroups = s.mcGroups := rfl
@[simp] theorem modPregs_mcFlights (s : State) (k : Nat) (f : PartRegs → PartRegs) : (modPregs s k f).mcFlights = s.mcFlights := rfl
@[simp] theorem modPregs_rates (s : State) (k : Nat) (f : PartRegs → PartRegs) : (modPregs s k f).rates = s.rates := rfl
@[simp] theorem modPregs_plans (s : State) (k : Nat) (f : PartRegs → PartRegs) : (modPregs s k f).plans = s.plans := rfl
@[simp] theorem modPregs_ueOut (s : State) (k : Nat) (f : PartRegs → PartRegs) : (modPregs s k f).ueOut = s.ueOut := rfl
@[simp] theorem modPregs_tokens (s : State) (k : Nat) (f : PartRegs → PartRegs) : (modPregs s k f).tokens = s.tokens := rfl
@[simp] theorem modPregs_invs (s : State) (k : Nat) (f : PartRegs → PartRegs) : (modPregs s k f).invs = s.invs := rfl
@[simp] theorem modPregs_lantern (s : State) (k : Nat) (f : PartRegs → PartRegs) : (modPregs s k f).lantern = s.lantern := rfl
@[simp] theorem modPregs_sched (s : State) (k : Nat) (f : PartRegs → PartRegs) : (modPregs s k f).sched = s.sched := rfl
@[simp] theorem modPregs_dev (s : State) (k : Nat) (f : PartRegs → PartRegs) : (modPregs s k f).dev = s.dev := rfl
@[simp] theorem modPregs_vfs (s : State) (k : Nat) (f : PartRegs → PartRegs) : (modPregs s k f).vfs = s.vfs := rfl
@[simp] theorem modPregs_blocks (s : State) (k : Nat) (f : PartRegs → PartRegs) : (modPregs s k f).blocks = s.blocks := rfl
@[simp] theorem modPregs_power (s : State) (k : Nat) (f : PartRegs → PartRegs) : (modPregs s k f).power = s.power := rfl
@[simp] theorem modPregs_trust (s : State) (k : Nat) (f : PartRegs → PartRegs) : (modPregs s k f).trust = s.trust := rfl
@[simp] theorem modPregs_shed (s : State) (k : Nat) (f : PartRegs → PartRegs) : (modPregs s k f).shed = s.shed := rfl
@[simp] theorem modPregs_shedAt (s : State) (k : Nat) (f : PartRegs → PartRegs) : (modPregs s k f).shedAt = s.shedAt := rfl
@[simp] theorem modPregs_msix (s : State) (k : Nat) (f : PartRegs → PartRegs) : (modPregs s k f).msix = s.msix := rfl

/-! ## modSched -/

@[simp] theorem modSched_time (s : State) (k : Nat) (f : PartSched → PartSched) : (modSched s k f).time = s.time := rfl
@[simp] theorem modSched_half (s : State) (k : Nat) (f : PartSched → PartSched) : (modSched s k f).half = s.half := rfl
@[simp] theorem modSched_clk (s : State) (k : Nat) (f : PartSched → PartSched) : (modSched s k f).clk = s.clk := rfl
@[simp] theorem modSched_agenda (s : State) (k : Nat) (f : PartSched → PartSched) : (modSched s k f).agenda = s.agenda := rfl
@[simp] theorem modSched_turn (s : State) (k : Nat) (f : PartSched → PartSched) : (modSched s k f).turn = s.turn := rfl
@[simp] theorem modSched_cursor (s : State) (k : Nat) (f : PartSched → PartSched) : (modSched s k f).cursor = s.cursor := rfl
@[simp] theorem modSched_cur (s : State) (k : Nat) (f : PartSched → PartSched) : (modSched s k f).cur = s.cur := rfl
@[simp] theorem modSched_freeCtr (s : State) (k : Nat) (f : PartSched → PartSched) : (modSched s k f).freeCtr = s.freeCtr := rfl
@[simp] theorem modSched_mem (s : State) (k : Nat) (f : PartSched → PartSched) : (modSched s k f).mem = s.mem := rfl
@[simp] theorem modSched_poison (s : State) (k : Nat) (f : PartSched → PartSched) : (modSched s k f).poison = s.poison := rfl
@[simp] theorem modSched_retired (s : State) (k : Nat) (f : PartSched → PartSched) : (modSched s k f).retired = s.retired := rfl
@[simp] theorem modSched_reported (s : State) (k : Nat) (f : PartSched → PartSched) : (modSched s k f).reported = s.reported := rfl
@[simp] theorem modSched_devid (s : State) (k : Nat) (f : PartSched → PartSched) : (modSched s k f).devid = s.devid := rfl
@[simp] theorem modSched_groups (s : State) (k : Nat) (f : PartSched → PartSched) : (modSched s k f).groups = s.groups := rfl
@[simp] theorem modSched_teams (s : State) (k : Nat) (f : PartSched → PartSched) : (modSched s k f).teams = s.teams := rfl
@[simp] theorem modSched_grids (s : State) (k : Nat) (f : PartSched → PartSched) : (modSched s k f).grids = s.grids := rfl
@[simp] theorem modSched_cmds (s : State) (k : Nat) (f : PartSched → PartSched) : (modSched s k f).cmds = s.cmds := rfl
@[simp] theorem modSched_nextCid (s : State) (k : Nat) (f : PartSched → PartSched) : (modSched s k f).nextCid = s.nextCid := rfl
@[simp] theorem modSched_barriers (s : State) (k : Nat) (f : PartSched → PartSched) : (modSched s k f).barriers = s.barriers := rfl
@[simp] theorem modSched_ticks (s : State) (k : Nat) (f : PartSched → PartSched) : (modSched s k f).ticks = s.ticks := rfl
@[simp] theorem modSched_regWaits (s : State) (k : Nat) (f : PartSched → PartSched) : (modSched s k f).regWaits = s.regWaits := rfl
@[simp] theorem modSched_opCache (s : State) (k : Nat) (f : PartSched → PartSched) : (modSched s k f).opCache = s.opCache := rfl
@[simp] theorem modSched_tlb (s : State) (k : Nat) (f : PartSched → PartSched) : (modSched s k f).tlb = s.tlb := rfl
@[simp] theorem modSched_redReqs (s : State) (k : Nat) (f : PartSched → PartSched) : (modSched s k f).redReqs = s.redReqs := rfl
@[simp] theorem modSched_flights (s : State) (k : Nat) (f : PartSched → PartSched) : (modSched s k f).flights = s.flights := rfl
@[simp] theorem modSched_coreHeld (s : State) (k : Nat) (f : PartSched → PartSched) : (modSched s k f).coreHeld = s.coreHeld := rfl
@[simp] theorem modSched_sliceHeld (s : State) (k : Nat) (f : PartSched → PartSched) : (modSched s k f).sliceHeld = s.sliceHeld := rfl
@[simp] theorem modSched_refused (s : State) (k : Nat) (f : PartSched → PartSched) : (modSched s k f).refused = s.refused := rfl
@[simp] theorem modSched_filters (s : State) (k : Nat) (f : PartSched → PartSched) : (modSched s k f).filters = s.filters := rfl
@[simp] theorem modSched_reds (s : State) (k : Nat) (f : PartSched → PartSched) : (modSched s k f).reds = s.reds := rfl
@[simp] theorem modSched_spills (s : State) (k : Nat) (f : PartSched → PartSched) : (modSched s k f).spills = s.spills := rfl
@[simp] theorem modSched_carried (s : State) (k : Nat) (f : PartSched → PartSched) : (modSched s k f).carried = s.carried := rfl
@[simp] theorem modSched_descs (s : State) (k : Nat) (f : PartSched → PartSched) : (modSched s k f).descs = s.descs := rfl
@[simp] theorem modSched_outbox (s : State) (k : Nat) (f : PartSched → PartSched) : (modSched s k f).outbox = s.outbox := rfl
@[simp] theorem modSched_chansOut (s : State) (k : Nat) (f : PartSched → PartSched) : (modSched s k f).chansOut = s.chansOut := rfl
@[simp] theorem modSched_chansIn (s : State) (k : Nat) (f : PartSched → PartSched) : (modSched s k f).chansIn = s.chansIn := rfl
@[simp] theorem modSched_reqs (s : State) (k : Nat) (f : PartSched → PartSched) : (modSched s k f).reqs = s.reqs := rfl
@[simp] theorem modSched_nextTag (s : State) (k : Nat) (f : PartSched → PartSched) : (modSched s k f).nextTag = s.nextTag := rfl
@[simp] theorem modSched_rwc (s : State) (k : Nat) (f : PartSched → PartSched) : (modSched s k f).rwc = s.rwc := rfl
@[simp] theorem modSched_ports (s : State) (k : Nat) (f : PartSched → PartSched) : (modSched s k f).ports = s.ports := rfl
@[simp] theorem modSched_lgs (s : State) (k : Nat) (f : PartSched → PartSched) : (modSched s k f).lgs = s.lgs := rfl
@[simp] theorem modSched_ltab (s : State) (k : Nat) (f : PartSched → PartSched) : (modSched s k f).ltab = s.ltab := rfl
@[simp] theorem modSched_gtab (s : State) (k : Nat) (f : PartSched → PartSched) : (modSched s k f).gtab = s.gtab := rfl
@[simp] theorem modSched_slots (s : State) (k : Nat) (f : PartSched → PartSched) : (modSched s k f).slots = s.slots := rfl
@[simp] theorem modSched_passing (s : State) (k : Nat) (f : PartSched → PartSched) : (modSched s k f).passing = s.passing := rfl
@[simp] theorem modSched_fairness (s : State) (k : Nat) (f : PartSched → PartSched) : (modSched s k f).fairness = s.fairness := rfl
@[simp] theorem modSched_mcGroups (s : State) (k : Nat) (f : PartSched → PartSched) : (modSched s k f).mcGroups = s.mcGroups := rfl
@[simp] theorem modSched_mcFlights (s : State) (k : Nat) (f : PartSched → PartSched) : (modSched s k f).mcFlights = s.mcFlights := rfl
@[simp] theorem modSched_rates (s : State) (k : Nat) (f : PartSched → PartSched) : (modSched s k f).rates = s.rates := rfl
@[simp] theorem modSched_plans (s : State) (k : Nat) (f : PartSched → PartSched) : (modSched s k f).plans = s.plans := rfl
@[simp] theorem modSched_ueOut (s : State) (k : Nat) (f : PartSched → PartSched) : (modSched s k f).ueOut = s.ueOut := rfl
@[simp] theorem modSched_tokens (s : State) (k : Nat) (f : PartSched → PartSched) : (modSched s k f).tokens = s.tokens := rfl
@[simp] theorem modSched_invs (s : State) (k : Nat) (f : PartSched → PartSched) : (modSched s k f).invs = s.invs := rfl
@[simp] theorem modSched_lantern (s : State) (k : Nat) (f : PartSched → PartSched) : (modSched s k f).lantern = s.lantern := rfl
@[simp] theorem modSched_parts (s : State) (k : Nat) (f : PartSched → PartSched) : (modSched s k f).parts = s.parts := rfl
@[simp] theorem modSched_dev (s : State) (k : Nat) (f : PartSched → PartSched) : (modSched s k f).dev = s.dev := rfl
@[simp] theorem modSched_vfs (s : State) (k : Nat) (f : PartSched → PartSched) : (modSched s k f).vfs = s.vfs := rfl
@[simp] theorem modSched_blocks (s : State) (k : Nat) (f : PartSched → PartSched) : (modSched s k f).blocks = s.blocks := rfl
@[simp] theorem modSched_power (s : State) (k : Nat) (f : PartSched → PartSched) : (modSched s k f).power = s.power := rfl
@[simp] theorem modSched_trust (s : State) (k : Nat) (f : PartSched → PartSched) : (modSched s k f).trust = s.trust := rfl
@[simp] theorem modSched_shed (s : State) (k : Nat) (f : PartSched → PartSched) : (modSched s k f).shed = s.shed := rfl
@[simp] theorem modSched_shedAt (s : State) (k : Nat) (f : PartSched → PartSched) : (modSched s k f).shedAt = s.shedAt := rfl
@[simp] theorem modSched_msix (s : State) (k : Nat) (f : PartSched → PartSched) : (modSched s k f).msix = s.msix := rfl

/-! ## modVf -/

@[simp] theorem modVf_time (s : State) (k : Nat) (f : VfRegs → VfRegs) : (modVf s k f).time = s.time := rfl
@[simp] theorem modVf_half (s : State) (k : Nat) (f : VfRegs → VfRegs) : (modVf s k f).half = s.half := rfl
@[simp] theorem modVf_clk (s : State) (k : Nat) (f : VfRegs → VfRegs) : (modVf s k f).clk = s.clk := rfl
@[simp] theorem modVf_agenda (s : State) (k : Nat) (f : VfRegs → VfRegs) : (modVf s k f).agenda = s.agenda := rfl
@[simp] theorem modVf_turn (s : State) (k : Nat) (f : VfRegs → VfRegs) : (modVf s k f).turn = s.turn := rfl
@[simp] theorem modVf_cursor (s : State) (k : Nat) (f : VfRegs → VfRegs) : (modVf s k f).cursor = s.cursor := rfl
@[simp] theorem modVf_cur (s : State) (k : Nat) (f : VfRegs → VfRegs) : (modVf s k f).cur = s.cur := rfl
@[simp] theorem modVf_freeCtr (s : State) (k : Nat) (f : VfRegs → VfRegs) : (modVf s k f).freeCtr = s.freeCtr := rfl
@[simp] theorem modVf_mem (s : State) (k : Nat) (f : VfRegs → VfRegs) : (modVf s k f).mem = s.mem := rfl
@[simp] theorem modVf_poison (s : State) (k : Nat) (f : VfRegs → VfRegs) : (modVf s k f).poison = s.poison := rfl
@[simp] theorem modVf_retired (s : State) (k : Nat) (f : VfRegs → VfRegs) : (modVf s k f).retired = s.retired := rfl
@[simp] theorem modVf_reported (s : State) (k : Nat) (f : VfRegs → VfRegs) : (modVf s k f).reported = s.reported := rfl
@[simp] theorem modVf_devid (s : State) (k : Nat) (f : VfRegs → VfRegs) : (modVf s k f).devid = s.devid := rfl
@[simp] theorem modVf_groups (s : State) (k : Nat) (f : VfRegs → VfRegs) : (modVf s k f).groups = s.groups := rfl
@[simp] theorem modVf_teams (s : State) (k : Nat) (f : VfRegs → VfRegs) : (modVf s k f).teams = s.teams := rfl
@[simp] theorem modVf_grids (s : State) (k : Nat) (f : VfRegs → VfRegs) : (modVf s k f).grids = s.grids := rfl
@[simp] theorem modVf_cmds (s : State) (k : Nat) (f : VfRegs → VfRegs) : (modVf s k f).cmds = s.cmds := rfl
@[simp] theorem modVf_nextCid (s : State) (k : Nat) (f : VfRegs → VfRegs) : (modVf s k f).nextCid = s.nextCid := rfl
@[simp] theorem modVf_barriers (s : State) (k : Nat) (f : VfRegs → VfRegs) : (modVf s k f).barriers = s.barriers := rfl
@[simp] theorem modVf_ticks (s : State) (k : Nat) (f : VfRegs → VfRegs) : (modVf s k f).ticks = s.ticks := rfl
@[simp] theorem modVf_regWaits (s : State) (k : Nat) (f : VfRegs → VfRegs) : (modVf s k f).regWaits = s.regWaits := rfl
@[simp] theorem modVf_opCache (s : State) (k : Nat) (f : VfRegs → VfRegs) : (modVf s k f).opCache = s.opCache := rfl
@[simp] theorem modVf_tlb (s : State) (k : Nat) (f : VfRegs → VfRegs) : (modVf s k f).tlb = s.tlb := rfl
@[simp] theorem modVf_redReqs (s : State) (k : Nat) (f : VfRegs → VfRegs) : (modVf s k f).redReqs = s.redReqs := rfl
@[simp] theorem modVf_flights (s : State) (k : Nat) (f : VfRegs → VfRegs) : (modVf s k f).flights = s.flights := rfl
@[simp] theorem modVf_coreHeld (s : State) (k : Nat) (f : VfRegs → VfRegs) : (modVf s k f).coreHeld = s.coreHeld := rfl
@[simp] theorem modVf_sliceHeld (s : State) (k : Nat) (f : VfRegs → VfRegs) : (modVf s k f).sliceHeld = s.sliceHeld := rfl
@[simp] theorem modVf_refused (s : State) (k : Nat) (f : VfRegs → VfRegs) : (modVf s k f).refused = s.refused := rfl
@[simp] theorem modVf_filters (s : State) (k : Nat) (f : VfRegs → VfRegs) : (modVf s k f).filters = s.filters := rfl
@[simp] theorem modVf_reds (s : State) (k : Nat) (f : VfRegs → VfRegs) : (modVf s k f).reds = s.reds := rfl
@[simp] theorem modVf_spills (s : State) (k : Nat) (f : VfRegs → VfRegs) : (modVf s k f).spills = s.spills := rfl
@[simp] theorem modVf_carried (s : State) (k : Nat) (f : VfRegs → VfRegs) : (modVf s k f).carried = s.carried := rfl
@[simp] theorem modVf_descs (s : State) (k : Nat) (f : VfRegs → VfRegs) : (modVf s k f).descs = s.descs := rfl
@[simp] theorem modVf_outbox (s : State) (k : Nat) (f : VfRegs → VfRegs) : (modVf s k f).outbox = s.outbox := rfl
@[simp] theorem modVf_chansOut (s : State) (k : Nat) (f : VfRegs → VfRegs) : (modVf s k f).chansOut = s.chansOut := rfl
@[simp] theorem modVf_chansIn (s : State) (k : Nat) (f : VfRegs → VfRegs) : (modVf s k f).chansIn = s.chansIn := rfl
@[simp] theorem modVf_reqs (s : State) (k : Nat) (f : VfRegs → VfRegs) : (modVf s k f).reqs = s.reqs := rfl
@[simp] theorem modVf_nextTag (s : State) (k : Nat) (f : VfRegs → VfRegs) : (modVf s k f).nextTag = s.nextTag := rfl
@[simp] theorem modVf_rwc (s : State) (k : Nat) (f : VfRegs → VfRegs) : (modVf s k f).rwc = s.rwc := rfl
@[simp] theorem modVf_ports (s : State) (k : Nat) (f : VfRegs → VfRegs) : (modVf s k f).ports = s.ports := rfl
@[simp] theorem modVf_lgs (s : State) (k : Nat) (f : VfRegs → VfRegs) : (modVf s k f).lgs = s.lgs := rfl
@[simp] theorem modVf_ltab (s : State) (k : Nat) (f : VfRegs → VfRegs) : (modVf s k f).ltab = s.ltab := rfl
@[simp] theorem modVf_gtab (s : State) (k : Nat) (f : VfRegs → VfRegs) : (modVf s k f).gtab = s.gtab := rfl
@[simp] theorem modVf_slots (s : State) (k : Nat) (f : VfRegs → VfRegs) : (modVf s k f).slots = s.slots := rfl
@[simp] theorem modVf_passing (s : State) (k : Nat) (f : VfRegs → VfRegs) : (modVf s k f).passing = s.passing := rfl
@[simp] theorem modVf_fairness (s : State) (k : Nat) (f : VfRegs → VfRegs) : (modVf s k f).fairness = s.fairness := rfl
@[simp] theorem modVf_mcGroups (s : State) (k : Nat) (f : VfRegs → VfRegs) : (modVf s k f).mcGroups = s.mcGroups := rfl
@[simp] theorem modVf_mcFlights (s : State) (k : Nat) (f : VfRegs → VfRegs) : (modVf s k f).mcFlights = s.mcFlights := rfl
@[simp] theorem modVf_rates (s : State) (k : Nat) (f : VfRegs → VfRegs) : (modVf s k f).rates = s.rates := rfl
@[simp] theorem modVf_plans (s : State) (k : Nat) (f : VfRegs → VfRegs) : (modVf s k f).plans = s.plans := rfl
@[simp] theorem modVf_ueOut (s : State) (k : Nat) (f : VfRegs → VfRegs) : (modVf s k f).ueOut = s.ueOut := rfl
@[simp] theorem modVf_tokens (s : State) (k : Nat) (f : VfRegs → VfRegs) : (modVf s k f).tokens = s.tokens := rfl
@[simp] theorem modVf_invs (s : State) (k : Nat) (f : VfRegs → VfRegs) : (modVf s k f).invs = s.invs := rfl
@[simp] theorem modVf_lantern (s : State) (k : Nat) (f : VfRegs → VfRegs) : (modVf s k f).lantern = s.lantern := rfl
@[simp] theorem modVf_parts (s : State) (k : Nat) (f : VfRegs → VfRegs) : (modVf s k f).parts = s.parts := rfl
@[simp] theorem modVf_sched (s : State) (k : Nat) (f : VfRegs → VfRegs) : (modVf s k f).sched = s.sched := rfl
@[simp] theorem modVf_dev (s : State) (k : Nat) (f : VfRegs → VfRegs) : (modVf s k f).dev = s.dev := rfl
@[simp] theorem modVf_blocks (s : State) (k : Nat) (f : VfRegs → VfRegs) : (modVf s k f).blocks = s.blocks := rfl
@[simp] theorem modVf_power (s : State) (k : Nat) (f : VfRegs → VfRegs) : (modVf s k f).power = s.power := rfl
@[simp] theorem modVf_trust (s : State) (k : Nat) (f : VfRegs → VfRegs) : (modVf s k f).trust = s.trust := rfl
@[simp] theorem modVf_shed (s : State) (k : Nat) (f : VfRegs → VfRegs) : (modVf s k f).shed = s.shed := rfl
@[simp] theorem modVf_shedAt (s : State) (k : Nat) (f : VfRegs → VfRegs) : (modVf s k f).shedAt = s.shedAt := rfl
@[simp] theorem modVf_msix (s : State) (k : Nat) (f : VfRegs → VfRegs) : (modVf s k f).msix = s.msix := rfl

/-! ## writeBytes -/

@[simp] theorem writeBytes_time (s : State) (a : Nat) (bs : List Byte) : (writeBytes s a bs).time = s.time := rfl
@[simp] theorem writeBytes_half (s : State) (a : Nat) (bs : List Byte) : (writeBytes s a bs).half = s.half := rfl
@[simp] theorem writeBytes_clk (s : State) (a : Nat) (bs : List Byte) : (writeBytes s a bs).clk = s.clk := rfl
@[simp] theorem writeBytes_agenda (s : State) (a : Nat) (bs : List Byte) : (writeBytes s a bs).agenda = s.agenda := rfl
@[simp] theorem writeBytes_turn (s : State) (a : Nat) (bs : List Byte) : (writeBytes s a bs).turn = s.turn := rfl
@[simp] theorem writeBytes_cursor (s : State) (a : Nat) (bs : List Byte) : (writeBytes s a bs).cursor = s.cursor := rfl
@[simp] theorem writeBytes_cur (s : State) (a : Nat) (bs : List Byte) : (writeBytes s a bs).cur = s.cur := rfl
@[simp] theorem writeBytes_freeCtr (s : State) (a : Nat) (bs : List Byte) : (writeBytes s a bs).freeCtr = s.freeCtr := rfl
@[simp] theorem writeBytes_retired (s : State) (a : Nat) (bs : List Byte) : (writeBytes s a bs).retired = s.retired := rfl
@[simp] theorem writeBytes_devid (s : State) (a : Nat) (bs : List Byte) : (writeBytes s a bs).devid = s.devid := rfl
@[simp] theorem writeBytes_groups (s : State) (a : Nat) (bs : List Byte) : (writeBytes s a bs).groups = s.groups := rfl
@[simp] theorem writeBytes_teams (s : State) (a : Nat) (bs : List Byte) : (writeBytes s a bs).teams = s.teams := rfl
@[simp] theorem writeBytes_grids (s : State) (a : Nat) (bs : List Byte) : (writeBytes s a bs).grids = s.grids := rfl
@[simp] theorem writeBytes_cmds (s : State) (a : Nat) (bs : List Byte) : (writeBytes s a bs).cmds = s.cmds := rfl
@[simp] theorem writeBytes_nextCid (s : State) (a : Nat) (bs : List Byte) : (writeBytes s a bs).nextCid = s.nextCid := rfl
@[simp] theorem writeBytes_barriers (s : State) (a : Nat) (bs : List Byte) : (writeBytes s a bs).barriers = s.barriers := rfl
@[simp] theorem writeBytes_ticks (s : State) (a : Nat) (bs : List Byte) : (writeBytes s a bs).ticks = s.ticks := rfl
@[simp] theorem writeBytes_regWaits (s : State) (a : Nat) (bs : List Byte) : (writeBytes s a bs).regWaits = s.regWaits := rfl
@[simp] theorem writeBytes_opCache (s : State) (a : Nat) (bs : List Byte) : (writeBytes s a bs).opCache = s.opCache := rfl
@[simp] theorem writeBytes_tlb (s : State) (a : Nat) (bs : List Byte) : (writeBytes s a bs).tlb = s.tlb := rfl
@[simp] theorem writeBytes_redReqs (s : State) (a : Nat) (bs : List Byte) : (writeBytes s a bs).redReqs = s.redReqs := rfl
@[simp] theorem writeBytes_flights (s : State) (a : Nat) (bs : List Byte) : (writeBytes s a bs).flights = s.flights := rfl
@[simp] theorem writeBytes_coreHeld (s : State) (a : Nat) (bs : List Byte) : (writeBytes s a bs).coreHeld = s.coreHeld := rfl
@[simp] theorem writeBytes_sliceHeld (s : State) (a : Nat) (bs : List Byte) : (writeBytes s a bs).sliceHeld = s.sliceHeld := rfl
@[simp] theorem writeBytes_refused (s : State) (a : Nat) (bs : List Byte) : (writeBytes s a bs).refused = s.refused := rfl
@[simp] theorem writeBytes_filters (s : State) (a : Nat) (bs : List Byte) : (writeBytes s a bs).filters = s.filters := rfl
@[simp] theorem writeBytes_reds (s : State) (a : Nat) (bs : List Byte) : (writeBytes s a bs).reds = s.reds := rfl
@[simp] theorem writeBytes_spills (s : State) (a : Nat) (bs : List Byte) : (writeBytes s a bs).spills = s.spills := rfl
@[simp] theorem writeBytes_carried (s : State) (a : Nat) (bs : List Byte) : (writeBytes s a bs).carried = s.carried := rfl
@[simp] theorem writeBytes_descs (s : State) (a : Nat) (bs : List Byte) : (writeBytes s a bs).descs = s.descs := rfl
@[simp] theorem writeBytes_outbox (s : State) (a : Nat) (bs : List Byte) : (writeBytes s a bs).outbox = s.outbox := rfl
@[simp] theorem writeBytes_chansOut (s : State) (a : Nat) (bs : List Byte) : (writeBytes s a bs).chansOut = s.chansOut := rfl
@[simp] theorem writeBytes_chansIn (s : State) (a : Nat) (bs : List Byte) : (writeBytes s a bs).chansIn = s.chansIn := rfl
@[simp] theorem writeBytes_reqs (s : State) (a : Nat) (bs : List Byte) : (writeBytes s a bs).reqs = s.reqs := rfl
@[simp] theorem writeBytes_nextTag (s : State) (a : Nat) (bs : List Byte) : (writeBytes s a bs).nextTag = s.nextTag := rfl
@[simp] theorem writeBytes_rwc (s : State) (a : Nat) (bs : List Byte) : (writeBytes s a bs).rwc = s.rwc := rfl
@[simp] theorem writeBytes_ports (s : State) (a : Nat) (bs : List Byte) : (writeBytes s a bs).ports = s.ports := rfl
@[simp] theorem writeBytes_lgs (s : State) (a : Nat) (bs : List Byte) : (writeBytes s a bs).lgs = s.lgs := rfl
@[simp] theorem writeBytes_ltab (s : State) (a : Nat) (bs : List Byte) : (writeBytes s a bs).ltab = s.ltab := rfl
@[simp] theorem writeBytes_gtab (s : State) (a : Nat) (bs : List Byte) : (writeBytes s a bs).gtab = s.gtab := rfl
@[simp] theorem writeBytes_slots (s : State) (a : Nat) (bs : List Byte) : (writeBytes s a bs).slots = s.slots := rfl
@[simp] theorem writeBytes_passing (s : State) (a : Nat) (bs : List Byte) : (writeBytes s a bs).passing = s.passing := rfl
@[simp] theorem writeBytes_fairness (s : State) (a : Nat) (bs : List Byte) : (writeBytes s a bs).fairness = s.fairness := rfl
@[simp] theorem writeBytes_mcGroups (s : State) (a : Nat) (bs : List Byte) : (writeBytes s a bs).mcGroups = s.mcGroups := rfl
@[simp] theorem writeBytes_mcFlights (s : State) (a : Nat) (bs : List Byte) : (writeBytes s a bs).mcFlights = s.mcFlights := rfl
@[simp] theorem writeBytes_rates (s : State) (a : Nat) (bs : List Byte) : (writeBytes s a bs).rates = s.rates := rfl
@[simp] theorem writeBytes_plans (s : State) (a : Nat) (bs : List Byte) : (writeBytes s a bs).plans = s.plans := rfl
@[simp] theorem writeBytes_ueOut (s : State) (a : Nat) (bs : List Byte) : (writeBytes s a bs).ueOut = s.ueOut := rfl
@[simp] theorem writeBytes_tokens (s : State) (a : Nat) (bs : List Byte) : (writeBytes s a bs).tokens = s.tokens := rfl
@[simp] theorem writeBytes_invs (s : State) (a : Nat) (bs : List Byte) : (writeBytes s a bs).invs = s.invs := rfl
@[simp] theorem writeBytes_lantern (s : State) (a : Nat) (bs : List Byte) : (writeBytes s a bs).lantern = s.lantern := rfl
@[simp] theorem writeBytes_parts (s : State) (a : Nat) (bs : List Byte) : (writeBytes s a bs).parts = s.parts := rfl
@[simp] theorem writeBytes_sched (s : State) (a : Nat) (bs : List Byte) : (writeBytes s a bs).sched = s.sched := rfl
@[simp] theorem writeBytes_dev (s : State) (a : Nat) (bs : List Byte) : (writeBytes s a bs).dev = s.dev := rfl
@[simp] theorem writeBytes_vfs (s : State) (a : Nat) (bs : List Byte) : (writeBytes s a bs).vfs = s.vfs := rfl
@[simp] theorem writeBytes_blocks (s : State) (a : Nat) (bs : List Byte) : (writeBytes s a bs).blocks = s.blocks := rfl
@[simp] theorem writeBytes_power (s : State) (a : Nat) (bs : List Byte) : (writeBytes s a bs).power = s.power := rfl
@[simp] theorem writeBytes_trust (s : State) (a : Nat) (bs : List Byte) : (writeBytes s a bs).trust = s.trust := rfl
@[simp] theorem writeBytes_shed (s : State) (a : Nat) (bs : List Byte) : (writeBytes s a bs).shed = s.shed := rfl
@[simp] theorem writeBytes_shedAt (s : State) (a : Nat) (bs : List Byte) : (writeBytes s a bs).shedAt = s.shedAt := rfl
@[simp] theorem writeBytes_msix (s : State) (a : Nat) (bs : List Byte) : (writeBytes s a bs).msix = s.msix := rfl

/-! ## writeNat -/

@[simp] theorem writeNat_time (s : State) (a n v : Nat) : (writeNat s a n v).time = s.time := rfl
@[simp] theorem writeNat_half (s : State) (a n v : Nat) : (writeNat s a n v).half = s.half := rfl
@[simp] theorem writeNat_clk (s : State) (a n v : Nat) : (writeNat s a n v).clk = s.clk := rfl
@[simp] theorem writeNat_agenda (s : State) (a n v : Nat) : (writeNat s a n v).agenda = s.agenda := rfl
@[simp] theorem writeNat_turn (s : State) (a n v : Nat) : (writeNat s a n v).turn = s.turn := rfl
@[simp] theorem writeNat_cursor (s : State) (a n v : Nat) : (writeNat s a n v).cursor = s.cursor := rfl
@[simp] theorem writeNat_cur (s : State) (a n v : Nat) : (writeNat s a n v).cur = s.cur := rfl
@[simp] theorem writeNat_freeCtr (s : State) (a n v : Nat) : (writeNat s a n v).freeCtr = s.freeCtr := rfl
@[simp] theorem writeNat_retired (s : State) (a n v : Nat) : (writeNat s a n v).retired = s.retired := rfl
@[simp] theorem writeNat_devid (s : State) (a n v : Nat) : (writeNat s a n v).devid = s.devid := rfl
@[simp] theorem writeNat_groups (s : State) (a n v : Nat) : (writeNat s a n v).groups = s.groups := rfl
@[simp] theorem writeNat_teams (s : State) (a n v : Nat) : (writeNat s a n v).teams = s.teams := rfl
@[simp] theorem writeNat_grids (s : State) (a n v : Nat) : (writeNat s a n v).grids = s.grids := rfl
@[simp] theorem writeNat_cmds (s : State) (a n v : Nat) : (writeNat s a n v).cmds = s.cmds := rfl
@[simp] theorem writeNat_nextCid (s : State) (a n v : Nat) : (writeNat s a n v).nextCid = s.nextCid := rfl
@[simp] theorem writeNat_barriers (s : State) (a n v : Nat) : (writeNat s a n v).barriers = s.barriers := rfl
@[simp] theorem writeNat_ticks (s : State) (a n v : Nat) : (writeNat s a n v).ticks = s.ticks := rfl
@[simp] theorem writeNat_regWaits (s : State) (a n v : Nat) : (writeNat s a n v).regWaits = s.regWaits := rfl
@[simp] theorem writeNat_opCache (s : State) (a n v : Nat) : (writeNat s a n v).opCache = s.opCache := rfl
@[simp] theorem writeNat_tlb (s : State) (a n v : Nat) : (writeNat s a n v).tlb = s.tlb := rfl
@[simp] theorem writeNat_redReqs (s : State) (a n v : Nat) : (writeNat s a n v).redReqs = s.redReqs := rfl
@[simp] theorem writeNat_flights (s : State) (a n v : Nat) : (writeNat s a n v).flights = s.flights := rfl
@[simp] theorem writeNat_coreHeld (s : State) (a n v : Nat) : (writeNat s a n v).coreHeld = s.coreHeld := rfl
@[simp] theorem writeNat_sliceHeld (s : State) (a n v : Nat) : (writeNat s a n v).sliceHeld = s.sliceHeld := rfl
@[simp] theorem writeNat_refused (s : State) (a n v : Nat) : (writeNat s a n v).refused = s.refused := rfl
@[simp] theorem writeNat_filters (s : State) (a n v : Nat) : (writeNat s a n v).filters = s.filters := rfl
@[simp] theorem writeNat_reds (s : State) (a n v : Nat) : (writeNat s a n v).reds = s.reds := rfl
@[simp] theorem writeNat_spills (s : State) (a n v : Nat) : (writeNat s a n v).spills = s.spills := rfl
@[simp] theorem writeNat_carried (s : State) (a n v : Nat) : (writeNat s a n v).carried = s.carried := rfl
@[simp] theorem writeNat_descs (s : State) (a n v : Nat) : (writeNat s a n v).descs = s.descs := rfl
@[simp] theorem writeNat_outbox (s : State) (a n v : Nat) : (writeNat s a n v).outbox = s.outbox := rfl
@[simp] theorem writeNat_chansOut (s : State) (a n v : Nat) : (writeNat s a n v).chansOut = s.chansOut := rfl
@[simp] theorem writeNat_chansIn (s : State) (a n v : Nat) : (writeNat s a n v).chansIn = s.chansIn := rfl
@[simp] theorem writeNat_reqs (s : State) (a n v : Nat) : (writeNat s a n v).reqs = s.reqs := rfl
@[simp] theorem writeNat_nextTag (s : State) (a n v : Nat) : (writeNat s a n v).nextTag = s.nextTag := rfl
@[simp] theorem writeNat_rwc (s : State) (a n v : Nat) : (writeNat s a n v).rwc = s.rwc := rfl
@[simp] theorem writeNat_ports (s : State) (a n v : Nat) : (writeNat s a n v).ports = s.ports := rfl
@[simp] theorem writeNat_lgs (s : State) (a n v : Nat) : (writeNat s a n v).lgs = s.lgs := rfl
@[simp] theorem writeNat_ltab (s : State) (a n v : Nat) : (writeNat s a n v).ltab = s.ltab := rfl
@[simp] theorem writeNat_gtab (s : State) (a n v : Nat) : (writeNat s a n v).gtab = s.gtab := rfl
@[simp] theorem writeNat_slots (s : State) (a n v : Nat) : (writeNat s a n v).slots = s.slots := rfl
@[simp] theorem writeNat_passing (s : State) (a n v : Nat) : (writeNat s a n v).passing = s.passing := rfl
@[simp] theorem writeNat_fairness (s : State) (a n v : Nat) : (writeNat s a n v).fairness = s.fairness := rfl
@[simp] theorem writeNat_mcGroups (s : State) (a n v : Nat) : (writeNat s a n v).mcGroups = s.mcGroups := rfl
@[simp] theorem writeNat_mcFlights (s : State) (a n v : Nat) : (writeNat s a n v).mcFlights = s.mcFlights := rfl
@[simp] theorem writeNat_rates (s : State) (a n v : Nat) : (writeNat s a n v).rates = s.rates := rfl
@[simp] theorem writeNat_plans (s : State) (a n v : Nat) : (writeNat s a n v).plans = s.plans := rfl
@[simp] theorem writeNat_ueOut (s : State) (a n v : Nat) : (writeNat s a n v).ueOut = s.ueOut := rfl
@[simp] theorem writeNat_tokens (s : State) (a n v : Nat) : (writeNat s a n v).tokens = s.tokens := rfl
@[simp] theorem writeNat_invs (s : State) (a n v : Nat) : (writeNat s a n v).invs = s.invs := rfl
@[simp] theorem writeNat_lantern (s : State) (a n v : Nat) : (writeNat s a n v).lantern = s.lantern := rfl
@[simp] theorem writeNat_parts (s : State) (a n v : Nat) : (writeNat s a n v).parts = s.parts := rfl
@[simp] theorem writeNat_sched (s : State) (a n v : Nat) : (writeNat s a n v).sched = s.sched := rfl
@[simp] theorem writeNat_dev (s : State) (a n v : Nat) : (writeNat s a n v).dev = s.dev := rfl
@[simp] theorem writeNat_vfs (s : State) (a n v : Nat) : (writeNat s a n v).vfs = s.vfs := rfl
@[simp] theorem writeNat_blocks (s : State) (a n v : Nat) : (writeNat s a n v).blocks = s.blocks := rfl
@[simp] theorem writeNat_power (s : State) (a n v : Nat) : (writeNat s a n v).power = s.power := rfl
@[simp] theorem writeNat_trust (s : State) (a n v : Nat) : (writeNat s a n v).trust = s.trust := rfl
@[simp] theorem writeNat_shed (s : State) (a n v : Nat) : (writeNat s a n v).shed = s.shed := rfl
@[simp] theorem writeNat_shedAt (s : State) (a n v : Nat) : (writeNat s a n v).shedAt = s.shedAt := rfl
@[simp] theorem writeNat_msix (s : State) (a n v : Nat) : (writeNat s a n v).msix = s.msix := rfl

/-! ## write64 -/

@[simp] theorem write64_time (s : State) (a : Nat) (v : Dword) : (write64 s a v).time = s.time := rfl
@[simp] theorem write64_half (s : State) (a : Nat) (v : Dword) : (write64 s a v).half = s.half := rfl
@[simp] theorem write64_clk (s : State) (a : Nat) (v : Dword) : (write64 s a v).clk = s.clk := rfl
@[simp] theorem write64_agenda (s : State) (a : Nat) (v : Dword) : (write64 s a v).agenda = s.agenda := rfl
@[simp] theorem write64_turn (s : State) (a : Nat) (v : Dword) : (write64 s a v).turn = s.turn := rfl
@[simp] theorem write64_cursor (s : State) (a : Nat) (v : Dword) : (write64 s a v).cursor = s.cursor := rfl
@[simp] theorem write64_cur (s : State) (a : Nat) (v : Dword) : (write64 s a v).cur = s.cur := rfl
@[simp] theorem write64_freeCtr (s : State) (a : Nat) (v : Dword) : (write64 s a v).freeCtr = s.freeCtr := rfl
@[simp] theorem write64_retired (s : State) (a : Nat) (v : Dword) : (write64 s a v).retired = s.retired := rfl
@[simp] theorem write64_devid (s : State) (a : Nat) (v : Dword) : (write64 s a v).devid = s.devid := rfl
@[simp] theorem write64_groups (s : State) (a : Nat) (v : Dword) : (write64 s a v).groups = s.groups := rfl
@[simp] theorem write64_teams (s : State) (a : Nat) (v : Dword) : (write64 s a v).teams = s.teams := rfl
@[simp] theorem write64_grids (s : State) (a : Nat) (v : Dword) : (write64 s a v).grids = s.grids := rfl
@[simp] theorem write64_cmds (s : State) (a : Nat) (v : Dword) : (write64 s a v).cmds = s.cmds := rfl
@[simp] theorem write64_nextCid (s : State) (a : Nat) (v : Dword) : (write64 s a v).nextCid = s.nextCid := rfl
@[simp] theorem write64_barriers (s : State) (a : Nat) (v : Dword) : (write64 s a v).barriers = s.barriers := rfl
@[simp] theorem write64_ticks (s : State) (a : Nat) (v : Dword) : (write64 s a v).ticks = s.ticks := rfl
@[simp] theorem write64_regWaits (s : State) (a : Nat) (v : Dword) : (write64 s a v).regWaits = s.regWaits := rfl
@[simp] theorem write64_opCache (s : State) (a : Nat) (v : Dword) : (write64 s a v).opCache = s.opCache := rfl
@[simp] theorem write64_tlb (s : State) (a : Nat) (v : Dword) : (write64 s a v).tlb = s.tlb := rfl
@[simp] theorem write64_redReqs (s : State) (a : Nat) (v : Dword) : (write64 s a v).redReqs = s.redReqs := rfl
@[simp] theorem write64_flights (s : State) (a : Nat) (v : Dword) : (write64 s a v).flights = s.flights := rfl
@[simp] theorem write64_coreHeld (s : State) (a : Nat) (v : Dword) : (write64 s a v).coreHeld = s.coreHeld := rfl
@[simp] theorem write64_sliceHeld (s : State) (a : Nat) (v : Dword) : (write64 s a v).sliceHeld = s.sliceHeld := rfl
@[simp] theorem write64_refused (s : State) (a : Nat) (v : Dword) : (write64 s a v).refused = s.refused := rfl
@[simp] theorem write64_filters (s : State) (a : Nat) (v : Dword) : (write64 s a v).filters = s.filters := rfl
@[simp] theorem write64_reds (s : State) (a : Nat) (v : Dword) : (write64 s a v).reds = s.reds := rfl
@[simp] theorem write64_spills (s : State) (a : Nat) (v : Dword) : (write64 s a v).spills = s.spills := rfl
@[simp] theorem write64_carried (s : State) (a : Nat) (v : Dword) : (write64 s a v).carried = s.carried := rfl
@[simp] theorem write64_descs (s : State) (a : Nat) (v : Dword) : (write64 s a v).descs = s.descs := rfl
@[simp] theorem write64_outbox (s : State) (a : Nat) (v : Dword) : (write64 s a v).outbox = s.outbox := rfl
@[simp] theorem write64_chansOut (s : State) (a : Nat) (v : Dword) : (write64 s a v).chansOut = s.chansOut := rfl
@[simp] theorem write64_chansIn (s : State) (a : Nat) (v : Dword) : (write64 s a v).chansIn = s.chansIn := rfl
@[simp] theorem write64_reqs (s : State) (a : Nat) (v : Dword) : (write64 s a v).reqs = s.reqs := rfl
@[simp] theorem write64_nextTag (s : State) (a : Nat) (v : Dword) : (write64 s a v).nextTag = s.nextTag := rfl
@[simp] theorem write64_rwc (s : State) (a : Nat) (v : Dword) : (write64 s a v).rwc = s.rwc := rfl
@[simp] theorem write64_ports (s : State) (a : Nat) (v : Dword) : (write64 s a v).ports = s.ports := rfl
@[simp] theorem write64_lgs (s : State) (a : Nat) (v : Dword) : (write64 s a v).lgs = s.lgs := rfl
@[simp] theorem write64_ltab (s : State) (a : Nat) (v : Dword) : (write64 s a v).ltab = s.ltab := rfl
@[simp] theorem write64_gtab (s : State) (a : Nat) (v : Dword) : (write64 s a v).gtab = s.gtab := rfl
@[simp] theorem write64_slots (s : State) (a : Nat) (v : Dword) : (write64 s a v).slots = s.slots := rfl
@[simp] theorem write64_passing (s : State) (a : Nat) (v : Dword) : (write64 s a v).passing = s.passing := rfl
@[simp] theorem write64_fairness (s : State) (a : Nat) (v : Dword) : (write64 s a v).fairness = s.fairness := rfl
@[simp] theorem write64_mcGroups (s : State) (a : Nat) (v : Dword) : (write64 s a v).mcGroups = s.mcGroups := rfl
@[simp] theorem write64_mcFlights (s : State) (a : Nat) (v : Dword) : (write64 s a v).mcFlights = s.mcFlights := rfl
@[simp] theorem write64_rates (s : State) (a : Nat) (v : Dword) : (write64 s a v).rates = s.rates := rfl
@[simp] theorem write64_plans (s : State) (a : Nat) (v : Dword) : (write64 s a v).plans = s.plans := rfl
@[simp] theorem write64_ueOut (s : State) (a : Nat) (v : Dword) : (write64 s a v).ueOut = s.ueOut := rfl
@[simp] theorem write64_tokens (s : State) (a : Nat) (v : Dword) : (write64 s a v).tokens = s.tokens := rfl
@[simp] theorem write64_invs (s : State) (a : Nat) (v : Dword) : (write64 s a v).invs = s.invs := rfl
@[simp] theorem write64_lantern (s : State) (a : Nat) (v : Dword) : (write64 s a v).lantern = s.lantern := rfl
@[simp] theorem write64_parts (s : State) (a : Nat) (v : Dword) : (write64 s a v).parts = s.parts := rfl
@[simp] theorem write64_sched (s : State) (a : Nat) (v : Dword) : (write64 s a v).sched = s.sched := rfl
@[simp] theorem write64_dev (s : State) (a : Nat) (v : Dword) : (write64 s a v).dev = s.dev := rfl
@[simp] theorem write64_vfs (s : State) (a : Nat) (v : Dword) : (write64 s a v).vfs = s.vfs := rfl
@[simp] theorem write64_blocks (s : State) (a : Nat) (v : Dword) : (write64 s a v).blocks = s.blocks := rfl
@[simp] theorem write64_power (s : State) (a : Nat) (v : Dword) : (write64 s a v).power = s.power := rfl
@[simp] theorem write64_trust (s : State) (a : Nat) (v : Dword) : (write64 s a v).trust = s.trust := rfl
@[simp] theorem write64_shed (s : State) (a : Nat) (v : Dword) : (write64 s a v).shed = s.shed := rfl
@[simp] theorem write64_shedAt (s : State) (a : Nat) (v : Dword) : (write64 s a v).shedAt = s.shedAt := rfl
@[simp] theorem write64_msix (s : State) (a : Nat) (v : Dword) : (write64 s a v).msix = s.msix := rfl

/-! ## pushTick -/

@[simp] theorem pushTick_time (s : State) (k j : Nat) : (pushTick s k j).time = s.time := rfl
@[simp] theorem pushTick_half (s : State) (k j : Nat) : (pushTick s k j).half = s.half := rfl
@[simp] theorem pushTick_clk (s : State) (k j : Nat) : (pushTick s k j).clk = s.clk := rfl
@[simp] theorem pushTick_agenda (s : State) (k j : Nat) : (pushTick s k j).agenda = s.agenda := rfl
@[simp] theorem pushTick_turn (s : State) (k j : Nat) : (pushTick s k j).turn = s.turn := rfl
@[simp] theorem pushTick_cursor (s : State) (k j : Nat) : (pushTick s k j).cursor = s.cursor := rfl
@[simp] theorem pushTick_cur (s : State) (k j : Nat) : (pushTick s k j).cur = s.cur := rfl
@[simp] theorem pushTick_freeCtr (s : State) (k j : Nat) : (pushTick s k j).freeCtr = s.freeCtr := rfl
@[simp] theorem pushTick_mem (s : State) (k j : Nat) : (pushTick s k j).mem = s.mem := rfl
@[simp] theorem pushTick_poison (s : State) (k j : Nat) : (pushTick s k j).poison = s.poison := rfl
@[simp] theorem pushTick_retired (s : State) (k j : Nat) : (pushTick s k j).retired = s.retired := rfl
@[simp] theorem pushTick_reported (s : State) (k j : Nat) : (pushTick s k j).reported = s.reported := rfl
@[simp] theorem pushTick_devid (s : State) (k j : Nat) : (pushTick s k j).devid = s.devid := rfl
@[simp] theorem pushTick_groups (s : State) (k j : Nat) : (pushTick s k j).groups = s.groups := rfl
@[simp] theorem pushTick_teams (s : State) (k j : Nat) : (pushTick s k j).teams = s.teams := rfl
@[simp] theorem pushTick_grids (s : State) (k j : Nat) : (pushTick s k j).grids = s.grids := rfl
@[simp] theorem pushTick_cmds (s : State) (k j : Nat) : (pushTick s k j).cmds = s.cmds := rfl
@[simp] theorem pushTick_nextCid (s : State) (k j : Nat) : (pushTick s k j).nextCid = s.nextCid := rfl
@[simp] theorem pushTick_barriers (s : State) (k j : Nat) : (pushTick s k j).barriers = s.barriers := rfl
@[simp] theorem pushTick_regWaits (s : State) (k j : Nat) : (pushTick s k j).regWaits = s.regWaits := rfl
@[simp] theorem pushTick_opCache (s : State) (k j : Nat) : (pushTick s k j).opCache = s.opCache := rfl
@[simp] theorem pushTick_tlb (s : State) (k j : Nat) : (pushTick s k j).tlb = s.tlb := rfl
@[simp] theorem pushTick_redReqs (s : State) (k j : Nat) : (pushTick s k j).redReqs = s.redReqs := rfl
@[simp] theorem pushTick_flights (s : State) (k j : Nat) : (pushTick s k j).flights = s.flights := rfl
@[simp] theorem pushTick_coreHeld (s : State) (k j : Nat) : (pushTick s k j).coreHeld = s.coreHeld := rfl
@[simp] theorem pushTick_sliceHeld (s : State) (k j : Nat) : (pushTick s k j).sliceHeld = s.sliceHeld := rfl
@[simp] theorem pushTick_refused (s : State) (k j : Nat) : (pushTick s k j).refused = s.refused := rfl
@[simp] theorem pushTick_filters (s : State) (k j : Nat) : (pushTick s k j).filters = s.filters := rfl
@[simp] theorem pushTick_reds (s : State) (k j : Nat) : (pushTick s k j).reds = s.reds := rfl
@[simp] theorem pushTick_spills (s : State) (k j : Nat) : (pushTick s k j).spills = s.spills := rfl
@[simp] theorem pushTick_carried (s : State) (k j : Nat) : (pushTick s k j).carried = s.carried := rfl
@[simp] theorem pushTick_descs (s : State) (k j : Nat) : (pushTick s k j).descs = s.descs := rfl
@[simp] theorem pushTick_outbox (s : State) (k j : Nat) : (pushTick s k j).outbox = s.outbox := rfl
@[simp] theorem pushTick_chansOut (s : State) (k j : Nat) : (pushTick s k j).chansOut = s.chansOut := rfl
@[simp] theorem pushTick_chansIn (s : State) (k j : Nat) : (pushTick s k j).chansIn = s.chansIn := rfl
@[simp] theorem pushTick_reqs (s : State) (k j : Nat) : (pushTick s k j).reqs = s.reqs := rfl
@[simp] theorem pushTick_nextTag (s : State) (k j : Nat) : (pushTick s k j).nextTag = s.nextTag := rfl
@[simp] theorem pushTick_rwc (s : State) (k j : Nat) : (pushTick s k j).rwc = s.rwc := rfl
@[simp] theorem pushTick_ports (s : State) (k j : Nat) : (pushTick s k j).ports = s.ports := rfl
@[simp] theorem pushTick_lgs (s : State) (k j : Nat) : (pushTick s k j).lgs = s.lgs := rfl
@[simp] theorem pushTick_ltab (s : State) (k j : Nat) : (pushTick s k j).ltab = s.ltab := rfl
@[simp] theorem pushTick_gtab (s : State) (k j : Nat) : (pushTick s k j).gtab = s.gtab := rfl
@[simp] theorem pushTick_slots (s : State) (k j : Nat) : (pushTick s k j).slots = s.slots := rfl
@[simp] theorem pushTick_passing (s : State) (k j : Nat) : (pushTick s k j).passing = s.passing := rfl
@[simp] theorem pushTick_fairness (s : State) (k j : Nat) : (pushTick s k j).fairness = s.fairness := rfl
@[simp] theorem pushTick_mcGroups (s : State) (k j : Nat) : (pushTick s k j).mcGroups = s.mcGroups := rfl
@[simp] theorem pushTick_mcFlights (s : State) (k j : Nat) : (pushTick s k j).mcFlights = s.mcFlights := rfl
@[simp] theorem pushTick_rates (s : State) (k j : Nat) : (pushTick s k j).rates = s.rates := rfl
@[simp] theorem pushTick_plans (s : State) (k j : Nat) : (pushTick s k j).plans = s.plans := rfl
@[simp] theorem pushTick_ueOut (s : State) (k j : Nat) : (pushTick s k j).ueOut = s.ueOut := rfl
@[simp] theorem pushTick_tokens (s : State) (k j : Nat) : (pushTick s k j).tokens = s.tokens := rfl
@[simp] theorem pushTick_invs (s : State) (k j : Nat) : (pushTick s k j).invs = s.invs := rfl
@[simp] theorem pushTick_lantern (s : State) (k j : Nat) : (pushTick s k j).lantern = s.lantern := rfl
@[simp] theorem pushTick_parts (s : State) (k j : Nat) : (pushTick s k j).parts = s.parts := rfl
@[simp] theorem pushTick_sched (s : State) (k j : Nat) : (pushTick s k j).sched = s.sched := rfl
@[simp] theorem pushTick_dev (s : State) (k j : Nat) : (pushTick s k j).dev = s.dev := rfl
@[simp] theorem pushTick_vfs (s : State) (k j : Nat) : (pushTick s k j).vfs = s.vfs := rfl
@[simp] theorem pushTick_blocks (s : State) (k j : Nat) : (pushTick s k j).blocks = s.blocks := rfl
@[simp] theorem pushTick_power (s : State) (k j : Nat) : (pushTick s k j).power = s.power := rfl
@[simp] theorem pushTick_trust (s : State) (k j : Nat) : (pushTick s k j).trust = s.trust := rfl
@[simp] theorem pushTick_shed (s : State) (k j : Nat) : (pushTick s k j).shed = s.shed := rfl
@[simp] theorem pushTick_shedAt (s : State) (k j : Nat) : (pushTick s k j).shedAt = s.shedAt := rfl
@[simp] theorem pushTick_msix (s : State) (k j : Nat) : (pushTick s k j).msix = s.msix := rfl

/-! ## putSplit -/

@[simp] theorem putSplit_core (g : Group) (e : Nat) (p : Split) : (putSplit g e p).core = g.core := rfl
@[simp] theorem putSplit_gslot (g : Group) (e : Nat) (p : Split) : (putSplit g e p).gslot = g.gslot := rfl
@[simp] theorem putSplit_gid (g : Group) (e : Nat) (p : Split) : (putSplit g e p).gid = g.gid := rfl
@[simp] theorem putSplit_team (g : Group) (e : Nat) (p : Split) : (putSplit g e p).team = g.team := rfl
@[simp] theorem putSplit_grpid (g : Group) (e : Nat) (p : Split) : (putSplit g e p).grpid = g.grpid := rfl
@[simp] theorem putSplit_v (g : Group) (e : Nat) (p : Split) : (putSplit g e p).v = g.v := rfl
@[simp] theorem putSplit_held (g : Group) (e : Nat) (p : Split) : (putSplit g e p).held = g.held := rfl
@[simp] theorem putSplit_xi (g : Group) (e : Nat) (p : Split) : (putSplit g e p).xi = g.xi := rfl
@[simp] theorem putSplit_q (g : Group) (e : Nat) (p : Split) : (putSplit g e p).q = g.q := rfl
@[simp] theorem putSplit_s (g : Group) (e : Nat) (p : Split) : (putSplit g e p).s = g.s := rfl
@[simp] theorem putSplit_lst (g : Group) (e : Nat) (p : Split) : (putSplit g e p).lst = g.lst := rfl
@[simp] theorem putSplit_ctl (g : Group) (e : Nat) (p : Split) : (putSplit g e p).ctl = g.ctl := rfl
@[simp] theorem putSplit_hz (g : Group) (e : Nat) (p : Split) : (putSplit g e p).hz = g.hz := rfl
@[simp] theorem putSplit_parked (g : Group) (e : Nat) (p : Split) : (putSplit g e p).parked = g.parked := rfl
@[simp] theorem putSplit_prio (g : Group) (e : Nat) (p : Split) : (putSplit g e p).prio = g.prio := rfl
@[simp] theorem putSplit_region (g : Group) (e : Nat) (p : Split) : (putSplit g e p).region = g.region := rfl
@[simp] theorem putSplit_rotated (g : Group) (e : Nat) (p : Split) : (putSplit g e p).rotated = g.rotated := rfl

/-! ## clearSticky -/

@[simp] theorem clearSticky_core (g : Group) (m : Mask) : (clearSticky g m).core = g.core := rfl
@[simp] theorem clearSticky_gslot (g : Group) (m : Mask) : (clearSticky g m).gslot = g.gslot := rfl
@[simp] theorem clearSticky_gid (g : Group) (m : Mask) : (clearSticky g m).gid = g.gid := rfl
@[simp] theorem clearSticky_team (g : Group) (m : Mask) : (clearSticky g m).team = g.team := rfl
@[simp] theorem clearSticky_grpid (g : Group) (m : Mask) : (clearSticky g m).grpid = g.grpid := rfl
@[simp] theorem clearSticky_v (g : Group) (m : Mask) : (clearSticky g m).v = g.v := rfl
@[simp] theorem clearSticky_held (g : Group) (m : Mask) : (clearSticky g m).held = g.held := rfl
@[simp] theorem clearSticky_xi (g : Group) (m : Mask) : (clearSticky g m).xi = g.xi := rfl
@[simp] theorem clearSticky_q (g : Group) (m : Mask) : (clearSticky g m).q = g.q := rfl
@[simp] theorem clearSticky_s (g : Group) (m : Mask) : (clearSticky g m).s = g.s := rfl
@[simp] theorem clearSticky_ctl (g : Group) (m : Mask) : (clearSticky g m).ctl = g.ctl := rfl
@[simp] theorem clearSticky_hz (g : Group) (m : Mask) : (clearSticky g m).hz = g.hz := rfl
@[simp] theorem clearSticky_splits (g : Group) (m : Mask) : (clearSticky g m).splits = g.splits := rfl
@[simp] theorem clearSticky_parked (g : Group) (m : Mask) : (clearSticky g m).parked = g.parked := rfl
@[simp] theorem clearSticky_prio (g : Group) (m : Mask) : (clearSticky g m).prio = g.prio := rfl
@[simp] theorem clearSticky_region (g : Group) (m : Mask) : (clearSticky g m).region = g.region := rfl
@[simp] theorem clearSticky_rotated (g : Group) (m : Mask) : (clearSticky g m).rotated = g.rotated := rfl

end Sys2Proof.Laws
end

