-- ==== Sys2Proof/Laws/Access.lean ====
section
/-! SUPPORT. Laws/Access.lean: reading the parts of the state after they were changed, and the end of an instruction. -/
namespace Sys2Proof.Laws

open Sys2Proof.Machine

/-! ## Vectors -/

theorem vget_of_lt {α : Type} {n : Nat} (v : Vector α n) (d : α) {i : Nat} (h : i < n) : vget v i d = v[i] := by
  simp [vget, h]

theorem vget_of_ge {α : Type} {n : Nat} (v : Vector α n) (d : α) {i : Nat} (h : n ≤ i) : vget v i d = d := by
  simp [vget, h]

theorem vget_vset_same {α : Type} {n : Nat} (v : Vector α n) (x d : α) {i : Nat} (h : i < n) :
    vget (vset v i x) i d = x := by
  simp [vget, vset, h]

theorem vget_vset_other {α : Type} {n : Nat} (v : Vector α n) (x d : α) {i j : Nat} (h : j ≠ i) :
    vget (vset v i x) j d = vget v j d := by
  simp [vget, vset, Vector.getElem?_setIfInBounds, Ne.symm h]

/-! ## Lists -/

theorem modify_eq_map {α : Type} (p : α → Bool) (f : α → α) (l : List α) :
    Machine.modify p f l = l.map fun x => if p x then f x else x := by
  induction l with
  | nil => rfl
  | cons x t ih => simp [Machine.modify, ih]

/-- The first element of a kind, after the elements of that kind have been changed and kept their kind. -/
theorem find_modify {α : Type} (p : α → Bool) (f : α → α) (keep : ∀ x, p x = true → p (f x) = true) (l : List α) :
    (Machine.modify p f l).find? p = (l.find? p).map f := by
  induction l with
  | nil => rfl
  | cons x t ih =>
    by_cases h : p x = true
    · simp [Machine.modify, h, keep x h]
    · simp [Machine.modify, h, ih]

/-- The first element of another kind. -/
theorem find_modify_other {α : Type} (p q : α → Bool) (f : α → α)
    (apart : ∀ x, p x = true → q x = false ∧ q (f x) = false) (l : List α) :
    (Machine.modify p f l).find? q = l.find? q := by
  induction l with
  | nil => rfl
  | cons x t ih =>
    by_cases h : p x = true
    · simp [Machine.modify, h, (apart x h).1, (apart x h).2, ih]
    · simp only [Machine.modify, h, if_false, List.find?_cons, ih, Bool.false_eq_true]

/-! ## Groups and splits -/

theorem groupAt_isAt {s : State} {k j : Nat} {g : Group} (h : groupAt s k j = some g) : g.core = k ∧ g.gslot = j := by
  have := List.find?_some h
  simpa [Group.isAt] using this

theorem groupAt_modGroup {s : State} {k j : Nat} {g : Group} {f : Group → Group} (h : groupAt s k j = some g)
    (keep : ∀ g, (f g).core = g.core ∧ (f g).gslot = g.gslot) : groupAt (modGroup s k j f) k j = some (f g) := by
  have hk : ∀ x, Group.isAt k j x = true → Group.isAt k j (f x) = true := by
    intro x hx
    simpa [Group.isAt, (keep x).1, (keep x).2] using hx
  simp only [groupAt, modGroup] at h ⊢
  rw [find_modify _ _ hk, h, Option.map_some]

theorem groupAt_putGroup {s : State} {k j : Nat} {g g' : Group} (h : groupAt s k j = some g) (hk : g'.core = k)
    (hj : g'.gslot = j) : groupAt (putGroup s g') k j = some g' := by
  subst hk hj
  simp only [groupAt, putGroup] at h ⊢
  rw [find_modify _ _ (by intro x _; simp [Group.isAt]), h, Option.map_some]

/-- A live split stands in one of the four entries. -/
theorem live_lt {g : Group} {e : Nat} (h : (splitAt g e).live = true) : e < 4 := by
  by_contra hn
  simp [splitAt, vget_of_ge _ _ (Nat.le_of_not_lt hn), Split.live, Split.free] at h

theorem splitAt_putSplit_same {g : Group} {e : Nat} (p : Split) (h : e < 4) : splitAt (putSplit g e p) e = p :=
  vget_vset_same _ _ _ h

theorem splitAt_putSplit_other {g : Group} {e e' : Nat} (p : Split) (h : e' ≠ e) :
    splitAt (putSplit g e p) e' = splitAt g e' := vget_vset_other _ _ _ h

theorem groupAt_other {s : State} {k j k' j' : Nat} {f : Group → Group}
    (keep : ∀ g, Group.isAt k j g = true → Group.isAt k j (f g) = true) (apart : ¬(k' = k ∧ j' = j)) :
    groupAt { s with groups := Machine.modify (Group.isAt k j) f s.groups } k' j' = groupAt s k' j' := by
  refine find_modify_other _ _ _ ?_ s.groups
  intro x hx
  have hx' := keep x hx
  simp only [Group.isAt, Bool.and_eq_true, beq_iff_eq] at hx hx'
  simp only [Group.isAt, Bool.and_eq_false_iff, beq_eq_false_iff_ne, hx.1, hx.2, hx'.1, hx'.2]
  omega

/-- Changing the group of a slot, and the count of free values, is a step of that group. -/
theorem groupStep_modGroup {s : State} {k j n : Nat} {g : Group} {f : Group → Group} (h : groupAt s k j = some g)
    (keep : ∀ g, (f g).core = g.core ∧ (f g).gslot = g.gslot) :
    GroupStep s { modGroup s k j f with freeCtr := n } k j (f g) where
  group := groupAt_modGroup h keep
  others k' j' ha := groupAt_other (s := s) (by
    intro x hx
    simpa [Group.isAt, (keep x).1, (keep x).2] using hx) ha
  rest := rfl

/-- Replacing the group of a slot, and the count of free values, is a step of that group. -/
theorem groupStep_putGroup {s : State} {k j n : Nat} {g g' : Group} (h : groupAt s k j = some g) (hk : g'.core = k)
    (hj : g'.gslot = j) : GroupStep s { putGroup s g' with freeCtr := n } k j g' where
  group := groupAt_putGroup h hk hj
  others k' j' ha := by
    subst hk hj
    exact groupAt_other (s := s) (f := fun _ => g') (by
      intro x _
      simp [Group.isAt]) ha
  rest := rfl

/-! ## The end of an instruction -/

theorem withCtx_of_standing {s : State} {c : Ctx} (h : Standing s c)
    (k : Ctx → Host.Outcome State Fault Refusal) : withCtx s k = k c := by
  obtain ⟨cur, g, p, part⟩ := c
  have hp : p = splitAt g cur.who.entry := h.split
  have hl : (splitAt g cur.who.entry).live = true := hp ▸ h.live
  have hpt : part = partOf s g := h.part
  simp only [withCtx, show s.cur = some cur from h.cur, show groupAt s cur.who.core cur.who.gslot = some g from h.group, hl,
    if_true, hp, hpt]

theorem runInstr_of_issuing {s : State} {c : Ctx} (h : Issuing s c) (body : Ctx → Ex State) :
    runInstr s body = finish s c (body c) := by
  rw [runInstr, withCtx_of_standing h.toStanding, h.ready]; rfl

/-- A program instruction whose body gives a state completes with it. -/
theorem runInstr_next {s t : State} {c : Ctx} (h : Issuing s c) {body : Ctx → Ex State} (hb : body c = .ok t) :
    runInstr s body = .next { t with freeCtr := s.freeCtr + 1024 } := by
  rw [runInstr_of_issuing h, hb]; rfl

theorem runCore_of_issuing {s : State} {c : Ctx} {i : Instr} {p : Pfx} {f : WordF} {o : Opnds} (h : Issuing s c)
    (hn : Names i s c p f o) (body : Ctx → Pfx → WordF → Opnds → Ex State) :
    runCore i s body = finish s c (body c p f o) := by
  obtain ⟨u, hv, ho⟩ := hn
  simp only [runCore, runInstr_of_issuing h, hv, ho]
  rfl

/-- A 32-bit program instruction whose body gives a state completes with it. -/
theorem runCore_next {s t : State} {c : Ctx} {i : Instr} {p : Pfx} {f : WordF} {o : Opnds} (h : Issuing s c)
    (hn : Names i s c p f o) {body : Ctx → Pfx → WordF → Opnds → Ex State} (hb : body c p f o = .ok t) :
    runCore i s body = .next { t with freeCtr := s.freeCtr + 1024 } := by
  rw [runCore_of_issuing h hn, hb]; rfl

theorem runCore_trap {s : State} {c : Ctx} {i : Instr} {p : Pfx} {f : WordF} {o : Opnds} {t : Trp} (h : Issuing s c)
    (hn : Names i s c p f o) {body : Ctx → Pfx → WordF → Opnds → Ex State} (hb : body c p f o = .error (.trap t))
    (hr : commitReady s c.g = true) :
    runCore i s body = .next { enterTrap s c.cur t with freeCtr := s.freeCtr + 1024 } := by
  rw [runCore_of_issuing h hn, hb]; simp [finish, hr]

end Sys2Proof.Laws
end

