-- ==== Sys2Proof/Laws/Lane.lean ====
section
/-! SUPPORT. Laws/Lane.lean: what the write-back of a lane instruction does, and when a lane instruction reaches it. -/
namespace Sys2Proof.Laws

open Sys2Proof.Machine

/-! ## Lanes -/

theorem laneGet_lanesOf (f : Nat → Word) {l : Nat} (h : l < 32) : laneGet (lanesOf f) l = f l := by
  simp [laneGet, lanesOf, vget, h]

theorem vget_lanes32 {α : Type} (f : Nat → α) (d : α) {l : Nat} (h : l < 32) :
    vget (⟨((List.range 32).map f).toArray, by simp⟩ : Vector α 32) l d = f l := by
  simp [vget, h]

theorem addSticky_lst (g : Group) (f : Nat → Flags) {l : Nat} (h : l < 32) :
    vget (addSticky g f).lst l 0 = vget g.lst l 0 ||| f l := vget_lanes32 _ _ h

/-! ## One register -/

theorem vreg_writeV1_same {g : Group} {n : Nat} (M : Mask) (x : Lanes) (t : Tag) (h : n < 120) :
    vreg (writeV1 g n M x t) n = writeLanes (vreg g n) M x t := vget_vset_same _ _ _ h

theorem vreg_writeV1_other {g : Group} {n m : Nat} (M : Mask) (x : Lanes) (t : Tag) (h : m ≠ n) :
    vreg (writeV1 g n M x t) m = vreg g m := vget_vset_other _ _ _ h

theorem heldReg_lt {g : Group} {n : Nat} (h : heldReg g n = true) : n < 120 := by
  simp only [heldReg, Bool.or_eq_true, Bool.and_eq_true, decide_eq_true_eq] at h
  omega

theorem heldSpan_reg {g : Group} {r n i : Nat} (h : heldSpan g (.reg r) n = true) (hi : i < n) :
    heldReg g (r + i) = true := by
  simp only [heldSpan, List.all_eq_true, List.mem_range] at h
  exact h i hi

/-! ## The write-back -/

theorem vreg_writeV_low {g : Group} {n : Nat} (M : Mask) (x : Nat → Dword) (t : Tag) (h : n < 120) :
    vreg (writeV g n M x t) n = writeLanes (vreg g n) M (loWords x) t := by
  unfold writeV
  split
  · rw [vreg_writeV1_other _ _ _ (by omega), vreg_writeV1_same _ _ _ h]
  · exact vreg_writeV1_same _ _ _ h

theorem vreg_writeV_high {g : Group} {n : Nat} (M : Mask) (x : Nat → Dword) {t : Tag} (ht : isF64 t = true)
    (h : n + 1 < 120) : vreg (writeV g n M x t) (n + 1) = writeLanes (vreg g (n + 1)) M (hiWords x) t := by
  simp only [writeV, ht, if_true]
  rw [vreg_writeV1_same _ _ _ h, vreg_writeV1_other _ _ _ (by omega)]

theorem vreg_writeV_other {g : Group} {n m : Nat} (M : Mask) (x : Nat → Dword) (t : Tag) (hm : m ≠ n)
    (ht : isF64 t = true → m ≠ n + 1) : vreg (writeV g n M x t) m = vreg g m := by
  unfold writeV
  split
  · rename_i h
    rw [vreg_writeV1_other _ _ _ (ht h), vreg_writeV1_other _ _ _ hm]
  · exact vreg_writeV1_other _ _ _ hm

/-- The destination of a write-back as the group holds it, before the flags and the split. -/
def placed (g : Group) (d : Src) (M : Mask) (x : Nat → Dword) (t : Tag) : Group :=
  match d with
  | .reg n => writeV g n M x t
  | .none => g
  | .latch _ => g
  | .zero => g
  | .lane => g
  | .imm _ => g
  | .scalar _ => g

theorem writeV_rest (g : Group) (n : Nat) (M : Mask) (x : Nat → Dword) (t : Tag) :
    writeV g n M x t = { g with v := (writeV g n M x t).v } := by
  unfold writeV
  split <;> rfl

theorem placed_rest (g : Group) (d : Src) (M : Mask) (x : Nat → Dword) (t : Tag) :
    placed g d M x t = { g with v := (placed g d M x t).v } := by
  cases d <;> first | exact writeV_rest _ _ _ _ _ | rfl

/-- The group a lane instruction leaves. -/
def laneGroup (s : State) (c : Ctx) (chain : Bool) (d : Src) (M : Mask) (x : Nat → Dword) (t : Tag)
    (F : Nat → Flags) : Group :=
  let g := addSticky (placed c.g d M x t) fun l => if M.getLsbD l then F l else 0
  advanceGroup s c chain (some (makeLatch g d M x t)) g

theorem writeResult_eq (s : State) (c : Ctx) (chain : Bool) (d : Src) (M : Mask) (x : Nat → Dword) (t : Tag)
    (F : Nat → Flags) : writeResult s c chain d M x t F = putGroup s (laneGroup s c chain d M x t F) := by
  cases d <;> rfl

theorem fellThrough_advance {s : State} {c : Ctx} {chain : Bool} {latch : Option Latch} {g : Group}
    (hs : c.p = splitAt c.g c.cur.who.entry) (hl : c.p.live = true) (hg : g.splits = c.g.splits) :
    FellThrough c (advanceGroup s c chain latch g) where
  goesOn := by
    have he : c.cur.who.entry < 4 := live_lt (hs ▸ hl)
    rw [advanceGroup, splitAt_putSplit_same _ he, hs]
    simp only [advance, stampSplit, splitAt, hg]
  others e he := by
    rw [advanceGroup, splitAt_putSplit_other _ he]
    simp only [splitAt, hg]

/-- R66: everything the write-back of a lane instruction does to the group. -/
theorem laneWritten_laneGroup {s : State} {c : Ctx} (hs : c.p = splitAt c.g c.cur.who.entry) (hl : c.p.live = true)
    (chain : Bool) {d : Src} {t : Tag} (hd : heldSpan c.g d (if isF64 t then 2 else 1) = true) (M : Mask)
    (x : Nat → Dword) (F : Nat → Flags) : LaneWritten c d M t x F (laneGroup s c chain d M x t F) := by
  have hv : (laneGroup s c chain d M x t F).v = (placed c.g d M x t).v := rfl
  have hreg : ∀ m, vreg (laneGroup s c chain d M x t F) m = vreg (placed c.g d M x t) m := fun _ => rfl
  have low : ∀ n, d = .reg n → n < 120 ∧ vreg (placed c.g d M x t) n = writeLanes (vreg c.g n) M (loWords x) t := by
    intro n hn
    subst hn
    have : n < 120 := heldReg_lt (heldSpan_reg (i := 0) hd (by split <;> omega))
    exact ⟨this, vreg_writeV_low _ _ _ this⟩
  constructor
  · intro n hn
    simp only [tagOf, hreg, (low n hn).2, writeLanes]
  · intro n hn l h32 hM
    simp only [hreg, (low n hn).2, writeLanes, laneGet_lanesOf _ h32, hM, if_true, loWords]
  · intro h64 n hn
    have hd' := hd
    rw [hn, if_pos h64] at hd'
    have h120 : n + 1 < 120 := heldReg_lt (heldSpan_reg (i := 1) hd' (by omega))
    have hh : vreg (placed c.g d M x t) (n + 1) = writeLanes (vreg c.g (n + 1)) M (hiWords x) t := by
      rw [hn]; exact vreg_writeV_high _ _ h64 h120
    refine ⟨by simp only [tagOf, hreg, hh, writeLanes], fun l h32 hM => ?_⟩
    simp only [hreg, hh, writeLanes, laneGet_lanesOf _ h32, hM, if_true, hiWords]
  · intro n hn l h32 hM
    simp only [hreg, (low n hn).2, writeLanes, laneGet_lanesOf _ h32, hM, Bool.false_eq_true, if_false]
    rfl
  · intro m hm
    rw [hreg]
    cases d <;> first | rfl | exact vreg_writeV_other _ _ _ (hm _ rfl).1 (hm _ rfl).2
  · intro l h32
    have : (laneGroup s c chain d M x t F).lst =
        (addSticky (placed c.g d M x t) fun l => if M.getLsbD l then F l else 0).lst := rfl
    rw [this, addSticky_lst _ _ h32, placed_rest]
  · show laneGroup s c chain d M x t F = _
    simp only [laneGroup, advanceGroup, putSplit, addSticky]
    rw [placed_rest]
  · exact fellThrough_advance hs hl (by simp only [addSticky]; rw [placed_rest])

theorem laneGroup_slot (s : State) (c : Ctx) (chain : Bool) (d : Src) (M : Mask) (x : Nat → Dword) (t : Tag)
    (F : Nat → Flags) :
    (laneGroup s c chain d M x t F).core = c.g.core ∧ (laneGroup s c chain d M x t F).gslot = c.g.gslot := by
  simp only [laneGroup, advanceGroup, putSplit, addSticky]
  rw [placed_rest]
  exact ⟨rfl, rfl⟩

/-- An instruction whose body writes a lane result completes so. -/
theorem laneCompletes_of_writeResult {s : State} {c : Ctx} (h : Issuing s c) {i : Instr} {chain : Bool} {d : Src}
    {M : Mask} {t : Tag} {x : Nat → Dword} {F : Nat → Flags} {n : Nat}
    (hd : heldSpan c.g d (if isF64 t then 2 else 1) = true)
    (he : exec i s = .next { writeResult s c chain d M x t F with freeCtr := n }) :
    LaneCompletes i s c d M t x F := by
  obtain ⟨hc, hj⟩ := groupAt_isAt h.group
  obtain ⟨kc, kj⟩ := laneGroup_slot s c chain d M x t F
  refine ⟨_, ⟨_, he, ?_⟩, laneWritten_laneGroup (s := s) h.split h.live chain hd M x F⟩
  rw [writeResult_eq]
  exact groupStep_putGroup h.group (kc.trans hc) (kj.trans hj)

/-! ## Reaching the write-back -/

/-- The destination of a usable lane instruction is held. -/
theorem laneUsable_dest {c : Ctx} {o : Opnds} {t : Tag} {wideB : Bool} (h : LaneUsable c o t wideB) :
    heldSpan c.g o.d (if isF64 t then 2 else 1) = true := by
  have := h.held
  simp only [operandsHeld, Bool.and_eq_true] at this
  exact this.1.1.1

/-- The checks of a lane instruction pass on operands it can use and tags it accepts. -/
theorem laneChecks_ok {c : Ctx} {o : Opnds} {t : Tag} {wideB : Bool} (h : LaneUsable c o t wideB) (M : Mask) :
    laneChecks c o M t (isF64 (tagA c o)) wideB true = .ok .ok := by
  show (do
    need (pairsEven c o t) causeIllegalOperand c.mask
    need (operandsHeld c o t wideB) causeRegisterBounds c.mask
    need (pairsWhole c o wideB) causeFormatMismatch M
    checkFmt c true M) = _
  rw [h.even, h.held, h.whole]
  rfl

/-- A source a that passes as U32 is no FP64 pair, so an instruction whose a passes reads FP64 where a carries it. -/
theorem isF64_of_passes {c : Ctx} {o : Opnds} {src : Tag → Bool} (h : passesA c o src = true) :
    (isF64 (tagA c o) && src (tagA c o)) = isF64 (tagA c o) := by
  by_cases hs : src (tagA c o) = true
  · rw [hs, Bool.and_true]
  · have ha : srcTag c o.a = none := by simpa [passesA, hs] using h
    have : tagA c o = 0 := by
      unfold tagA
      cases h : o.a <;> rw [h] at ha <;> simp_all [srcTag, readTag]
    rw [this]; rfl

/-- A lane instruction of one row completes with the row's value on operands it can use and tags it accepts. -/
theorem runLaneBy_completes {s : State} {c : Ctx} {i j : Instr} {p : Pfx} {f : WordF} {o : Opnds}
    {sem : Group → LaneSem} (h : Issuing s c) (hn : Names j s c p f o)
    (hu : LaneUsable c o ((sem c.g).res (tagA c o) (readTag c o.c)) (sem c.g).wideB)
    (ha : passesA c o (sem c.g).src = true)
    (hok : (sem c.g).ok (tagA c o) (srcTag c o.b) (srcTag c o.c) = true) (he : exec i s = runLaneBy j sem s) :
    LaneCompletes i s c o.d (activeMask c p.operand f.guard) ((sem c.g).res (tagA c o) (readTag c o.c))
      (fun l => (rowValue s c o (sem c.g) l).1) (fun l => (rowValue s c o (sem c.g) l).2) := by
  refine laneCompletes_of_writeResult h (chain := f.chain) (n := s.freeCtr + 1024) (laneUsable_dest hu) ?_
  rw [he, runLaneBy]
  apply runCore_next h hn
  dsimp only
  rw [hok, ha, isF64_of_passes ha, Bool.and_self, laneChecks_ok hu]
  rfl

/-- The same for a row that does not depend on the group. -/
theorem runLane_completes {s : State} {c : Ctx} {i j : Instr} {p : Pfx} {f : WordF} {o : Opnds} {sem : LaneSem}
    (h : Issuing s c) (hn : Names j s c p f o) (hu : LaneUsable c o (sem.res (tagA c o) (readTag c o.c)) sem.wideB)
    (ha : passesA c o sem.src = true) (hok : sem.ok (tagA c o) (srcTag c o.b) (srcTag c o.c) = true) (he : exec i s = runLane j sem s) :
    LaneCompletes i s c o.d (activeMask c p.operand f.guard) (sem.res (tagA c o) (readTag c o.c))
      (fun l => (rowValue s c o sem l).1) (fun l => (rowValue s c o sem l).2) :=
  runLaneBy_completes (sem := fun _ => sem) h hn hu ha hok he

/-- A lane's value where source a is of the instruction's class: the row's. -/
theorem rowValue_of_src {s : State} {c : Ctx} {o : Opnds} {sem : LaneSem} (h : sem.src (tagA c o) = true) (l : Nat) :
    rowValue s c o sem l = sem.fn (tagA c o) (readTag c o.b) (srcVal c (isF64 (tagA c o)) o.a l)
      (srcVal c (isF64 (tagA c o) && sem.wideB) o.b l) (srcVal c (isF64 (tagA c o)) o.c l) := if_pos h

end Sys2Proof.Laws
end

