-- ==== Sys2Proof/Laws/Elements.lean ====
section
/-! SUPPORT. Laws/Elements.lean: the elements of a lane value built element by element (R70, R170). -/
namespace Sys2Proof.Laws

open Sys2Proof.Machine

theorem joinElems_lt (w : Nat) (xs : List Nat) : joinElems w xs < 2 ^ (xs.length * w) := by
  induction xs with
  | nil => simp [joinElems]
  | cons x t ih =>
    have hx : x % 2 ^ w < 2 ^ w := Nat.mod_lt _ (by positivity)
    have : 2 ^ ((t.length + 1) * w) = 2 ^ w * 2 ^ (t.length * w) := by rw [← pow_add]; ring_nf
    simp only [joinElems, List.length_cons, this]
    have hm := Nat.mul_le_mul_left (2 ^ w) (Nat.succ_le_of_lt ih)
    rw [Nat.mul_succ] at hm
    omega

theorem joinElems_get (w : Nat) (xs : List Nat) {e : Nat} (h : e < xs.length) :
    joinElems w xs / 2 ^ (e * w) % 2 ^ w = xs[e] % 2 ^ w := by
  induction xs generalizing e with
  | nil => simp at h
  | cons x t ih =>
    cases e with
    | zero => simp [joinElems, Nat.add_mod]
    | succ e =>
      have hp : (2 : Nat) ^ ((e + 1) * w) = 2 ^ w * 2 ^ (e * w) := by rw [← pow_add]; ring_nf
      have hx : x % 2 ^ w / 2 ^ w = 0 := Nat.div_eq_of_lt (Nat.mod_lt _ (by positivity))
      rw [joinElems, hp, ← Nat.div_div_eq_div_mul, Nat.add_mul_div_left _ _ (by positivity), hx, Nat.zero_add,
        ih (by simpa using h)]
      rfl

theorem count_ewidth (t : Tag) : count t * ewidth t ≤ 64 := by
  revert t; decide

theorem count_pos (t : Tag) : 0 < count t := by
  revert t; decide

theorem ewidth_pos (t : Tag) : 0 < ewidth t := by
  revert t; decide

/-- The elements of a joined list of at most Count elements. -/
theorem elem_joinElems (t : Tag) (xs : List Nat) {e : Nat} (h : e < xs.length) (hc : xs.length ≤ count t) :
    elem t (BitVec.ofNat 64 (joinElems (ewidth t) xs)) e = xs[e] % 2 ^ ewidth t := by
  have hlt : joinElems (ewidth t) xs < 2 ^ 64 :=
    lt_of_lt_of_le (joinElems_lt _ _)
      (Nat.pow_le_pow_right (by omega) (le_trans (Nat.mul_le_mul_right _ hc) (count_ewidth t)))
  rw [elem, BitVec.toNat_ofNat, Nat.mod_eq_of_lt hlt, joinElems_get _ _ h]

theorem elem_lt (t : Tag) (x : Dword) (e : Nat) : elem t x e < 2 ^ ewidth t := Nat.mod_lt _ (by positivity)

theorem elem_mapElems (t : Tag) (f : Nat → Nat → Nat → Nat) (x y z : Dword) {e : Nat} (h : e < count t) :
    elem t (mapElems t f x y z) e = f (elem t x e) (elem t y e) (elem t z e) % 2 ^ ewidth t := by
  rw [mapElems, elem_joinElems t _ (by simpa using h) (by simp)]
  simp

theorem elem_mapElemsF (t : Tag) (f : Nat → Nat → Nat → Nat × Flags) (x y z : Dword) {e : Nat} (h : e < count t) :
    elem t (mapElemsF t f x y z).1 e = (f (elem t x e) (elem t y e) (elem t z e)).1 % 2 ^ ewidth t := by
  rw [mapElemsF, elem_joinElems t _ (by simpa using h) (by simp)]
  simp

/-! ## Integers and their patterns (R74, R172) -/

theorem patOf_lt (w : Nat) (v : Int) : patOf w v < 2 ^ w := by
  have hp : (0 : Int) < 2 ^ w := by positivity
  have h1 := Int.emod_lt_of_pos v hp
  have h2 := Int.emod_nonneg v (ne_of_gt hp)
  have : ((patOf w v : Nat) : Int) < ((2 ^ w : Nat) : Int) := by
    rw [patOf, Int.toNat_of_nonneg h2]; push_cast; exact h1
  exact_mod_cast this

theorem intOf_emod (signed : Bool) (w x : Nat) : (intOf signed w x) % (2 ^ w : Int) = (x : Int) % 2 ^ w := by
  unfold intOf
  split
  · rw [Int.sub_emod, Int.emod_self, Int.sub_zero, Int.emod_emod_of_dvd _ (dvd_refl _)]
  · rfl

theorem patOf_natCast (w x : Nat) : patOf w (x : Int) = x % 2 ^ w := by
  have : ((x : Int) % 2 ^ w) = ((x % 2 ^ w : Nat) : Int) := by push_cast; rfl
  rw [patOf, this, Int.toNat_natCast]

/-- Patterns of integers that agree modulo 2^w are equal. -/
theorem patOf_congr {w : Nat} {u v : Int} (h : u % 2 ^ w = v % 2 ^ w) : patOf w u = patOf w v := by
  rw [patOf, patOf, h]

theorem patOf_add (signed : Bool) (w x y : Nat) : patOf w (intOf signed w x + intOf signed w y) = (x + y) % 2 ^ w := by
  rw [← patOf_natCast]
  apply patOf_congr
  push_cast
  rw [Int.add_emod, intOf_emod, intOf_emod, ← Int.add_emod]

theorem patOf_mul (signed : Bool) (w x y : Nat) : patOf w (intOf signed w x * intOf signed w y) = x * y % 2 ^ w := by
  rw [← patOf_natCast]
  apply patOf_congr
  push_cast
  rw [Int.mul_emod, intOf_emod, intOf_emod, ← Int.mul_emod]

theorem patOf_sub (signed : Bool) {w x y : Nat} (hy : y < 2 ^ w) :
    patOf w (intOf signed w x - intOf signed w y) = (x + (2 ^ w - y)) % 2 ^ w := by
  rw [← patOf_natCast]
  apply patOf_congr
  push_cast [Nat.cast_sub (le_of_lt hy)]
  rw [Int.sub_emod, intOf_emod, intOf_emod, ← Int.sub_emod]
  rw [show ((x : Int) + (2 ^ w - y)) = (x - y) + 2 ^ w by ring, Int.add_emod_right]

end Sys2Proof.Laws
end

