-- ==== Sys2Proof/Laws/Memory.lean ====
section
/-! SUPPORT. Laws/Memory.lean: memory keeps its canonical form, what is read after a write, and numbers as bytes. -/
namespace Sys2Proof.Laws

open Sys2Proof.Machine

/-! ## The canonical form -/

theorem cellsFrom_mono {lo hi : Nat} {m : List Host.Cell} (h : cellsFrom hi m = true) (le : lo ≤ hi) :
    cellsFrom lo m = true := by
  cases m with
  | nil => rfl
  | cons c t =>
    obtain ⟨k, v⟩ := c
    simp only [cellsFrom, Bool.and_eq_true, decide_eq_true_eq] at h ⊢
    exact ⟨⟨by omega, h.1.2⟩, h.2⟩

/-- No cell of a canonical list above an address lies at or below it. -/
theorem dropWhile_canonical {a : Nat} {m : List Host.Cell} (h : cellsFrom (a + 1) m = true) :
    m.dropWhile (fun c => decide (c.1 ≤ a)) = m := by
  cases m with
  | nil => rfl
  | cons c t =>
    simp only [cellsFrom, Bool.and_eq_true, decide_eq_true_eq] at h
    exact List.dropWhile_cons_of_neg (by simpa using h.1.1)

/-- A write at or above a bound keeps the cells above the bound canonical. -/
theorem setCell_cellsFrom {lo a : Nat} {m : List Host.Cell} (v : Byte) (h : cellsFrom lo m = true) (le : lo ≤ a) :
    cellsFrom lo (setCell m a v) = true := by
  induction m generalizing lo with
  | nil =>
    by_cases hv : v = memDefault <;> simp [setCell, hv, cellsFrom, le]
  | cons c t ih =>
    obtain ⟨k, w⟩ := c
    simp only [cellsFrom, Bool.and_eq_true, decide_eq_true_eq] at h
    obtain ⟨⟨hk, hw⟩, ht⟩ := h
    simp only [setCell]
    split
    · by_cases hv : v = memDefault
      · simp only [hv, if_true, cellsFrom, Bool.and_eq_true, decide_eq_true_eq]
        exact ⟨⟨hk, hw⟩, ht⟩
      · simp only [hv, if_false, cellsFrom, Bool.and_eq_true, decide_eq_true_eq, bne_iff_ne, ne_eq]
        exact ⟨⟨le, by simp⟩, ⟨by omega, by simpa using hw⟩, ht⟩
    · split
      · by_cases hv : v = memDefault
        · rename_i eq
          subst eq
          simp only [hv, if_true, dropWhile_canonical ht]
          exact cellsFrom_mono ht (by omega)
        · simp only [hv, if_false, cellsFrom, Bool.and_eq_true, decide_eq_true_eq, bne_iff_ne, ne_eq]
          rename_i eq
          exact ⟨⟨le, by simp⟩, eq ▸ ht⟩
      · simp only [cellsFrom, Bool.and_eq_true, decide_eq_true_eq]
        exact ⟨⟨hk, hw⟩, ih ht (by omega)⟩

theorem setCell_wf {m : List Host.Cell} (a : Nat) (v : Byte) (h : Memory.wf m = true) :
    Memory.wf (setCell m a v) = true := setCell_cellsFrom v h (Nat.zero_le a)

theorem setCells_wf {m : List Host.Cell} (cs : List (Nat × Byte)) (h : Memory.wf m = true) :
    Memory.wf (setCells m cs) = true := by
  induction cs generalizing m with
  | nil => exact h
  | cons c t ih => exact ih (setCell_wf c.1 c.2 h)

theorem setBytes_wf {m : List Host.Cell} (a : Nat) (bs : List Byte) (h : Memory.wf m = true) :
    Memory.wf (setBytes m a bs) = true := by
  induction bs generalizing m a with
  | nil => exact h
  | cons b t ih => exact ih (a + 1) (setCell_wf a b h)

theorem writeBytes_wf {s : State} (a : Nat) (bs : List Byte) (h : Memory.wf s.mem = true) :
    Memory.wf (writeBytes s a bs).mem = true := setCells_wf _ h

theorem writeNat_wf {s : State} (a n v : Nat) (h : Memory.wf s.mem = true) : Memory.wf (writeNat s a n v).mem = true :=
  writeBytes_wf a _ h

theorem write64_wf {s : State} (a : Nat) (v : Dword) (h : Memory.wf s.mem = true) : Memory.wf (write64 s a v).mem = true :=
  writeNat_wf a 8 _ h

/-! ## Reading after writing -/

/-- What drops cells no higher than an address changes no byte above it. -/
theorem cellAt_dropWhile (a b : Nat) (m : List Host.Cell) (lt : a < b) :
    cellAt (m.dropWhile fun c => decide (c.1 ≤ a)) b = cellAt m b := by
  induction m with
  | nil => rfl
  | cons c t ih =>
    by_cases h : c.1 ≤ a
    · rw [List.dropWhile_cons_of_pos (by simpa using h), ih]
      simp only [cellAt]
      rw [if_neg (by omega), if_neg (by omega)]
    · rw [List.dropWhile_cons_of_neg (by simpa using h)]

/-- Below its first cell a list reads as unlisted, and so at and below an address up to which its cells are dropped. -/
theorem cellAt_dropped (a b : Nat) (m : List Host.Cell) (le : b ≤ a) :
    cellAt (m.dropWhile fun c => decide (c.1 ≤ a)) b = memDefault := by
  induction m with
  | nil => rfl
  | cons c t ih =>
    by_cases h : c.1 ≤ a
    · rw [List.dropWhile_cons_of_pos (by simpa using h), ih]
    · rw [List.dropWhile_cons_of_neg (by simpa using h)]
      simp only [cellAt]
      rw [if_pos (by omega)]

/-- Reading after a write of one byte. -/
theorem cellAt_setCell (m : List Host.Cell) (a b : Nat) (v : Byte) :
    cellAt (setCell m a v) b = if b = a then v else cellAt m b := by
  induction m with
  | nil =>
    by_cases hv : v = memDefault <;> by_cases hb : b = a <;> simp_all [setCell, cellAt]
  | cons c t ih =>
    obtain ⟨k, w⟩ := c
    simp only [setCell]
    split
    · rename_i lt
      by_cases hv : v = memDefault
      · simp only [hv, if_true, cellAt]
        by_cases hb : b = a
        · subst hb; simp [lt]
        · simp [hb]
      · simp only [hv, if_false, cellAt]
        by_cases hb : b = a
        · subst hb; simp
        · by_cases hlt : b < a
          · simp [hb, hlt, show b < k by omega]
          · simp [hb, hlt]
    · split
      · rename_i nlt eq
        subst eq
        by_cases hv : v = memDefault
        · simp only [hv, if_true, cellAt]
          rcases Nat.lt_trichotomy b a with hlt | hb | hgt
          · simp [hlt, show b ≠ a by omega, cellAt_dropped a b t (by omega)]
          · subst hb; simp [cellAt_dropped b b t (Nat.le_refl b)]
          · simp [show ¬ b < a by omega, show b ≠ a by omega, cellAt_dropWhile a b t hgt]
        · simp only [hv, if_false, cellAt]
          by_cases hb : b = a
          · subst hb; simp
          · simp [hb]
      · simp only [cellAt]
        by_cases hb : b < k
        · simp [hb, show b ≠ a by omega]
        · by_cases hbk : b = k
          · simp [hbk, show k ≠ a by omega]
          · simp [hb, hbk, ih]

/-- A byte that no listed write names reads as before. -/
theorem cellAt_setCells_other {m : List Host.Cell} (cs : List (Nat × Byte)) (b : Nat)
    (out : ∀ c ∈ cs, c.1 ≠ b) : cellAt (setCells m cs) b = cellAt m b := by
  induction cs generalizing m with
  | nil => rfl
  | cons c t ih =>
    have hc := out c (by simp)
    rw [setCells, ih (fun d hd => out d (by simp [hd])), cellAt_setCell, if_neg (Ne.symm hc)]

/-- A write of bytes leaves every byte outside its range as it was. -/
theorem cellAt_writeBytes_other {s : State} (a : Nat) (bs : List Byte) (b : Nat)
    (out : b < a ∨ a + bs.length ≤ b) : cellAt (writeBytes s a bs).mem b = cellAt s.mem b := by
  refine cellAt_setCells_other _ b ?_
  intro c hc
  obtain ⟨⟨i, v⟩, hi, he⟩ := List.mem_filterMap.mp hc
  have hi' : i < bs.length := by simpa using (List.of_mem_zip hi).1
  dsimp only at he
  split at he
  · cases he
  · cases he
    dsimp only
    omega

/-- Canonical memories that read alike are equal. -/
theorem cellsFrom_ext {lo : Nat} {m n : List Host.Cell} (hm : cellsFrom lo m = true) (hn : cellsFrom lo n = true)
    (eq : ∀ a, lo ≤ a → cellAt m a = cellAt n a) : m = n := by
  induction m generalizing lo n with
  | nil =>
    cases n with
    | nil => rfl
    | cons c t =>
      obtain ⟨k, v⟩ := c
      simp only [cellsFrom, Bool.and_eq_true, decide_eq_true_eq, bne_iff_ne, ne_eq] at hn
      have := eq k hn.1.1
      simp only [cellAt, Nat.lt_irrefl, if_false, if_true] at this
      exact absurd this.symm hn.1.2
  | cons c t ih =>
    obtain ⟨k, v⟩ := c
    simp only [cellsFrom, Bool.and_eq_true, decide_eq_true_eq, bne_iff_ne, ne_eq] at hm
    cases n with
    | nil =>
      have := eq k hm.1.1
      simp only [cellAt, Nat.lt_irrefl, if_false, if_true] at this
      exact absurd this hm.1.2
    | cons d u =>
      obtain ⟨j, w⟩ := d
      simp only [cellsFrom, Bool.and_eq_true, decide_eq_true_eq, bne_iff_ne, ne_eq] at hn
      have hkj : k = j := by
        rcases Nat.lt_trichotomy k j with h | h | h
        · have := eq k hm.1.1
          simp only [cellAt, Nat.lt_irrefl, if_false, if_true, h] at this
          exact absurd this hm.1.2
        · exact h
        · have := eq j hn.1.1
          simp only [cellAt, Nat.lt_irrefl, if_false, if_true, h] at this
          exact absurd this.symm hn.1.2
      subst hkj
      have hv := eq k hm.1.1
      simp only [cellAt, Nat.lt_irrefl, if_false, if_true] at hv
      subst hv
      congr 1
      refine ih hm.2 hn.2 ?_
      intro a ha
      have := eq a (by omega)
      simpa only [cellAt, show ¬ a < k by omega, show ¬ a = k by omega, if_false] using this

theorem memory_ext {m n : List Host.Cell} (hm : Memory.wf m = true) (hn : Memory.wf n = true)
    (eq : ∀ a, cellAt m a = cellAt n a) : m = n := cellsFrom_ext hm hn fun a _ => eq a

/-- The bytes of a string listed by address. -/
def listed (a : Nat) : List Byte → List (Nat × Byte)
  | [] => []
  | b :: bs => (a, b) :: listed (a + 1) bs

theorem zip_listed (a i : Nat) (bs : List Byte) :
    ((List.range' i bs.length).zip bs).map (fun x => (a + x.1, x.2)) = listed (a + i) bs := by
  induction bs generalizing i with
  | nil => rfl
  | cons b t ih => simp [List.range'_succ, listed, ih, Nat.add_assoc]

/-- Outside retired frames a write of bytes writes each at its address. -/
theorem writeBytes_mem {s : State} (a : Nat) (bs : List Byte)
    (ok : ∀ i, i < bs.length → inRetired s (a + i) = false) :
    (writeBytes s a bs).mem = setCells s.mem (listed a bs) := by
  have h : (((List.range bs.length).zip bs).filterMap fun (i, b) =>
      if inRetired s (a + i) then none else some (a + i, b)) = listed a bs := by
    rw [← Nat.add_zero a, ← zip_listed a 0 bs, List.range_eq_range', ← List.filterMap_eq_map]
    apply List.filterMap_congr
    intro x hx
    have : x.1 < bs.length := by simpa using (List.of_mem_zip hx).1
    simp [ok x.1 this]
  simp only [writeBytes, h]

theorem bytesAt_setCells_listed {m : List Host.Cell} (a : Nat) (bs : List Byte) :
    bytesAt (setCells m (listed a bs)) a bs.length = bs := by
  have key (bs : List Byte) : ∀ (m : List Host.Cell) (a : Nat),
      ∀ i (hi : i < bs.length), cellAt (setCells m (listed a bs)) (a + i) = bs[i] := by
    induction bs with
    | nil => intro m a i hi; exact absurd hi (by simp)
    | cons b t ih =>
      intro m a i hi
      cases i with
      | zero =>
        have below : ∀ (t : List Byte) (a' : Nat), a < a' → ∀ c ∈ listed a' t, c.1 ≠ a := by
          intro t
          induction t with
          | nil => intro a' _ c hc; simp [listed] at hc
          | cons x u ihu =>
            intro a' hlt c hc
            simp only [listed, List.mem_cons] at hc
            rcases hc with rfl | hc
            · exact Nat.ne_of_gt hlt
            · exact ihu (a' + 1) (by omega) c hc
        simp only [listed, setCells, Nat.add_zero, List.getElem_cons_zero]
        rw [cellAt_setCells_other _ a (below t (a + 1) (by omega)), cellAt_setCell, if_pos rfl]
      | succ i =>
        have := ih (setCell m a b) (a + 1) i (by simpa using hi)
        simpa [listed, setCells, Nat.add_assoc, Nat.add_comm 1 i] using this
  have conv : ∀ (m : List Host.Cell) (n a : Nat) (bs : List Byte), bs.length = n →
      (∀ i (hi : i < bs.length), cellAt m (a + i) = bs[i]) → bytesAt m a n = bs := by
    intro m n
    induction n with
    | zero => intro a bs hl _; simp [bytesAt, List.length_eq_zero_iff.mp hl]
    | succ n ih =>
      intro a bs hl hc
      cases bs with
      | nil => simp at hl
      | cons b t =>
        simp only [bytesAt]
        rw [show cellAt m a = b from hc 0 (by simp), ih (a + 1) t (by simpa using hl)]
        intro i hi
        have := hc (i + 1) (by simpa using hi)
        simpa [Nat.add_assoc, Nat.add_comm 1 i] using this
  exact conv _ _ a bs rfl (key bs m a)

/-- What a write of bytes wrote is read back. -/
theorem bytesAt_writeBytes {s : State} (a : Nat) (bs : List Byte)
    (ok : ∀ i, i < bs.length → inRetired s (a + i) = false) :
    bytesAt (writeBytes s a bs).mem a bs.length = bs := by
  rw [writeBytes_mem a bs ok, bytesAt_setCells_listed]

/-! ## Numbers as bytes (R12) -/

theorem bytesOfNat_length (n v : Nat) : (bytesOfNat n v).length = n := by
  induction n generalizing v with
  | zero => rfl
  | succ n ih => simp [bytesOfNat, ih]

theorem natOfBytes_bytesOfNat (n v : Nat) : natOfBytes (bytesOfNat n v) = v % 256 ^ n := by
  induction n generalizing v with
  | zero => simp [bytesOfNat, natOfBytes, Nat.mod_one]
  | succ n ih =>
    have h := Nat.mod_mul (x := v) (a := 256) (b := 256 ^ n)
    rw [pow_succ, Nat.mul_comm, h]
    simp [bytesOfNat, natOfBytes, ih]

theorem bytesAt_length (m : List Host.Cell) (a n : Nat) : (bytesAt m a n).length = n := by
  induction n generalizing a with
  | zero => rfl
  | succ n ih => simp [bytesAt, ih]

/-- What a write of a number wrote is read back. -/
theorem readNat_writeNat {s : State} (a n v : Nat)
    (ok : ∀ i, i < n → inRetired s (a + i) = false) : readNat (writeNat s a n v) a n = v % 256 ^ n := by
  have hb := bytesAt_writeBytes a (bytesOfNat n v) (by simpa [bytesOfNat_length] using ok)
  rw [bytesOfNat_length] at hb
  simp only [readNat, writeNat, hb, natOfBytes_bytesOfNat]

end Sys2Proof.Laws
end

