-- ==== Sys2Proof/Tests/Slice0.lean ====
section
/-! SUPPORT. Tests/Slice0.lean: small states that meet the hypotheses of each statement, clause by clause; a word of every row of
the opcode table that decodes to its instruction; and ill-formed instructions that are refused. -/

namespace Sys2Proof.Tests

open Sys2Proof Sys2Proof.Machine
set_option Elab.async false

/-! ## Small states -/

/-- The bench's one split on core 0 about to carry out the instruction at 0x2_0000. -/
def one : State :=
  { bench State.reset with turn := [], cur := some ⟨⟨0, 0, 0⟩, 0x20000#64, 0x20004#64⟩ }

/-- The group of core 0's slot 0 changed. -/
def onGroup (f : Group → Group) (s : State) : State :=
  { s with groups := s.groups.map fun g => if g.isAt 0 0 then f g else g }

/-- Vector registers given a tag and one word in every lane. -/
def regs (rs : List (Nat × Tag × Word)) (s : State) : State :=
  onGroup (fun g => { g with v := rs.foldl (fun v r => vset v r.1 ⟨r.2.1, lanesOf fun _ => r.2.2⟩) g.v }) s

/-- Scalar registers given values. -/
def scalars (rs : List (Nat × Dword)) (s : State) : State :=
  onGroup (fun g => { g with s := rs.foldl (fun v r => vset v r.1 r.2) g.s }) s

/-- Predicates given values. -/
def preds (rs : List (Nat × Mask)) (s : State) : State :=
  onGroup (fun g => { g with q := rs.foldl (fun v r => vset v r.1 r.2) g.q }) s

/-- The first split's record changed. -/
def onSplit (f : Split → Split) (s : State) : State :=
  onGroup (fun g => { g with splits := vset g.splits 0 (f (splitAt g 0)) }) s

/-- What the issuing instruction works on, with nothing in it where no split issues. -/
def ctxOf (s : State) : Ctx :=
  let u := s.cur.getD ⟨⟨0, 0, 0⟩, 0, 0⟩
  let g := (groupAt s u.who.core u.who.gslot).getD (freshGroup s benchGrid 0 0 0 0)
  ⟨u, g, splitAt g u.who.entry, partOf s g⟩

/-- A live split issues in s, of a group that is not committing a region. -/
def ready (s : State) : Bool :=
  s.cur.isSome && (groupAt s (ctxOf s).cur.who.core (ctxOf s).cur.who.gslot).isSome && (ctxOf s).p.live &&
    !(ctxOf s).g.closing

theorem issuing_of_ready {s : State} (h : ready s = true) : Issuing s (ctxOf s) := by
  simp only [ready, Bool.and_eq_true, Option.isSome_iff_exists, Bool.not_eq_true'] at h
  obtain ⟨⟨⟨⟨u, hu⟩, g, hg⟩, hl⟩, hr⟩ := h
  have hu' : (ctxOf s).cur = u := by simp [ctxOf, hu]
  have hg' : (ctxOf s).g = g := by
    rw [hu'] at hg
    simp [ctxOf, hu, hg]
  exact ⟨⟨by rw [hu', hu], by rw [hg', hg], rfl, hl, rfl⟩, hr⟩

/-- An instruction's prefix, its fields and the operands they name. -/
def pfxOf (i : Instr) : Pfx := ((coreView i).map fun x => x.1).getD .none
def wordOf (i : Instr) : WordF := ((coreView i).map fun x => x.2.1).getD ⟨false, 0, 0, 0, 0, 0⟩
def opsOf (i : Instr) (s : State) : Opnds :=
  match coreView i with
  | some (p, f, u) => match operands s (ctxOf s) p f u with
    | .ok o => o
    | .error _ => ⟨.none, .none, .none, .none⟩
  | none => ⟨.none, .none, .none, .none⟩

/-- The instruction's fields are legal where the split stands. -/
def named (i : Instr) (s : State) : Bool :=
  match coreView i with
  | some (p, f, u) => match operands s (ctxOf s) p f u with
    | .ok _ => true
    | .error _ => false
  | none => false

theorem names_of_named {i : Instr} {s : State} (h : named i s = true) :
    Names i s (ctxOf s) (pfxOf i) (wordOf i) (opsOf i s) := by
  unfold named at h
  split at h
  · next p f u hv =>
    split at h
    · next o ho => exact ⟨u, by simp [pfxOf, wordOf, hv], by simp [pfxOf, wordOf, opsOf, hv, ho]⟩
    · cases h
  · cases h

/-- The registers of the operands can be used. -/
def usable (c : Ctx) (o : Opnds) (t : Tag) (wideB : Bool) : Bool :=
  pairsEven c o t && operandsHeld c o t wideB && pairsWhole c o wideB

theorem usable_lane {c : Ctx} {o : Opnds} {t : Tag} {w : Bool} (h : usable c o t w = true) : LaneUsable c o t w := by
  simp only [usable, Bool.and_eq_true] at h
  exact ⟨h.1.1, h.1.2, h.2⟩

/-! ## Lane instructions -/

/-- Some state and operands meet every hypothesis of a lane claim. -/
def LaneMet (r : LaneClaim) : Prop :=
  ∃ s c p f o, Issuing s c ∧ Names r.form s c p f o ∧
    LaneUsable c o (r.result (tagA c o) (readTag c o.c)) r.wideB ∧ passesA c o r.src = true ∧
    r.accepts (tagA c o) (srcTag c o.b) (srcTag c o.c) = true

/-- The state s meets them. -/
def laneMet (s : State) (r : LaneClaim) : Bool :=
  let c := ctxOf s
  let o := opsOf r.form s
  ready s && named r.form s && usable c o (r.result (tagA c o) (readTag c o.c)) r.wideB && passesA c o r.src &&
    r.accepts (tagA c o) (srcTag c o.b) (srcTag c o.c)

theorem laneMet_met {s : State} {r : LaneClaim} (h : laneMet s r = true) : LaneMet r := by
  simp only [laneMet, Bool.and_eq_true] at h
  obtain ⟨⟨⟨⟨h1, h2⟩, h3⟩, h5⟩, h4⟩ := h
  exact ⟨s, _, _, _, _, issuing_of_ready h1, names_of_named h2, usable_lane h3, h5, h4⟩

/-- Each of the first n claims of a table is met by some fields. -/
def RowsMet {W : Type} (L : W → List LaneClaim) (n : Nat) : Prop :=
  ∀ k < n, ∃ w r, (L w)[k]? = some r ∧ LaneMet r

/-- Fields and a state that meet each claim, by trial of those given. -/
def rowsMet {W : Type} (L : W → List LaneClaim) (n : Nat) (ws : List (W × State)) : Bool :=
  (List.range n).all fun k => ws.any fun w => match (L w.1)[k]? with
    | some r => laneMet w.2 r
    | none => false

theorem rows_met {W : Type} {L : W → List LaneClaim} {n : Nat} {ws : List (W × State)} (h : rowsMet L n ws = true) :
    RowsMet L n := by
  intro k hk
  have h1 := List.all_eq_true.mp h k (List.mem_range.mpr hk)
  obtain ⟨w, -, hw⟩ := List.any_eq_true.mp h1
  split at hw
  · next r hr => exact ⟨w.1, r, hr, laneMet_met hw⟩
  · cases hw

/-- Fields of three sources: d = v1, a = v2, b = v3, c = v4 under the payload x. -/
def three (x : BitVec 6) : LaneW := ⟨.op { OperandPfx.null with x := x, c := 4#7 }, false, 0, 1, 2, 3⟩
/-- Fields of two sources. -/
def two : LaneW := ⟨.none, false, 0, 1, 2, 3⟩
def oneSrc : LaneU := ⟨.none, false, 0, 1, 2⟩
def half : HalfW := ⟨2, 1⟩

/-- v1 to v4 carry a tag and a word. -/
def tagged (t : Tag) (x : Word) : State := regs [(1, t, x), (2, t, x), (3, t, x), (4, t, x)] one

end Sys2Proof.Tests

namespace Sys2Proof.Tests
open Sys2Proof Sys2Proof.Machine
set_option Elab.async false

theorem witness_IntegerArithmeticPerElement : RowsMet intClaims 10 ∧ RowsMet intHalfClaims 3 :=
  ⟨rows_met (ws := [(two, tagged 1 5), (three 0, tagged 1 5)]) (by decide +kernel),
    rows_met (ws := [(half, tagged 1 5)]) (by decide +kernel)⟩

theorem witness_LogicAndShiftsPerElement : RowsMet logicClaims 8 ∧ RowsMet logicHalfClaims 6 :=
  ⟨rows_met (ws := [(two, tagged 1 5)]) (by decide +kernel), rows_met (ws := [(half, tagged 1 5)]) (by decide +kernel)⟩

theorem witness_FieldsAndDistances : RowsMet fieldClaims 3 :=
  rows_met (ws := [(two, tagged 1 5), (three 0, tagged 1 5)]) (by decide +kernel)

theorem witness_SingleSourceOperations :
    RowsMet iunClaims 7 ∧ LaneMet (moveClaim (.movC16 half) (.iunMov (halfU half))) :=
  ⟨rows_met (ws := [(oneSrc, tagged 1 5)]) (by decide +kernel), laneMet_met (s := tagged 2 5) (by decide +kernel)⟩

theorem witness_SelectionAndImmediates :
    (∃ (w : LaneW) (s : State) (c : Ctx) (p : Pfx) (f : WordF) (o : Opnds), Issuing s c ∧ Names (.sel w) s c p f o ∧
      LaneUsable c o (tagA c o) true ∧ tagOk (tagA c o) = true ∧ sameTag (tagA c o) (srcTag c o.b) = true) ∧
    (∃ (w : LaneW) (s : State) (c : Ctx) (p : Pfx) (f : WordF) (o : Opnds), Issuing s c ∧ Names (.movi w) s c p f o ∧
      oddPair (isF64 p.operand.x) o.d = false ∧ heldSpan c.g o.d (if isF64 p.operand.x then 2 else 1) = true) :=
  ⟨⟨⟨.op { OperandPfx.null with x := 1 }, false, 0, 1, 2, 3⟩, tagged 2 5, _, _, _, _, issuing_of_ready (by decide +kernel),
      names_of_named (by decide +kernel), usable_lane (by decide +kernel), by decide +kernel, by decide +kernel⟩,
    ⟨⟨.op { OperandPfx.null with x := 3 }, false, 0, 2, 5, 1⟩, one, _, _, _, _, issuing_of_ready (by decide +kernel),
      names_of_named (by decide +kernel), by decide +kernel, by decide +kernel⟩⟩

theorem witness_ComparisonsWritePredicates :
    (∃ (w : LaneW) (s : State) (c : Ctx) (p : Pfx) (f : WordF) (o : Opnds), Issuing s c ∧ Names (.cmp w) s c p f o ∧
      LaneUsable c o 0 true ∧ isInt (tagA c o) = true ∧ sameTag (tagA c o) (srcTag c o.b) = true) ∧
    (∃ (w : LaneW) (s : State) (c : Ctx) (p : Pfx) (f : WordF) (o : Opnds), Issuing s c ∧ Names (.fcmp w) s c p f o ∧
      LaneUsable c o 0 true ∧ passesA c o isFlt = true ∧ sameTag (tagA c o) (srcTag c o.b) = true) ∧
    (∃ (w : ScalarW) (s : State) (c : Ctx) (p : Pfx) (f : WordF) (o : Opnds), Issuing s c ∧ Names (.scmp w) s c p f o) :=
  ⟨⟨{ two with d := 17 }, tagged 1 5, _, _, _, _, issuing_of_ready (by decide +kernel), names_of_named (by decide +kernel),
      usable_lane (by decide +kernel), by decide +kernel, by decide +kernel⟩,
    ⟨{ two with d := 17 }, tagged 2 5, _, _, _, _, issuing_of_ready (by decide +kernel), names_of_named (by decide +kernel),
      usable_lane (by decide +kernel), by decide +kernel, by decide +kernel⟩,
    ⟨⟨.none, false, 17, 2, 3⟩, one, _, _, _, _, issuing_of_ready (by decide +kernel), names_of_named (by decide +kernel)⟩⟩

theorem witness_FloatArithmeticRoundsOnce :
    RowsMet fltClaims 6 ∧ RowsMet fltOneClaims 4 ∧ RowsMet fltHalfClaims 6 :=
  ⟨rows_met (ws := [(two, tagged 2 5), (three 0, tagged 2 5), (two, regs [(3, 1, 5)] (tagged 2 5))]) (by decide +kernel),
    rows_met (ws := [(oneSrc, tagged 2 5)]) (by decide +kernel), rows_met (ws := [(half, tagged 2 5)]) (by decide +kernel)⟩

theorem witness_FloatPicksAndSigns : RowsMet fltPickClaims 5 ∧ RowsMet fltSignClaims 3 :=
  ⟨rows_met (ws := [(two, tagged 2 5)]) (by decide +kernel), rows_met (ws := [(oneSrc, tagged 2 5)]) (by decide +kernel)⟩

theorem witness_NaNOperandsGiveTheCanonicalNaN :
    ∃ t x, isFlt t = true ∧ (fltOf t).isNaN x = true ∧ (fltOf t).isSNaN x = true :=
  ⟨2, 0x7F80_0001, by decide +kernel⟩

theorem witness_ConversionsPerElement : RowsMet convertClaims 4 :=
  rows_met (ws := [({ two with b := 1 }, tagged 2 5), ({ two with b := 2 }, tagged 2 5), ({ two with b := 2 }, tagged 1 5), ({ two with b := 1 }, tagged 4 5)])
    (by decide +kernel)

theorem witness_SpecialFunctionsPerElement :
    ∃ s c, Issuing s c ∧ ∃ w, ∀ r ∈ specialClaims c.g w, ∃ p f o, Names r.form s c p f o ∧
      LaneUsable c o (r.result (tagA c o) (readTag c o.c)) r.wideB ∧ passesA c o r.src = true ∧
      r.accepts (tagA c o) (srcTag c o.b) (srcTag c o.c) = true := by
  refine ⟨tagged 2 5, ctxOf (tagged 2 5), issuing_of_ready (by decide +kernel), oneSrc, fun r hr => ?_⟩
  have h : (specialClaims (ctxOf (tagged 2 5)).g oneSrc).all (laneMet (tagged 2 5)) = true := by decide +kernel
  have h1 := List.all_eq_true.mp h r hr
  simp only [laneMet, Bool.and_eq_true] at h1
  obtain ⟨⟨⟨⟨-, h2⟩, h3⟩, h5⟩, h4⟩ := h1
  exact ⟨_, _, _, names_of_named h2, usable_lane h3, h5, h4⟩

end Sys2Proof.Tests

namespace Sys2Proof.Tests
open Sys2Proof Sys2Proof.Machine
set_option Elab.async false

theorem witness_PackingAndRetagging :
    (∃ (w : LaneW) (s : State) (c : Ctx) (p : Pfx) (f : WordF) (o : Opnds),
      let T := p.operand.x
      let t := tagA c o
      let h := count T / 2
      let n := streamRegs t h
      Issuing s c ∧ Names (.pk w) s c p f o ∧
      ((isRegSrc o.a = true ∧ isRegSrc o.b = true) ∨ n ≤ (if isF64 t then 2 else 1)) ∧
      oddPair (isF64 t) o.a = false ∧ oddPair (isF64 t || carriesF64 c o.b) o.b = false ∧ heldSpan c.g o.d 1 = true ∧
      heldSpan c.g o.a n = true ∧ heldSpan c.g o.b n = true ∧ brokenStream c t o.a h = false ∧
      brokenStream c t o.b h = false ∧ tagOk t = true ∧ streamTags c t o.a n = true ∧ streamTags c t o.b n = true ∧ isF64 T = false) ∧
    (∃ (w : LaneW) (s : State) (c : Ctx) (p : Pfx) (f : WordF) (o : Opnds), Issuing s c ∧ Names (.retag w) s c p f o ∧
      isF64 (w.b.setWidth 6 : Tag) = false ∧ carriesF64 c o.a = false ∧ heldSpan c.g o.d 1 = true ∧
      heldSpan c.g o.a 1 = true) ∧
    (∃ (w : LaneW) (s : State) (c : Ctx) (p : Pfx) (f : WordF) (o : Opnds), Issuing s c ∧ Names (.retag w) s c p f o ∧
      (isF64 (w.b.setWidth 6 : Tag) || carriesF64 c o.a) = true ∧ oddPair true o.a = false ∧ oddPair true o.d = false ∧
      heldSpan c.g o.d 2 = true ∧ heldSpan c.g o.a 2 = true) :=
  ⟨⟨⟨.op { OperandPfx.null with x := 8 }, false, 0, 1, 2, 4⟩, regs [(5, 2, 5)] (tagged 2 5), _, _, _, _,
      issuing_of_ready (by decide +kernel), names_of_named (by decide +kernel), by decide +kernel⟩,
    ⟨{ two with b := 1 }, tagged 2 5, _, _, _, _, issuing_of_ready (by decide +kernel), names_of_named (by decide +kernel),
      by decide +kernel⟩,
    ⟨⟨.none, false, 0, 4, 2, 3⟩, tagged 0 5, _, _, _, _, issuing_of_ready (by decide +kernel),
      names_of_named (by decide +kernel), by decide +kernel⟩⟩

/-- Some state and operands meet every hypothesis of a claim about lanes that read one another. -/
def CrossMet (r : CrossClaim) : Prop :=
  ∃ s c p f o, Issuing s c ∧ Names r.run s c p f o ∧ LaneUsable c o (r.result (tagA c o)) false ∧
    passesA c o r.src = true ∧ r.accepts (tagA c o) (srcTag c o.b) = true

theorem cross_met {s : State} {r : CrossClaim}
    (h : (ready s && named r.run s && usable (ctxOf s) (opsOf r.run s) (r.result (tagA (ctxOf s) (opsOf r.run s))) false &&
      passesA (ctxOf s) (opsOf r.run s) r.src &&
      r.accepts (tagA (ctxOf s) (opsOf r.run s)) (srcTag (ctxOf s) (opsOf r.run s).b)) = true) : CrossMet r := by
  simp only [Bool.and_eq_true] at h
  obtain ⟨⟨⟨⟨h1, h2⟩, h3⟩, h5⟩, h4⟩ := h
  exact ⟨s, _, _, _, _, issuing_of_ready h1, names_of_named h2, usable_lane h3, h5, h4⟩

theorem cross_all {s : State} {L : List CrossClaim}
    (h : (L.all fun r => ready s && named r.run s &&
      usable (ctxOf s) (opsOf r.run s) (r.result (tagA (ctxOf s) (opsOf r.run s))) false &&
      passesA (ctxOf s) (opsOf r.run s) r.src &&
      r.accepts (tagA (ctxOf s) (opsOf r.run s)) (srcTag (ctxOf s) (opsOf r.run s).b)) = true) : ∀ r ∈ L, CrossMet r :=
  fun r hr => cross_met (List.all_eq_true.mp h r hr)

theorem witness_LanesReadOneAnother :
    (∀ r ∈ crossClaims { two with b := 3 }, CrossMet r) ∧ (∀ r ∈ crossOneClaims oneSrc, CrossMet r) :=
  ⟨cross_all (s := tagged 1 5) (by decide +kernel), cross_all (s := tagged 1 5) (by decide +kernel)⟩

theorem witness_VotesOverActiveLanes :
    ∃ (w : LaneU) (s : State) (c : Ctx), Issuing s c ∧
      ∀ i ∈ [Instr.voteAny w, .voteAll w, .voteBallot w], ∃ p f o, Names i s c p f o ∧ heldSpan c.g o.d 1 = true := by
  refine ⟨oneSrc, preds [(2, 6)] one, ctxOf (preds [(2, 6)] one), issuing_of_ready (by decide +kernel), fun i hi => ?_⟩
  have h : ([Instr.voteAny oneSrc, .voteAll oneSrc, .voteBallot oneSrc].all fun i => named i (preds [(2, 6)] one) &&
    heldSpan (ctxOf (preds [(2, 6)] one)).g (opsOf i (preds [(2, 6)] one)).d 1) = true := by decide +kernel
  have h1 := Bool.and_eq_true_iff.mp (List.all_eq_true.mp h i hi)
  exact ⟨_, _, _, names_of_named h1.1, h1.2⟩

/-- Some state and operands meet every hypothesis of a row claim. -/
def RowMet (r : RowClaim) : Prop :=
  ∃ s c p f o k, Issuing s c ∧ Names r.run s c p f o ∧
    RowUsable c o k r.row (r.dst (tagOf c.g k)) (r.evenD (tagOf c.g k)) ∧ r.accepts (tagOf c.g k) = true

theorem row_met {s : State} {r : RowClaim} {k : Nat} (h : ready s = true ∧ named r.run s = true ∧
      (opsOf r.run s).a = .reg k ∧ oddPair (isF64 (tagOf (ctxOf s).g k)) (opsOf r.run s).a = false ∧
      oddPair (r.evenD (tagOf (ctxOf s).g k)) (opsOf r.run s).d = false ∧
      heldSpan (ctxOf s).g (opsOf r.run s).a ((if isF64 (tagOf (ctxOf s).g k) then 2 else 1) * r.row) = true ∧
      heldSpan (ctxOf s).g (opsOf r.run s).d (r.dst (tagOf (ctxOf s).g k)) = true ∧
      (∀ j < (if isF64 (tagOf (ctxOf s).g k) then 2 else 1) * r.row, tagOf (ctxOf s).g (k + j) = tagOf (ctxOf s).g k) ∧
      r.accepts (tagOf (ctxOf s).g k) = true) : RowMet r :=
  let ⟨h1, h2, h3, h4, h5, h6, h7, h8, h9⟩ := h
  ⟨s, _, _, _, _, k, issuing_of_ready h1, names_of_named h2, ⟨h3, h4, h5, h6, h7, h8⟩, h9⟩

/-- A row of two registers from v2 into v8. -/
def row2 : LaneW := { two with b := 2, d := 8 }

theorem witness_RowOperations : ∀ k < 5, ∃ r, (rowClaims row2)[k]? = some r ∧ RowMet r
  | 0, _ => ⟨_, rfl, row_met (s := tagged 2 5) (k := 2) (by decide +kernel)⟩
  | 1, _ => ⟨_, rfl, row_met (s := tagged 2 5) (k := 2) (by decide +kernel)⟩
  | 2, _ => ⟨_, rfl, row_met (s := tagged 2 5) (k := 2) (by decide +kernel)⟩
  | 3, _ => ⟨_, rfl, row_met (s := tagged 2 5) (k := 2) (by decide +kernel)⟩
  | 4, _ => ⟨_, rfl, row_met (s := tagged 2 5) (k := 2) (by decide +kernel)⟩

end Sys2Proof.Tests

namespace Sys2Proof.Tests
open Sys2Proof Sys2Proof.Machine
set_option Elab.async false

/-- Scalar registers s1 to s3 and w6 in use. -/
def sc : State := scalars [(1, 3), (2, 0x20040), (3, 7)] one

theorem witness_ScalarOperations :
    (∃ w s c, Issuing s c ∧ ∀ r ∈ scalarClaims w, ∃ p f o, Names r.run s c p f o) ∧
    (∃ w s c, 64 ≤ w.d.toNat ∧ Issuing s c ∧ ∀ r ∈ scalarClaims w, ∃ p f o, Names r.run s c p f o) ∧
    (∃ w s c p f o, Issuing s c ∧ Names (.smov w) s c p f o) := by
  have h : ∀ w : ScalarW, ((scalarClaims w).all fun r => named r.run sc) = true →
      ∀ r ∈ scalarClaims w, ∃ p f o, Names r.run sc (ctxOf sc) p f o :=
    fun w hw r hr => ⟨_, _, _, names_of_named (List.all_eq_true.mp hw r hr)⟩
  exact ⟨⟨⟨.none, false, 1, 2, 3⟩, sc, _, issuing_of_ready (by decide +kernel), h _ (by decide +kernel)⟩,
    ⟨⟨.none, false, 79, 2, 3⟩, sc, _, by decide +kernel, issuing_of_ready (by decide +kernel), h _ (by decide +kernel)⟩,
    ⟨⟨.none, false, 1, 95⟩, sc, _, _, _, _, issuing_of_ready (by decide +kernel), names_of_named (by decide +kernel)⟩⟩

theorem witness_TeamScalarArrives : ∃ (s s' : State) (t : Team) (n m : Nat), n < 16 ∧ m < 16 ∧
    s.clk.toNat + 2 ≤ s'.clk.toNat ∧ (∀ x ∈ t.wq, x.cycle < s.clk.toNat) :=
  ⟨{ one with clk := 5 }, { one with clk := 7 }, { freshTeam one benchGrid 0 0 0 0 [] with wq := [⟨3, 9, 4, 0⟩] }, 15, 15,
    by decide +kernel⟩

theorem witness_UniformTransfers :
    (∃ pfx guard off s c p f o, Issuing s c ∧ Names (.bru pfx guard off) s c p f o ∧
      activeMask c pfx.operand guard = c.mask ∧ InstrAddress (branchTarget c off)) ∧
    (∃ pfx guard off s c p f o, Issuing s c ∧ Names (.bru pfx guard off) s c p f o ∧
      activeMask c pfx.operand guard = 0 ∧ c.mask ≠ 0) ∧
    (∃ pfx guard off s c p f o, Issuing s c ∧ Names (.call pfx guard off) s c p f o ∧ commitReady s c.g = true ∧
      activeMask c pfx.operand guard = c.mask ∧ InstrAddress (branchTarget c off) ∧ c.p.arch.link.length < 4) ∧
    (∃ pfx guard off s c p f o, Issuing s c ∧ Names (.call pfx guard off) s c p f o ∧ commitReady s c.g = true ∧
      activeMask c pfx.operand guard = 0 ∧ c.mask ≠ 0) ∧
    (∃ a s c p f o, Issuing s c ∧ Names (.jmp a) s c p f o ∧ commitReady s c.g = true ∧ InstrAddress (srcS s c a)) ∧
    (∃ s c p f o below r, Issuing s c ∧ Names .ret s c p f o ∧ commitReady s c.g = true ∧ c.p.arch.state = .ready ∧
      c.p.arch.link = below ++ [r] ∧ isCallReturn r = true) := by
  unfold InstrAddress
  exact ⟨⟨.none, 0, 0x1FFFFF, one, _, _, _, _, issuing_of_ready (by decide +kernel), names_of_named (by decide +kernel),
      by decide +kernel⟩,
    ⟨.none, 1, 4, one, _, _, _, _, issuing_of_ready (by decide +kernel), names_of_named (by decide +kernel), by decide +kernel⟩,
    ⟨.none, 0, 4, one, _, _, _, _, issuing_of_ready (by decide +kernel), names_of_named (by decide +kernel), by decide +kernel⟩,
    ⟨.none, 1, 4, one, _, _, _, _, issuing_of_ready (by decide +kernel), names_of_named (by decide +kernel), by decide +kernel⟩,
    ⟨2, sc, _, _, _, _, issuing_of_ready (by decide +kernel), names_of_named (by decide +kernel), by decide +kernel⟩,
    ⟨onSplit (fun p => { p with arch := { p.arch with link := [0x20080] } }) one, _, _, _, _, [], 0x20080,
      issuing_of_ready (by decide +kernel), names_of_named (by decide +kernel), by decide +kernel⟩⟩

/-- A prefix of an immediate, two halfwords on. -/
def immPfx : Pfx := .imm 16

/-- v2, v3 hold an instruction address in half the lanes and another in the other half. -/
def targets : State := onGroup (fun g => { g with v := vset g.v 2 (VReg.mk 0 (lanesOf fun l => if l < 16 then 0x20010 else 0x20020)) }) one

theorem witness_Divergence :
    (∃ pfx guard off s c p f o, Issuing s c ∧ Names (.brd pfx guard off) s c p f o ∧ commitReady s c.g = true ∧
      activeMask c pfx.operand guard = 0 ∧ c.mask ≠ 0) ∧
    (∃ pfx guard off s c p f o, Issuing s c ∧ Names (.brd pfx guard off) s c p f o ∧ commitReady s c.g = true ∧
      activeMask c pfx.operand guard = c.mask ∧ c.mask ≠ 0 ∧ InstrAddress (branchTarget c off)) ∧
    (∃ pfx guard off s c p f o v link k, Issuing s c ∧ Names (.brd pfx guard off) s c p f o ∧ commitReady s c.g = true ∧
      activeMask c pfx.operand guard ≠ 0 ∧ activeMask c pfx.operand guard ≠ c.mask ∧ c.p.arch.state = .ready ∧
      InstrAddress (branchTarget c off) ∧ pfx.immediate = some v ∧
      DivergeLink c.p.arch (rejoinAddress c v) link ∧ LowestFree c.g k) ∧
    (∃ pfx guard a n target s c p f o, Issuing s c ∧ Names (.jmpx pfx guard a) s c p f o ∧ commitReady s c.g = true ∧
      o.a = .reg n ∧ heldSpan c.g o.a 2 = true ∧ isInt32 (tagOf c.g n) = true ∧ isInt32 (tagOf c.g (n + 1)) = true ∧
      activeMask c pfx.operand guard = c.mask ∧ c.mask ≠ 0 ∧ InstrAddress target ∧
      ∀ l < 32, c.mask.getLsbD l = true → srcVal c true o.a l = target) ∧
    (∃ pfx guard a n T next v link k s c p f o, ∃ M N : Mask, Issuing s c ∧ Names (.jmpx pfx guard a) s c p f o ∧
      commitReady s c.g = true ∧ o.a = .reg n ∧ heldSpan c.g o.a 2 = true ∧ isInt32 (tagOf c.g n) = true ∧
      isInt32 (tagOf c.g (n + 1)) = true ∧ activeMask c pfx.operand guard = c.mask ∧ c.p.arch.state = .ready ∧
      InstrAddress T ∧ InstrAddress next ∧ T ≠ next ∧ pfx.immediate = some v ∧
      DivergeLink c.p.arch (rejoinAddress c v) link ∧ LowestFree c.g k ∧
      M ||| N = c.mask ∧ M &&& N = 0 ∧ N ≠ 0 ∧ M.getLsbD (lowestLane c.mask) = true ∧
      (∀ l < 32, M.getLsbD l = true → srcVal c true o.a l = T) ∧
      ∀ l < 32, N.getLsbD l = true → srcVal c true o.a l = next) := by
  unfold InstrAddress LowestFree
  exact ⟨⟨immPfx, 1, 4, one, _, _, _, _, issuing_of_ready (by decide +kernel), names_of_named (by decide +kernel),
      by decide +kernel⟩,
    ⟨immPfx, 0, 4, one, _, _, _, _, issuing_of_ready (by decide +kernel), names_of_named (by decide +kernel),
      by decide +kernel⟩,
    ⟨immPfx, 1, 4, preds [(0, 0xFF)] one, _, _, _, _, 16, [noRejoin], 1, issuing_of_ready (by decide +kernel),
      names_of_named (by decide +kernel), by decide +kernel, by decide +kernel, by decide +kernel, by decide +kernel,
      by decide +kernel, by decide +kernel, .inr (by decide +kernel), by decide +kernel⟩,
    ⟨immPfx, 0, 2, 2, 0x20040, regs [(2, 0, 0x20040)] one, _, _, _, _, issuing_of_ready (by decide +kernel),
      names_of_named (by decide +kernel), by decide +kernel⟩,
    ⟨immPfx, 0, 2, 2, 0x20010, 0x20020, 16, [noRejoin], 1, targets, _, _, _, _, 0xFFFF, 0xFFFF0000,
      issuing_of_ready (by decide +kernel), names_of_named (by decide +kernel), by decide +kernel, by decide +kernel,
      by decide +kernel, by decide +kernel, by decide +kernel, by decide +kernel, by decide +kernel, by decide +kernel,
      by decide +kernel, by decide +kernel, by decide +kernel, .inr (by decide +kernel), by decide +kernel⟩⟩

/-- A record of lanes parked earlier. -/
def parkedAt : Dword → Parked := fun a => ⟨{ (splitAt (ctxOf one).g 0).arch with pc := a }, none, 0, none, none, none, none⟩

theorem witness_EndingAndYielding :
    (∃ p i s c f o, Issuing s c ∧ commitReady s c.g = true ∧ c.p.arch.state = .ready ∧
      i ∈ [Instr.exit p f.guard, Instr.kill p f.guard] ∧ Names i s c p f o ∧ activeMask c p.operand f.guard = 0) ∧
    (∀ kills : Bool, ∃ p i s c f o, Issuing s c ∧ commitReady s c.g = true ∧ c.p.arch.state = .ready ∧
      i = (if kills then .kill p f.guard else .exit p f.guard) ∧ Names i s c p f o ∧ activeMask c p.operand f.guard ≠ 0 ∧
      c.mask &&& ~~~(activeMask c p.operand f.guard) ≠ 0 ∧
      c.g.parked = [] ∧ ∀ gr, gridOf (afterCommit s c) c.g.gid = some gr → reportTraps gr (stickyOr c.g (activeMask c p.operand f.guard)) = false) ∧
    (∀ kills : Bool, ∃ p i s c f o, Issuing s c ∧ commitReady s c.g = true ∧ c.p.arch.state = .ready ∧
      i = (if kills then .kill p f.guard else .exit p f.guard) ∧ Names i s c p f o ∧ activeMask c p.operand f.guard ≠ 0 ∧
      c.mask &&& ~~~(activeMask c p.operand f.guard) = 0 ∧ liveSplits c.g = 1 ∧
      c.g.parked = [] ∧ ∀ gr, gridOf (afterCommit s c) c.g.gid = some gr → reportTraps gr (stickyOr c.g (activeMask c p.operand f.guard)) = false) ∧
    (∃ s c p f o e, Issuing s c ∧ commitReady s c.g = true ∧ c.p.arch.state = .ready ∧ Names .yld s c p f o ∧
      c.g.parked = [] ∧ e < 4 ∧ e ≠ c.cur.who.entry ∧ (splitAt c.g e).arch.state = .ready) ∧
    (∃ s c p f o before q, Issuing s c ∧ commitReady s c.g = true ∧ c.p.arch.state = .ready ∧ Names .yld s c p f o ∧
      c.g.parked = before ++ [q] ∧ q.arch.state = .ready) := by
  have traps : ∀ (s : State) (M : Mask), ((afterCommit s (ctxOf s)).grids.all fun gr => !reportTraps gr (stickyOr (ctxOf s).g M)) = true →
      ∀ gr, gridOf (afterCommit s (ctxOf s)) (ctxOf s).g.gid = some gr → reportTraps gr (stickyOr (ctxOf s).g M) = false := by
    intro s M h gr hg
    simpa using List.all_eq_true.mp h gr (List.mem_of_find?_eq_some hg)
  refine ⟨⟨.none, .exit .none 1, one, _, wordOf (.exit .none 1), _, issuing_of_ready (by decide +kernel), by decide +kernel,
      by decide +kernel, by decide +kernel, names_of_named (by decide +kernel), by decide +kernel⟩,
    fun kills => ?_, fun kills => ?_,
    ⟨onGroup (fun g => { g with splits := vset g.splits 1 (splitAt g 0) }) one, _, _, _, _, 1,
      issuing_of_ready (by decide +kernel), by decide +kernel, by decide +kernel, names_of_named (by decide +kernel),
      by decide +kernel⟩,
    ⟨onGroup (fun g => { g with parked := [parkedAt 0x20400, parkedAt 0x20800] }) one, _, _, _, _,
      [parkedAt 0x20400], parkedAt 0x20800, issuing_of_ready (by decide +kernel), by decide +kernel, by decide +kernel,
      names_of_named (by decide +kernel), by decide +kernel⟩⟩
  · cases kills
    · exact ⟨.none, .exit .none 1, preds [(0, 0x80000001)] one, _, wordOf (.exit .none 1), _,
      issuing_of_ready (by decide +kernel), by decide +kernel, by decide +kernel, by decide +kernel,
      names_of_named (by decide +kernel), by decide +kernel, by decide +kernel, by decide +kernel, traps _ _ (by decide +kernel)⟩
    · exact ⟨.none, .kill .none 1, preds [(0, 0x80000001)] one, _, wordOf (.kill .none 1), _,
      issuing_of_ready (by decide +kernel), by decide +kernel, by decide +kernel, by decide +kernel,
      names_of_named (by decide +kernel), by decide +kernel, by decide +kernel, by decide +kernel, traps _ _ (by decide +kernel)⟩
  · cases kills
    · exact ⟨.none, .exit .none 0, one, _, wordOf (.exit .none 0), _,
      issuing_of_ready (by decide +kernel), by decide +kernel, by decide +kernel, by decide +kernel,
      names_of_named (by decide +kernel), by decide +kernel, by decide +kernel, by decide +kernel, by decide +kernel, traps _ _ (by decide +kernel)⟩
    · exact ⟨.none, .kill .none 0, one, _, wordOf (.kill .none 0), _,
      issuing_of_ready (by decide +kernel), by decide +kernel, by decide +kernel, by decide +kernel,
      names_of_named (by decide +kernel), by decide +kernel, by decide +kernel, by decide +kernel, by decide +kernel, traps _ _ (by decide +kernel)⟩

/-- A grid whose handler takes the report of every flag, and lanes with flags. -/
def reporting : State :=
  onGroup (fun g => { g with lst := vset g.lst 3 4 })
    { one with grids := one.grids.map fun g => { g with record := { g.record with handler := 0x20000, rmask := 31 } } }

theorem witness_LanesEnd_report : ∃ p s c f o gr, Issuing s c ∧ commitReady s c.g = true ∧ c.p.arch.state = .ready ∧
    Names (.exit p f.guard) s c p f o ∧ activeMask c p.operand f.guard ≠ 0 ∧
    gridOf (afterCommit s c) c.g.gid = some gr ∧
    reportTraps gr (stickyOr c.g (activeMask c p.operand f.guard)) = true :=
  ⟨.none, reporting, _, wordOf (.exit .none 0), _, reporting.grids.headD benchGrid, issuing_of_ready (by decide +kernel),
    by decide +kernel, by decide +kernel, names_of_named (by decide +kernel), by decide +kernel⟩

theorem witness_LanesEndBesideParkedSplits : ∀ kills : Bool, ∃ p i s c f o, Issuing s c ∧ commitReady s c.g = true ∧
    i = (if kills then Instr.kill p f.guard else .exit p f.guard) ∧ Names i s c p f o ∧ c.g.parked ≠ [] := by
  let s := onGroup (fun g => { g with parked := [parkedAt 0x20400] }) one
  intro kills
  cases kills
  · exact ⟨.none, .exit .none 0, s, _, wordOf (.exit .none 0), _, issuing_of_ready (by decide +kernel), by decide +kernel,
      by decide +kernel, names_of_named (by decide +kernel), by decide +kernel⟩
  · exact ⟨.none, .kill .none 0, s, _, wordOf (.kill .none 0), _, issuing_of_ready (by decide +kernel), by decide +kernel,
      by decide +kernel, names_of_named (by decide +kernel), by decide +kernel⟩

end Sys2Proof.Tests

namespace Sys2Proof.Tests
open Sys2Proof Sys2Proof.Machine
set_option Elab.async false

/-! ## Memory -/

/-- The first GiB maps onto itself, the second is not resident, the third is window 3 of device 7. -/
def mapped : State := write64 (write64 one 0x12008 0x4000_093B) 0x12010 0x0700_390D

/-- v2 and v3 hold each lane's address, by the group of eight the lane stands in; v4 holds 9. -/
def addressed (base : Nat → Nat) (s : State) : State :=
  let a : VReg := ⟨0, lanesOf fun l => BitVec.ofNat 32 (base (l / 8) + 8 * l)⟩
  onGroup (fun g => { g with v := vset (vset g.v 4 ⟨0, lanesOf fun _ => 9⟩) 2 a }) s

/-- The split has four lanes. -/
def narrow (s : State) : State := onSplit (fun p => { p with arch := { p.arch with mask := 0x8001_0101 } }) s

/-- All lanes at home, though not all resident. -/
def atHome : State := narrow <| addressed (fun k => if k < 3 then 0x30000 else 0x4000_0000) mapped
/-- Lanes here, at a page that is not resident, and at a peer. -/
def spread : State := narrow <| addressed (fun k => if k < 2 then 0x30000 else if k < 3 then 0x4000_0000 else 0x8000_0000) mapped

theorem none_leaving {s : State} (h : (s.lgs.toList.all fun g => g.state == 0#3) = true) : NoneLeaving s := by
  intro pa
  rw [cxlLeaving, Bool.eq_false_iff]
  intro hc
  obtain ⟨g, hg, h2⟩ := List.any_eq_true.mp hc
  have h3 := List.all_eq_true.mp h g hg
  simp only [beq_iff_eq] at h3
  simp [h3] at h2

/-- Where the access of a lane goes, as the translation says. -/
def placeAt (s : State) (i : Instr) (n : Nat) (w r : Bool) (l : Nat) : Place :=
  match placeOf s (ctxOf s) (laneAddr (ctxOf s) (pfxOf i) (opsOf i s).a l) n w r with
  | .ok x => x
  | .error _ => .soft

/-- Every active lane's access is aligned and permitted and waits for no slice. -/
def permitted (s : State) (i : Instr) (M : Mask) (n : Nat) (w r : Bool) : Bool :=
  (List.range 32).all fun l => !M.getLsbD l || (laneAddr (ctxOf s) (pfxOf i) (opsOf i s).a l % n == 0 &&
    match placeOf s (ctxOf s) (laneAddr (ctxOf s) (pfxOf i) (opsOf i s).a l) n w r with
    | .ok x => (match placePa x with | some pa => !sliceBusy s pa | none => true)
    | .error _ => false)

theorem permitted_of {s : State} {i : Instr} {M : Mask} {n : Nat} {w r : Bool} (h : permitted s i M n w r = true) :
    Permitted s (ctxOf s) M (laneAddr (ctxOf s) (pfxOf i) (opsOf i s).a) n w r (placeAt s i n w r) := by
  have key : ∀ l < 32, M.getLsbD l = true → laneAddr (ctxOf s) (pfxOf i) (opsOf i s).a l % n = 0 ∧
      placeOf s (ctxOf s) (laneAddr (ctxOf s) (pfxOf i) (opsOf i s).a l) n w r = .ok (placeAt s i n w r l) ∧
      ∀ pa, placePa (placeAt s i n w r l) = some pa → sliceBusy s pa = false := by
    intro l hl hM
    have h1 := List.all_eq_true.mp h l (List.mem_range.mpr hl)
    simp only [hM, Bool.not_true, Bool.false_or, Bool.and_eq_true, beq_iff_eq] at h1
    obtain ⟨h1, h2⟩ := h1
    refine ⟨h1, ?_⟩
    unfold placeAt
    split at h2
    · next x hx =>
      rw [hx]
      refine ⟨rfl, fun pa hpa => ?_⟩
      simpa [hpa] using h2
    · cases h2
  exact ⟨fun l hl hM => (key l hl hM).1, fun l hl hM => (key l hl hM).2.1, fun l hl hM pa gpa hp => (key l hl hM).2.2 pa
    (by rw [hp]; rfl)⟩

/-- The data and address registers of an access are held and of integers. -/
def reaches (c : Ctx) (o : Opnds) (data addr : Nat) : Bool :=
  heldSpan c.g o.d data && heldSpan c.g o.a addr && addrTags c o.a addr

theorem reaches_of {c : Ctx} {o : Opnds} {data addr : Nat} (h : reaches c o data addr = true) : Reaches c o data addr := by
  simp only [reaches, Bool.and_eq_true] at h
  exact ⟨h.1.1, h.1.2, h.2⟩

/-- The active mask of a memory instruction. -/
def maskFor (i : Instr) (s : State) : Mask := activeMask (ctxOf s) (pfxOf i).operand (wordOf i).guard

/-- v8 of width 8 bytes, the addresses in v2 and v3, residency predicate 2. -/
def mem8 : MemW := ⟨.op { OperandPfx.null with x := 2 }, 0, 8, 2, 0, 3⟩
/-- The same for a store of v4. -/
def mem4 : MemW := ⟨.op { OperandPfx.null with x := 2 }, 0, 4, 2, 5, 2⟩

theorem witness_LoadsPerLane :
    ∃ (w : MemW) (s : State) (c : Ctx) (p : Pfx) (f : WordF) (o : Opnds) (place : Nat → Place), Issuing s c ∧
      Names (.ld w) s c p f o ∧ widTag w.wid (loadTag p) = true ∧ Reaches c o (widRegs w.wid) 2 ∧
      Permitted s c (activeMask c p.operand f.guard) (laneAddr c p o.a) (widBytes w.wid) false true place ∧ NoneLeaving s ∧
      (∀ l < 32, (activeMask c p.operand f.guard).getLsbD l = true → atPeer (place l) = false) ∧ place 31 = .soft :=
  ⟨mem8, atHome, _, _, _, _, _, issuing_of_ready (by decide +kernel), names_of_named (by decide +kernel),
    by decide +kernel, reaches_of (by decide +kernel), permitted_of (by decide +kernel), none_leaving (by decide +kernel),
    by decide +kernel⟩

theorem witness_LoadsFromPeers :
    ∃ (w : MemW) (s : State) (c : Ctx) (p : Pfx) (f : WordF) (o : Opnds) (place : Nat → Place), Issuing s c ∧
      Names (.ld w) s c p f o ∧ widTag w.wid (loadTag p) = true ∧ Reaches c o (widRegs w.wid) 2 ∧
      Permitted s c (activeMask c p.operand f.guard) (laneAddr c p o.a) (widBytes w.wid) false true place ∧ NoneLeaving s ∧
      requestRoom s c (accesses (activeMask c p.operand f.guard) (laneAddr c p o.a) place)
        (linesHit s c (accesses (activeMask c p.operand f.guard) (laneAddr c p o.a) place) (widBytes w.wid)) = true ∧
      flightHit s c (accesses (activeMask c p.operand f.guard) (laneAddr c p o.a) place) (widBytes w.wid) = false ∧
      atPeer (place 31) = true :=
  ⟨mem8, spread, _, _, _, _, _, issuing_of_ready (by decide +kernel), names_of_named (by decide +kernel),
    by decide +kernel, reaches_of (by decide +kernel), permitted_of (by decide +kernel), none_leaving (by decide +kernel),
    by decide +kernel⟩

/-- ldu at a place of one kind meets its claim's hypotheses. -/
def ScalarLoadMet (kind : Place → Bool) : Prop :=
  ∃ (w : MemS) (s : State) (c : Ctx) (p : Pfx) (f : WordF) (o : Opnds) (place : Place), Issuing s c ∧
    Names (.ldu w) s c p f o ∧ c.mask ≠ 0 ∧ (srcS s c f.a + memOffset p).toNat % widBytes w.wid = 0 ∧
    placeOf s c (srcS s c f.a + memOffset p).toNat (widBytes w.wid) false true = .ok place ∧ NoneLeaving s ∧
    (∀ pa gpa, place = .here pa gpa → sliceBusy s pa = false) ∧
    (atPeer place = true →
      requestRoom s c [⟨lowestLane c.mask, (srcS s c f.a + memOffset p).toNat, place⟩]
        (linesHit s c [⟨lowestLane c.mask, (srcS s c f.a + memOffset p).toNat, place⟩] (widBytes w.wid)) = true ∧
      flightHit s c [⟨lowestLane c.mask, (srcS s c f.a + memOffset p).toNat, place⟩] (widBytes w.wid) = false) ∧
    kind place = true

/-- stu at a place of one kind meets its claim's hypotheses. -/
def ScalarStoreMet (kind : Place → Bool) : Prop :=
  ∃ (w : MemS) (s : State) (c : Ctx) (p : Pfx) (f : WordF) (o : Opnds) (place : Place), Issuing s c ∧
    Names (.stu w) s c p f o ∧ c.mask ≠ 0 ∧ (srcS s c f.a + memOffset p).toNat % widBytes w.wid = 0 ∧
    placeOf s c (srcS s c f.a + memOffset p).toNat (widBytes w.wid) true false = .ok place ∧ NoneLeaving s ∧
    (∀ pa gpa, place = .here pa gpa → sliceBusy s pa = false) ∧ c.g.region = none ∧
    CanStore (afterCommit s c) (committedCtx c) w.ord [⟨c.mask, (srcS s c f.a + memOffset p).toNat, place,
      bytesOfNat (widBytes w.wid) (srcS s c f.d).toNat⟩] ∧ kind place = true

/-- Fields of a scalar access: s1, at the address in s2. -/
def memS : MemS := ⟨.op { OperandPfx.null with x := 2 }, 1, 2, 0, 3⟩

theorem witness_ScalarLoads : ScalarLoadMet (fun x => (placePa x).isSome) ∧ ScalarLoadMet (fun x => x == .soft) ∧
    ScalarLoadMet atPeer :=
  ⟨⟨memS, scalars [(2, 0x30000)] mapped, _, _, _, _, .here 0x30000 0x30000, issuing_of_ready (by decide +kernel),
      names_of_named (by decide +kernel), by decide +kernel, by decide +kernel, by rfl, none_leaving (by decide +kernel),
      fun pa _ h => by (cases h; decide +kernel), fun h => by (cases h), by decide +kernel⟩,
    ⟨memS, scalars [(2, 0x4000_0000)] mapped, _, _, _, _, .soft, issuing_of_ready (by decide +kernel),
      names_of_named (by decide +kernel), by decide +kernel, by decide +kernel, by rfl, none_leaving (by decide +kernel),
      fun pa _ h => by (cases h), fun h => by (cases h), by decide +kernel⟩,
    ⟨memS, scalars [(2, 0x8000_0008)] mapped, _, _, _, _, .peer 7 3 8, issuing_of_ready (by decide +kernel),
      names_of_named (by decide +kernel), by decide +kernel, by decide +kernel, by rfl, none_leaving (by decide +kernel),
      fun pa _ h => by (cases h), fun _ => by decide +kernel, by decide +kernel⟩⟩

/-- A region is open that holds the lines given. -/
def inRegion (n : Nat) (s : State) : State :=
  onGroup (fun g => { g with region := some ⟨0x20000, (List.range n).map fun k => .bytes k (256 * k) [(256 * k, 7)] 0, false⟩ }) s

/-- The stores st makes. -/
def storesOf (w : MemW) (c : Ctx) (p : Pfx) (f : WordF) (o : Opnds) (place : Nat → Place) : List LaneSt :=
  laneStores c o w (accesses (activeMask c p.operand f.guard) (laneAddr c p o.a) place)

/-- st in a state: at once, or after a commit; performed, or waiting. -/
def StoreMet (s : State) (commits can : Bool) : Prop :=
  ∃ (w : MemW) (c : Ctx) (p : Pfx) (f : WordF) (o : Opnds) (place : Nat → Place),
    Issuing s c ∧ Names (.st w) s c p f o ∧ Reaches c o (widRegs w.wid) 2 ∧
    Permitted s c (activeMask c p.operand f.guard) (laneAddr c p o.a) (widBytes w.wid) true false place ∧
    NoneLeaving s ∧
    (if commits then MustCommit s c (storeEntries p w.ord (storesOf w c p f o place)) else c.g.region = none) ∧
    if can then CanStore (afterCommit s c) (committedCtx c) w.ord (storesOf w c p f o place)
    else ¬CanStore (afterCommit s c) (committedCtx c) w.ord (storesOf w c p f o place)

theorem witness_StoresPerLane : StoreMet spread false true ∧ StoreMet (inRegion 64 spread) true true :=
  ⟨⟨mem4, _, _, _, _, _, issuing_of_ready (by decide +kernel), names_of_named (by decide +kernel),
      reaches_of (by decide +kernel), permitted_of (by decide +kernel), none_leaving (by decide +kernel),
      show (ctxOf spread).g.region = none by decide +kernel,
      ⟨by decide +kernel, by decide +kernel, fun _ => by decide +kernel, by decide +kernel⟩⟩,
    ⟨mem4, _, _, _, _, _, issuing_of_ready (by decide +kernel), names_of_named (by decide +kernel),
      reaches_of (by decide +kernel), permitted_of (by decide +kernel), none_leaving (by decide +kernel),
      ⟨_, rfl, by decide +kernel⟩, ⟨by decide +kernel, by decide +kernel, fun _ => by decide +kernel, by decide +kernel⟩⟩⟩

/-- A store that releases at scope f while its team has an acknowledgement outstanding. -/
theorem witness_StoresWait : StoreMet (countOut spread 0 0) false false :=
  ⟨mem4, _, _, _, _, _, issuing_of_ready (by decide +kernel), names_of_named (by decide +kernel),
    reaches_of (by decide +kernel), permitted_of (by decide +kernel), none_leaving (by decide +kernel),
    show (ctxOf (countOut spread 0 0)).g.region = none by decide +kernel,
    show ¬_ from fun h => absurd h.released (by decide +kernel)⟩

theorem witness_ScalarStores : ScalarStoreMet (fun x => (placePa x).isSome) ∧ ScalarStoreMet (fun x => x == .soft) ∧
    ScalarStoreMet atPeer :=
  ⟨⟨memS, scalars [(1, 77), (2, 0x30000)] mapped, _, _, _, _, .here 0x30000 0x30000, issuing_of_ready (by decide +kernel),
      names_of_named (by decide +kernel), by decide +kernel, by decide +kernel, by rfl, none_leaving (by decide +kernel),
      fun pa _ h => by (cases h; decide +kernel), by decide +kernel,
      ⟨by decide +kernel, by decide +kernel, fun _ => by decide +kernel, by decide +kernel⟩, by decide +kernel⟩,
    ⟨memS, scalars [(1, 77), (2, 0x4000_0000)] mapped, _, _, _, _, .soft, issuing_of_ready (by decide +kernel),
      names_of_named (by decide +kernel), by decide +kernel, by decide +kernel, by rfl, none_leaving (by decide +kernel),
      fun pa _ h => by (cases h), by decide +kernel,
      ⟨by decide +kernel, by decide +kernel, fun _ => by decide +kernel, by decide +kernel⟩, by decide +kernel⟩,
    ⟨memS, scalars [(1, 77), (2, 0x8000_0008)] mapped, _, _, _, _, .peer 7 3 8, issuing_of_ready (by decide +kernel),
      names_of_named (by decide +kernel), by decide +kernel, by decide +kernel, by rfl, none_leaving (by decide +kernel),
      fun pa _ h => by (cases h), by decide +kernel,
      ⟨by decide +kernel, by decide +kernel, fun _ => by decide +kernel, by decide +kernel⟩, by decide +kernel⟩⟩

/-- The team holds one bank, in a mode, with bytes in its FIFO; v2 holds each lane's stage offset. -/
def staged (mode : BitVec 2) (wr count : Nat) (s : State) : State :=
  let s := modTeam s 0 0 fun t => { t with banks := [⟨0, mode, none, 0, wr, count, none, [(8, 5)], []⟩] }
  addressed (fun _ => 0) s

/-- Where a lane's stage access goes. -/
def stagePlace (s : State) (i : Instr) (l : Nat) : Nat × Nat × Nat :=
  (stageAt s 0 0 (stageOffset (ctxOf s) (pfxOf i) (opsOf i s).a l).toNat).getD (0, 0, 0)

/-- Every active lane's stage access reaches a bank in the mode. -/
def stageReach (s : State) (i : Instr) (M : Mask) (n : Nat) (mode : BitVec 2) : Bool :=
  (List.range 32).all fun l => !M.getLsbD l ||
    (decide (0 ≤ stageOffset (ctxOf s) (pfxOf i) (opsOf i s).a l) &&
      stageOffset (ctxOf s) (pfxOf i) (opsOf i s).a l % (n : Int) == 0 &&
      stageAt s (ctxOf s).g.gid (ctxOf s).g.team (stageOffset (ctxOf s) (pfxOf i) (opsOf i s).a l).toNat ==
        some (stagePlace s i l) &&
      match stageBank s (ctxOf s).g.gid (stagePlace s i l).1 (stagePlace s i l).2.1 with
      | some b => b.mode == mode && b.target == none &&
        !underTest s (bankBlock s (ctxOf s).g.gid (stagePlace s i l).1 b) && b.bad == []
      | none => false)

theorem stage_reach {s : State} {i : Instr} {M : Mask} {n : Nat} {mode : BitVec 2} (h : stageReach s i M n mode = true) :
    StageReach s (ctxOf s) M (stageOffset (ctxOf s) (pfxOf i) (opsOf i s).a) n mode (stagePlace s i) := by
  have key := fun l hl (hM : M.getLsbD l = true) => by
    have h1 := List.all_eq_true.mp h l (List.mem_range.mpr hl)
    simp only [hM, Bool.not_true, Bool.false_or, Bool.and_eq_true, beq_iff_eq, decide_eq_true_eq] at h1
    exact h1
  constructor
  · exact fun l hl hM => ⟨(key l hl hM).1.1.1, (key l hl hM).1.1.2, (key l hl hM).1.2⟩
  · intro l hl hM
    have h2 := (key l hl hM).2
    split at h2
    · next b hb =>
      simp only [Bool.and_eq_true, beq_iff_eq, Bool.not_eq_true'] at h2
      exact ⟨b, hb, h2.1.1.1, h2.1.1.2, h2.1.2, h2.2⟩
    · cases h2

/-- Fields of a stage access: v8 or v4, at the offset in v2. -/
def lds8 : MemW := ⟨.none, 0, 8, 2, 0, 3⟩
def sts4 : MemW := ⟨.none, 0, 4, 2, 0, 2⟩

theorem witness_StoresHeldInRegion :
    (∃ (w : MemW) (s : State) (c : Ctx) (p : Pfx) (f : WordF) (o : Opnds) (place : Nat → Place) (r : Region),
      let M := activeMask c p.operand f.guard
      Issuing s c ∧ Names (.st w) s c p f o ∧ Reaches c o (widRegs w.wid) 2 ∧
      Permitted s c M (laneAddr c p o.a) (widBytes w.wid) true false place ∧ NoneLeaving s ∧
      HeldBack s c r (storeEntries p w.ord (laneStores c o w (accesses M (laneAddr c p o.a) place)))) ∧
    (∃ (w : MemS) (s : State) (c : Ctx) (p : Pfx) (f : WordF) (o : Opnds) (place : Place) (r : Region),
      Issuing s c ∧ Names (.stu w) s c p f o ∧ c.mask ≠ 0 ∧ (srcS s c f.a + memOffset p).toNat % widBytes w.wid = 0 ∧
      placeOf s c (srcS s c f.a + memOffset p).toNat (widBytes w.wid) true false = .ok place ∧ NoneLeaving s ∧
      (∀ pa gpa, place = .here pa gpa → sliceBusy s pa = false) ∧
      HeldBack s c r (storeEntries p w.ord [⟨c.mask, (srcS s c f.a + memOffset p).toNat, place,
        bytesOfNat (widBytes w.wid) (srcS s c f.d).toNat⟩])) ∧
    (∃ (w : MemW) (s : State) (c : Ctx) (p : Pfx) (f : WordF) (o : Opnds) (place : Nat → Nat × Nat × Nat) (r : Region),
      let M := activeMask c p.operand f.guard
      Issuing s c ∧ Names (.sts w) s c p f o ∧ Reaches c o (widRegs w.wid) 1 ∧
      StageReach s c M (stageOffset c p o.a) (widBytes w.wid) 1#2 place ∧
      HeldBack s c r ((lanesIn M).map fun l => RegionEntry.stage (place l).1 (place l).2.1 (place l).2.2
        (bytesOfNat (widBytes w.wid) (storeValue c o.d w.wid l)) w.ord)) :=
  ⟨⟨mem4, inRegion 60 spread, _, _, _, _, _, _, issuing_of_ready (by decide +kernel), names_of_named (by decide +kernel),
      reaches_of (by decide +kernel), permitted_of (by decide +kernel), none_leaving (by decide +kernel), rfl, by decide +kernel⟩,
    ⟨memS, inRegion 63 (scalars [(2, 0x30000)] mapped), _, _, _, _, .here 0x30000 0x30000, _,
      issuing_of_ready (by decide +kernel), names_of_named (by decide +kernel), by decide +kernel, by decide +kernel, by rfl,
      none_leaving (by decide +kernel), fun pa _ h => by (cases h; decide +kernel), rfl, by decide +kernel⟩,
    ⟨sts4, inRegion 3 (staged 1 0 0 one), _, _, _, _, _, _, issuing_of_ready (by decide +kernel),
      names_of_named (by decide +kernel), reaches_of (by decide +kernel), stage_reach (by decide +kernel), rfl,
      by decide +kernel⟩⟩

theorem witness_StageScratchAccess :
    (∃ (w : MemW) (s : State) (c : Ctx) (p : Pfx) (f : WordF) (o : Opnds) (place : Nat → Nat × Nat × Nat), Issuing s c ∧
      Names (.lds w) s c p f o ∧ widTag w.wid (loadTag p) = true ∧ Reaches c o (widRegs w.wid) 1 ∧
      StageReach s c (activeMask c p.operand f.guard) (stageOffset c p o.a) (widBytes w.wid) 1#2 place) ∧
    (∃ (w : MemW) (s : State) (c : Ctx) (p : Pfx) (f : WordF) (o : Opnds) (place : Nat → Nat × Nat × Nat), Issuing s c ∧
      Names (.sts w) s c p f o ∧ Reaches c o (widRegs w.wid) 1 ∧ c.g.region = none ∧
      StageReach s c (activeMask c p.operand f.guard) (stageOffset c p o.a) (widBytes w.wid) 1#2 place ∧
      releaseReady s c.g w.ord.toNat = true) :=
  ⟨⟨lds8, staged 1 0 0 one, _, _, _, _, _, issuing_of_ready (by decide +kernel), names_of_named (by decide +kernel),
      by decide +kernel, reaches_of (by decide +kernel), stage_reach (by decide +kernel)⟩,
    ⟨sts4, staged 1 0 0 one, _, _, _, _, _, issuing_of_ready (by decide +kernel), names_of_named (by decide +kernel),
      reaches_of (by decide +kernel), by decide +kernel, stage_reach (by decide +kernel), by decide +kernel⟩⟩

/-- Some FIFO access meets the claim's hypotheses, with a condition on the bank. -/
def FifoMet (i : MemW → Instr) (push turn : Bool) (fits : Bank → Nat → Nat → Prop) : Prop :=
  ∃ (w : MemW) (s : State) (c : Ctx) (p : Pfx) (f : WordF) (o : Opnds) (place : Nat → Nat × Nat × Nat) (tm k : Nat) (b : Bank),
    Issuing s c ∧ Names (i w) s c p f o ∧ Reaches c o (widRegs w.wid) 1 ∧
    StageReach s c (activeMask c p.operand f.guard) (stageOffset c p o.a) (widBytes w.wid) 2#2 place ∧
    stageBank (afterCommit s c) c.g.gid tm k = some b ∧ activeMask c p.operand f.guard ≠ 0 ∧ commitReady s c.g = true ∧
    (∀ l < 32, (activeMask c p.operand f.guard).getLsbD l = true → (place l).1 = tm ∧ (place l).2.1 = k) ∧ b.mode = 2#2 ∧
    fifoTurn (afterCommit s c) (committedCtx c) (stageLanes (activeMask c p.operand f.guard) place) push = turn ∧
    releaseReady (afterCommit s c) (committedCtx c).g w.ord.toNat = true ∧
    widTag w.wid (loadTag p) = true ∧ fits b (widBytes w.wid) (lanesIn (activeMask c p.operand f.guard)).length

theorem witness_StageFifoAccess :
    FifoMet .lds false true (fun b n k => n * k ≤ b.count) ∧ FifoMet .lds false true (fun b n k => b.count < n * k) ∧
    FifoMet .sts true true (fun b n k => b.count + n * k ≤ 65536) ∧ FifoMet .sts true true (fun b n k => 65536 < b.count + n * k) :=
  ⟨⟨lds8, staged 2 256 256 one, _, _, _, _, _, 0, 0, _, issuing_of_ready (by decide +kernel),
      names_of_named (by decide +kernel), reaches_of (by decide +kernel), stage_reach (by decide +kernel), rfl,
      by decide +kernel⟩,
    ⟨lds8, staged 2 255 255 one, _, _, _, _, _, 0, 0, _, issuing_of_ready (by decide +kernel),
      names_of_named (by decide +kernel), reaches_of (by decide +kernel), stage_reach (by decide +kernel), rfl,
      by decide +kernel⟩,
    ⟨sts4, staged 2 65408 65408 one, _, _, _, _, _, 0, 0, _, issuing_of_ready (by decide +kernel),
      names_of_named (by decide +kernel), reaches_of (by decide +kernel), stage_reach (by decide +kernel), rfl,
      by decide +kernel⟩,
    ⟨sts4, staged 2 65409 65409 one, _, _, _, _, _, 0, 0, _, issuing_of_ready (by decide +kernel),
      names_of_named (by decide +kernel), reaches_of (by decide +kernel), stage_reach (by decide +kernel), rfl,
      by decide +kernel⟩⟩

end Sys2Proof.Tests

namespace Sys2Proof.Tests
open Sys2Proof Sys2Proof.Machine
set_option Elab.async false

/-- Every active lane's access, at its address, is aligned and permitted, goes to its place and waits for no slice. -/
def permittedAt (s : State) (M : Mask) (addr : Nat → Nat) (n : Nat) (w r : Bool) (place : Nat → Place) : Bool :=
  (List.range 32).all fun l => !M.getLsbD l || (addr l % n == 0 &&
    match placeOf s (ctxOf s) (addr l) n w r with
    | .ok x => x == place l && (match placePa x with | some pa => !sliceBusy s pa | none => true)
    | .error _ => false)

theorem permitted_at {s : State} {M : Mask} {addr : Nat → Nat} {n : Nat} {w r : Bool} {place : Nat → Place}
    (h : permittedAt s M addr n w r place = true) : Permitted s (ctxOf s) M addr n w r place := by
  have key : ∀ l < 32, M.getLsbD l = true → addr l % n = 0 ∧ placeOf s (ctxOf s) (addr l) n w r = .ok (place l) ∧
      ∀ pa, placePa (place l) = some pa → sliceBusy s pa = false := by
    intro l hl hM
    have h1 := List.all_eq_true.mp h l (List.mem_range.mpr hl)
    simp only [hM, Bool.not_true, Bool.false_or, Bool.and_eq_true, beq_iff_eq] at h1
    obtain ⟨h1, h2⟩ := h1
    split at h2
    · next x hx =>
      simp only [Bool.and_eq_true, beq_iff_eq] at h2
      rw [← h2.1]
      exact ⟨h1, hx, fun pa hpa => by simpa [hpa] using h2.2⟩
    · cases h2
  exact ⟨fun l hl hM => (key l hl hM).1, fun l hl hM => (key l hl hM).2.1, fun l hl hM pa gpa hp => (key l hl hM).2.2 pa
    (by rw [hp]; rfl)⟩

/-- Every lane's pair v2, v3 holds one address; v4 and v5 hold 9 and 1. -/
def atOne (a : Word) : State := narrow (regs [(2, 0, a), (4, 0, 9), (5, 0, 1)] mapped)

/-- v8 takes what was there; data in v4 (and v5); the address in v2 and v3; order release at f. -/
def atm4 : AtmW := ⟨.op { OperandPfx.null with x := 2, c := 4 }, 0, 8, 2, 5, false⟩

/-- The operand hypotheses of an atomic's claim. -/
def atmOk (s : State) (r : AtmClaim) (w : AtmW) (place : Place) : Bool :=
  let c := ctxOf s
  let o := opsOf r.run s
  let k := if r.op = .cas then 2 * atmRegs w else atmRegs w
  let M := maskFor r.run s
  ready s && named r.run s && atmOperand r.op w.wide o.c && heldSpan c.g o.d (atmRegs w) && heldSpan c.g o.a 2 &&
    heldSpan c.g o.c k && addrTags c o.a 2 && atmTags c o.c k &&
    permittedAt s M (fun l => (srcVal c true o.a l).toNat) (atmBytes w) true true (fun _ => place)

/-- The lanes of an atomic that all go to one place. -/
def atmXs (c : Ctx) (M : Mask) (o : Opnds) (x : Place) : List LaneAt :=
  accesses M (fun l => (srcVal c true o.a l).toNat) fun _ => x

/-- The room and order hypotheses of an atomic at one place. -/
def atmRoom (s : State) (c : Ctx) (M : Mask) (o : Opnds) (w : AtmW) (x : Place) : Bool :=
  let base := afterCommit s c
  let xs := atmXs c M o x
  commitReady s c.g && releaseReady base (committedCtx c).g w.ord.toNat &&
    requestRoom base (committedCtx c) xs (linesHit base (committedCtx c) xs (atmBytes w)) &&
    !loadsOut base (committedCtx c).g && !flightHit base (committedCtx c) xs (atmBytes w)

/-- Some state and operands meet the hypotheses of an atomic's claim at one place. -/
def AtmMet (r : AtmClaim) (w : AtmW) (x : Place) : Prop :=
  ∃ (s : State) (c : Ctx) (p : Pfx) (f : WordF) (o : Opnds), Issuing s c ∧ Names r.run s c p f o ∧
    AtmUsable c o w r.op (if r.op = .cas then 2 * atmRegs w else atmRegs w) ∧
    Permitted s c (activeMask c p.operand f.guard) (fun l => (srcVal c true o.a l).toNat) (atmBytes w) true true
      (fun _ => x) ∧ NoneLeaving s ∧
    (∀ a b, placePa x = some a → placePa x = some b → a = b ∨ a + atmBytes w ≤ b ∨ b + atmBytes w ≤ a) ∧
    atmRoom s c (activeMask c p.operand f.guard) o w x = true

theorem atm_met {s : State} {r : AtmClaim} {w : AtmW} {x : Place} (h : atmOk s r w x = true)
    (hl : (s.lgs.toList.all fun g => g.state == 0#3) = true)
    (hr : atmRoom s (ctxOf s) (maskFor r.run s) (opsOf r.run s) w x = true) : AtmMet r w x := by
  simp only [atmOk, Bool.and_eq_true] at h
  obtain ⟨⟨⟨⟨⟨⟨⟨⟨h1, h2⟩, h3⟩, h4⟩, h5⟩, h6⟩, h7⟩, h8⟩, h9⟩ := h
  exact ⟨s, _, _, _, _, issuing_of_ready h1, names_of_named h2, ⟨h3, ⟨h4, h5, h6⟩, h7, h8⟩, permitted_at h9,
    none_leaving hl, fun a b ha hb => .inl (Option.some.inj (ha.symm.trans hb)), hr⟩

/-- Lanes that meet at one address here. -/
theorem witness_AtomicsPerLane : ∀ k < 8, ∃ r, (atmClaims atm4)[k]? = some r ∧ AtmMet r atm4 (.here 0x30000 0x30000)
  | 0, _ => ⟨_, rfl, atm_met (s := atOne 0x30000) (by decide +kernel) (by decide +kernel) (by decide +kernel)⟩
  | 1, _ => ⟨_, rfl, atm_met (s := atOne 0x30000) (by decide +kernel) (by decide +kernel) (by decide +kernel)⟩
  | 2, _ => ⟨_, rfl, atm_met (s := atOne 0x30000) (by decide +kernel) (by decide +kernel) (by decide +kernel)⟩
  | 3, _ => ⟨_, rfl, atm_met (s := atOne 0x30000) (by decide +kernel) (by decide +kernel) (by decide +kernel)⟩
  | 4, _ => ⟨_, rfl, atm_met (s := atOne 0x30000) (by decide +kernel) (by decide +kernel) (by decide +kernel)⟩
  | 5, _ => ⟨_, rfl, atm_met (s := atOne 0x30000) (by decide +kernel) (by decide +kernel) (by decide +kernel)⟩
  | 6, _ => ⟨_, rfl, atm_met (s := atOne 0x30000) (by decide +kernel) (by decide +kernel) (by decide +kernel)⟩
  | 7, _ => ⟨_, rfl, atm_met (s := atOne 0x30000) (by decide +kernel) (by decide +kernel) (by decide +kernel)⟩

theorem witness_AtomicsAtPeers : ∀ k < 8, ∃ r, (atmClaims atm4)[k]? = some r ∧ AtmMet r atm4 (.peer 7 3 4)
  | 0, _ => ⟨_, rfl, atm_met (s := atOne 0x8000_0004) (by decide +kernel) (by decide +kernel) (by decide +kernel)⟩
  | 1, _ => ⟨_, rfl, atm_met (s := atOne 0x8000_0004) (by decide +kernel) (by decide +kernel) (by decide +kernel)⟩
  | 2, _ => ⟨_, rfl, atm_met (s := atOne 0x8000_0004) (by decide +kernel) (by decide +kernel) (by decide +kernel)⟩
  | 3, _ => ⟨_, rfl, atm_met (s := atOne 0x8000_0004) (by decide +kernel) (by decide +kernel) (by decide +kernel)⟩
  | 4, _ => ⟨_, rfl, atm_met (s := atOne 0x8000_0004) (by decide +kernel) (by decide +kernel) (by decide +kernel)⟩
  | 5, _ => ⟨_, rfl, atm_met (s := atOne 0x8000_0004) (by decide +kernel) (by decide +kernel) (by decide +kernel)⟩
  | 6, _ => ⟨_, rfl, atm_met (s := atOne 0x8000_0004) (by decide +kernel) (by decide +kernel) (by decide +kernel)⟩
  | 7, _ => ⟨_, rfl, atm_met (s := atOne 0x8000_0004) (by decide +kernel) (by decide +kernel) (by decide +kernel)⟩

theorem witness_ResidencyRequests :
    ∃ (pfx : Pfx) (guard : BitVec 2) (a : BitVec 7) (s : State) (c : Ctx) (p : Pfx) (f : WordF) (o : Opnds)
      (place : Nat → Place), Issuing s c ∧ Names (.pgreq pfx guard a) s c p f o ∧ heldSpan c.g o.a 2 = true ∧
      addrTags c o.a 2 = true ∧ Permitted s c (activeMask c p.operand f.guard) (fun l => (srcVal c true o.a l).toNat) 1
        false false place ∧ NoneLeaving s ∧ commitReady s c.g = true :=
  ⟨.none, 0, 2, atOne 0x4000_1003, _, _, _, _, fun _ => .soft, issuing_of_ready (by decide +kernel),
    names_of_named (by decide +kernel), by decide +kernel, by decide +kernel, permitted_at (by decide +kernel),
    none_leaving (by decide +kernel), by decide +kernel⟩

/-- A node of core 0's slot 0 is on its way to the core pairing buffer while its region is open. -/
def nodeLeaving : State :=
  { inRegion 2 one with flights := [⟨.core, 0, ⟨0, 0, false, false, false, false, false, false, 0, false, 2, 8, 0, 0, 0x30000,
    none, 0⟩, some (0, BitVec.allOnes 32)⟩] }

theorem witness_RegionsOpenAndClose :
    (∃ pfx s c p f o, Issuing s c ∧ Names (.rgnBegin pfx) s c p f o ∧ liveSplits c.g = 1 ∧ commitReady s c.g = true) ∧
    (∃ pfx s c p f o, Issuing s c ∧ Names (.rgnCommit pfx) s c p f o ∧ commitReady s c.g = true ∧
      c.g.region.isSome = true) ∧
    (∃ pfx s c p f o, Issuing s c ∧ Names (.rgnBegin pfx) s c p f o ∧ liveSplits c.g = 1 ∧ commitReady s c.g = false) ∧
    (∃ pfx s c p f o, Issuing s c ∧ Names (.rgnCommit pfx) s c p f o ∧ commitReady s c.g = false) :=
  ⟨⟨.none, inRegion 2 one, _, _, _, _, issuing_of_ready (by decide +kernel), names_of_named (by decide +kernel),
      by decide +kernel⟩,
    ⟨.none, inRegion 2 one, _, _, _, _, issuing_of_ready (by decide +kernel), names_of_named (by decide +kernel),
      by decide +kernel⟩,
    ⟨.none, nodeLeaving, _, _, _, _, issuing_of_ready (by decide +kernel), names_of_named (by decide +kernel),
      by decide +kernel⟩,
    ⟨.none, nodeLeaving, _, _, _, _, issuing_of_ready (by decide +kernel), names_of_named (by decide +kernel),
      by decide +kernel⟩⟩

/-- A live split stands where a group is committing. -/
theorem standing_closing {s : State} (h : (s.cur.isSome && (groupAt s (ctxOf s).cur.who.core (ctxOf s).cur.who.gslot).isSome &&
    (ctxOf s).p.live) = true) : Standing s (ctxOf s) := by
  simp only [Bool.and_eq_true, Option.isSome_iff_exists] at h
  obtain ⟨⟨⟨u, hu⟩, g, hg⟩, hl⟩ := h
  have hu' : (ctxOf s).cur = u := by simp [ctxOf, hu]
  have hg' : (ctxOf s).g = g := by
    rw [hu'] at hg
    simp [ctxOf, hu, hg]
  exact ⟨by rw [hu', hu], by rw [hg', hg], rfl, hl, rfl⟩

theorem witness_CommittingRegionsGoFirst :
    (∃ i s c, Standing s c ∧ c.g.closing = true ∧ (coreView i).isSome = true) ∧
    (∃ i s c, Standing s c ∧ c.g.closing = true ∧ ∃ w u, view i = .half w u) :=
  ⟨⟨.rgnCommit .none, onGroup (fun g => { g with region := some ⟨0x20000, [], true⟩ }) one, _,
      standing_closing (by decide +kernel), by decide +kernel, by decide +kernel⟩,
    ⟨.addC16 half, onGroup (fun g => { g with region := some ⟨0x20000, [], true⟩ }) one, _,
      standing_closing (by decide +kernel), by decide +kernel, _, _, rfl⟩⟩

/-- A fragment of a one-element reduction. -/
def frag0 : Frag := ⟨0, 0, false, false, false, false, false, false, 0, false, 2, 8, 0, 0, 0x30000, none, 0⟩

theorem witness_CommitPerformsTheBuffer :
    ∃ s c r, Issuing s c ∧ c.g.region = some r ∧
      (∀ e ∈ r.buf, (∃ va fs, e = .node va fs ∧ ∀ f ∈ fs, f.orphan = false) ∨
        ∃ va gpa cells ord, e = .bytes va gpa cells ord ∧ ord.toNat ≠ 3 ∧ ord.toNat ≠ 4 ∧ ord.toNat ≠ 5) ∧
      (∃ before va gpa cells ord rest pre b post, r.buf = before ++ [.bytes va gpa cells ord] ++ rest ∧
        cells = pre ++ [b] ++ post ∧ (∀ x ∈ post, x.1 ≠ b.1) ∧
        (∀ va' gpa' cells' ord', .bytes va' gpa' cells' ord' ∈ rest → ∀ x ∈ cells', x.1 ≠ b.1) ∧
        inRetired s b.1 = false) ∧
      ∃ va fs, .node va fs ∈ r.buf ∧ fs ≠ [] := by
  let r : Region := ⟨0x20000, [.bytes 0 0 [(8, 1)] 0, .node 3 [frag0]], false⟩
  let s : State := onGroup (fun g => { g with region := some r }) one
  refine ⟨s, ctxOf s, r, issuing_of_ready (by decide +kernel), by decide +kernel, ?_,
    ⟨[], 0, 0, [(8, 1)], 0, [.node 3 [frag0]], [], (8, 1), [], rfl, rfl, ?_, ?_, by decide +kernel⟩, 3, [frag0], ?_, ?_⟩
  · intro e h
    simp only [r, List.mem_cons, List.not_mem_nil, or_false] at h
    rcases h with rfl | rfl
    · exact .inr ⟨_, _, _, _, rfl, by decide, by decide, by decide⟩
    · exact .inl ⟨_, _, rfl, by decide⟩
  · simp
  · simp
  · simp [r]
  · simp

/-- A descriptor at 0x3_0000 of eight FP32 leaves, its address in s2. -/
def described : State :=
  scalars [(2, 0x30000), (3, 0x40000)] (write64 (write64 (write64 mapped 0x30000 0x0201) 0x30008 8) 0x30010 0x40000)

theorem desc_here {s : State} {c : Ctx} {va : Dword} {pa gpa : Nat} (h : va.toNat % 64 = 0 ∧ va.toNat < 2 ^ 56 ∧
    access s (coreTlb c.g.core) c.part c.g.gid va.toNat true false = .ok pa gpa ∧
    (sliceBusy s pa = false ∧ (∀ q ∈ s.redReqs, q.descPa ≠ pa) ∧ poisoned s pa 64 = false) ∧
    ∀ d ∈ s.descs, DescRead.isOf c.g.core c.g.gslot c.mask d = false) : DescHere s c va pa :=
  ⟨h.1, h.2.1, ⟨gpa, h.2.2.1⟩, h.2.2.2.1, h.2.2.2.2⟩

/-- The nodes of a ctrb of the fields (x) that o names, through the descriptor at pa. -/
def ctrbNodes (s : State) (c : Ctx) (p : Pfx) (f : WordF) (o : Opnds) (pa : Nat) : List Frag :=
  let t := (readTag c o.d).getD 0
  (lanesIn (activeMask c p.operand f.guard)).map fun l =>
    valueFrag (fragOfDesc s c (descHere s pa) p.operand.x.toNat ((srcVal c false o.a l).toNat % 2 ^ 32)) t
      ((srcVal c (isF64 t) o.d l).toNat % 2 ^ ewidth t)

/-- The null nodes of a red.null. -/
def nullNodes (s : State) (c : Ctx) (p : Pfx) (f : WordF) (o : Opnds) (pa : Nat) : List Frag :=
  (lanesIn (activeMask c p.operand f.guard)).flatMap fun l =>
    nullFrags (fragOfDesc s c (descHere s pa) p.operand.x.toNat ((srcVal c false o.d l).toNat % 2 ^ 32))

/-- What a ctrb needs before its nodes are looked at. -/
def CtrbNamed (s : State) (c : Ctx) (p : Pfx) (f : WordF) (o : Opnds) (pfx : Pfx) (guard : BitVec 2) (d a b : BitVec 7)
    (pa : Nat) : Prop :=
  Issuing s c ∧ Names (.ctrb pfx guard d a b) s c p f o ∧ DescHere s c (srcS s c b) pa ∧
    oddPair (isF64 ((readTag c o.d).getD 0)) o.d = false ∧
    heldSpan c.g o.d (if isF64 ((readTag c o.d).getD 0) then 2 else 1) = true ∧ heldSpan c.g o.a 1 = true ∧
    addrTags c o.a 1 = true ∧ brokenPair c false o.d = false ∧ redFormat ((readTag c o.d).getD 0) = true

/-- What a red.null needs before its nodes are looked at. -/
def NullNamed (s : State) (c : Ctx) (p : Pfx) (f : WordF) (o : Opnds) (pfx : Pfx) (guard : BitVec 2) (d a : BitVec 7)
    (pa : Nat) : Prop :=
  Issuing s c ∧ Names (.redNull pfx guard d a) s c p f o ∧ DescHere s c (srcS s c a) pa ∧ heldSpan c.g o.d 1 = true ∧
    (readTag c o.d).getD 0 = 0

/-- A ctrb of v4, at the indices in v5, through the descriptor in s2. -/
def contributing : State := regs [(4, 2, 0x3F80_0000)] described
/-- One of no lane: predicate 1 is empty. -/
def nobody : State := preds [(1, 0)] contributing

theorem witness_Contributions :
    (∃ s c p f o pa pfx guard d a b, CtrbNamed s c p f o pfx guard d a b pa ∧ activeMask c p.operand f.guard = 0) ∧
    (∃ s c p f o pa pfx guard d a b, CtrbNamed s c p f o pfx guard d a b pa ∧ activeMask c p.operand f.guard ≠ 0 ∧
      AtOnce s c [.node ((srcS s c b).toNat / 256) (ctrbNodes s c p f o pa)]) ∧
    (∃ s c p f o pa pfx guard d a b r, CtrbNamed s c p f o pfx guard d a b pa ∧ activeMask c p.operand f.guard ≠ 0 ∧
      HeldBack s c r [.node ((srcS s c b).toNat / 256) (ctrbNodes s c p f o pa)]) ∧
    (∃ s c p f o pa pfx guard d a, NullNamed s c p f o pfx guard d a pa ∧ nullNodes s c p f o pa = []) ∧
    (∃ s c p f o pa pfx guard d a, NullNamed s c p f o pfx guard d a pa ∧ nullNodes s c p f o pa ≠ [] ∧
      AtOnce s c [.node ((srcS s c a).toNat / 256) (nullNodes s c p f o pa)]) ∧
    (∃ s c p f o pa pfx guard d a r, NullNamed s c p f o pfx guard d a pa ∧ nullNodes s c p f o pa ≠ [] ∧
      HeldBack s c r [.node ((srcS s c a).toNat / 256) (nullNodes s c p f o pa)]) :=
  have hc (s : State) (guard : BitVec 2) (h1 : ready s = true) (h2 : named (.ctrb .none guard 4 5 2) s = true)
      (h3 : (srcS s (ctxOf s) 2).toNat % 64 = 0 ∧ (srcS s (ctxOf s) 2).toNat < 2 ^ 56 ∧
        access s (coreTlb (ctxOf s).g.core) (ctxOf s).part (ctxOf s).g.gid (srcS s (ctxOf s) 2).toNat true false =
          .ok 0x30000 0x30000 ∧
        (sliceBusy s 0x30000 = false ∧ (∀ q ∈ s.redReqs, q.descPa ≠ 0x30000) ∧ poisoned s 0x30000 64 = false) ∧
        ∀ d ∈ s.descs, DescRead.isOf (ctxOf s).g.core (ctxOf s).g.gslot (ctxOf s).mask d = false) h4 :
      CtrbNamed s (ctxOf s) _ _ _ .none guard 4 5 2 0x30000 :=
    ⟨issuing_of_ready h1, names_of_named h2, desc_here h3, h4⟩
  have hn (s : State) (guard : BitVec 2) (h1 : ready s = true) (h2 : named (.redNull .none guard 5 2) s = true)
      (h3 : (srcS s (ctxOf s) 2).toNat % 64 = 0 ∧ (srcS s (ctxOf s) 2).toNat < 2 ^ 56 ∧
        access s (coreTlb (ctxOf s).g.core) (ctxOf s).part (ctxOf s).g.gid (srcS s (ctxOf s) 2).toNat true false =
          .ok 0x30000 0x30000 ∧
        (sliceBusy s 0x30000 = false ∧ (∀ q ∈ s.redReqs, q.descPa ≠ 0x30000) ∧ poisoned s 0x30000 64 = false) ∧
        ∀ d ∈ s.descs, DescRead.isOf (ctxOf s).g.core (ctxOf s).g.gslot (ctxOf s).mask d = false) h4 :
      NullNamed s (ctxOf s) _ _ _ .none guard 5 2 0x30000 :=
    ⟨issuing_of_ready h1, names_of_named h2, desc_here h3, h4⟩
  ⟨⟨nobody, _, _, _, _, _, _, 1, _, _, _, hc nobody 1 (by decide +kernel) (by decide +kernel) (by decide +kernel)
      (by decide +kernel), by decide +kernel⟩,
    ⟨contributing, _, _, _, _, _, _, 0, _, _, _, hc contributing 0 (by decide +kernel) (by decide +kernel) (by decide +kernel)
      (by decide +kernel), by decide +kernel, .inl (by decide +kernel)⟩,
    ⟨inRegion 3 contributing, _, _, _, _, _, _, 0, _, _, _, _, hc (inRegion 3 contributing) 0 (by decide +kernel)
      (by decide +kernel) (by decide +kernel) (by decide +kernel), by decide +kernel, rfl, by decide +kernel⟩,
    ⟨preds [(1, 0)] described, _, _, _, _, _, _, 1, _, _, hn (preds [(1, 0)] described) 1 (by decide +kernel)
      (by decide +kernel) (by decide +kernel) (by decide +kernel), by decide +kernel⟩,
    ⟨described, _, _, _, _, _, _, 0, _, _, hn described 0 (by decide +kernel) (by decide +kernel) (by decide +kernel)
      (by decide +kernel), by decide +kernel, .inl (by decide +kernel)⟩,
    ⟨inRegion 3 described, _, _, _, _, _, _, 0, _, _, _, hn (inRegion 3 described) 0 (by decide +kernel) (by decide +kernel)
      (by decide +kernel) (by decide +kernel), by decide +kernel, rfl, by decide +kernel⟩⟩

theorem witness_ReductionObjects :
    (∃ s c p f o pa pfx a dest, Issuing s c ∧ Names (.redInit pfx a) s c p f o ∧ DescHere s c (srcS s c a) pa ∧
      destLines (keepTlb s (coreTlb c.g.core) c.part c.g.gid [(srcS s c a).toNat]) c (read64 s (pa + 16)).toNat
        (if (read64 s pa).getLsbD 14 then 16 * redBytes ((read64 s pa).extractLsb' 8 6) else 1) = .ok dest) ∧
    (∃ s c p f o pa pfx d a, Issuing s c ∧ Names (.redQuery pfx d a) s c p f o ∧ DescHere s c (srcS s c a) pa) :=
  ⟨⟨described, _, _, _, _, 0x30000, .none, 2, [0x40000], issuing_of_ready (by decide +kernel),
      names_of_named (by decide +kernel), desc_here (gpa := 0x30000) (by decide +kernel), rfl⟩,
    ⟨described, _, _, _, _, 0x30000, .none, 70, 2, issuing_of_ready (by decide +kernel), names_of_named (by decide +kernel),
      desc_here (gpa := 0x30000) (by decide +kernel)⟩⟩

/-- Multicast group 5 of two devices is loaded; s2 and s3 hold an offset and the group. -/
def grouped : State :=
  { scalars [(2, 256), (3, 5)] mapped with mcGroups := [⟨5, 0, 512, 0x50000, [(3, 1), (40, 2)]⟩] }

theorem grouped_targets : mcTargets ⟨5, 0, 512, 0x50000, [(3, 1), (40, 2)]⟩ = [3, 40] := by decide +kernel

theorem witness_MulticastStores :
    ∃ (pfx : Pfx) (d a b : BitVec 7) (s : State) (c : Ctx) (p : Pfx) (f : WordF) (o : Opnds) (g : McGroup) (off : Nat),
      Issuing s c ∧ Names (.mst pfx d a b) s c p f o ∧ off = (srcS s c a).toNat ∧
      mcGroup s (srcS s c b).toNat = some g ∧
      (∀ x ∈ mcTargets g, chanRoom (afterCommit s c) x (BitVec.ofNat 2 (classOfGrid (afterCommit s c) c.g.gid)) 1 = true) ∧
      heldSpan c.g o.d 2 = true ∧ c.mask = BitVec.allOnes 32 ∧ off % 256 = 0 ∧
      (srcS s c b).toNat < 4096 ∧ g.part = c.part ∧ off < g.size ∧ commitReady s c.g = true ∧
      (afterCommit s c).mcFlights = [] ∧ (∃ m ∈ g.members, groupPresent (afterCommit s c) m.1 = true) ∧
      launchWaits (afterCommit s c) (committedCtx c) g off = false :=
  ⟨.none, 4, 2, 3, grouped, _, _, _, _, ⟨5, 0, 512, 0x50000, [(3, 1), (40, 2)]⟩, 256, issuing_of_ready (by decide +kernel),
    names_of_named (by decide +kernel), by decide +kernel, by decide +kernel,
    by rw [grouped_targets]; exact List.all_eq_true.mp (by decide +kernel),
    by decide +kernel⟩

/-- The time is past the group's hz. -/
def later : State := { one with time := 9 }
/-- A store of the group is still on its way. -/
def pending : State := { later with ticks := [⟨0, 0, 7⟩] }

theorem hz_passed {s : State} {c : Ctx} (h : (s.ticks.all fun x => !(x.core == c.g.core && x.gslot == c.g.gslot)) = true ∧
    c.g.hz.toNat < s.time.toNat) : HzPassed s c := by
  refine ⟨fun x hx hc => ?_, h.2⟩
  have := List.all_eq_true.mp h.1 x hx
  simp [hc.1, hc.2] at this

theorem hz_waits {s : State} {c : Ctx} (h : (s.ticks.any fun x => x.core == c.g.core && x.gslot == c.g.gslot) = true) :
    ¬HzPassed s c := by
  intro hz
  obtain ⟨x, hx, hc⟩ := List.any_eq_true.mp h
  simp only [Bool.and_eq_true, beq_iff_eq] at hc
  exact hz.1 x hx hc

/-- A load of the group on path X is on its way. -/
def loading : State := { later with reqs := [⟨0, .load 0 0 1 0 4 0 0, 0, 0, 0, 0, ⟨opRD, 0, 0, 0, false, 0, 0, 0, 0, 0, 0, 0, 4, 0, []⟩, none⟩] }

theorem witness_Fences :
    let Met (i : Instr) (s : State) (scope : BitVec 3) (before : Bool) (ended : Prop → Prop) : Prop :=
      ∃ c p f o, Issuing s c ∧ commitReady s c.g = true ∧ Names i s c p f o ∧
        ended (FenceOver (afterCommit s c) (committedCtx c) scope before) ∧
        (teamOf (afterCommit s c) c.g.gid c.g.team).isSome = true
    Met (.fence .none 2 0) later 2 true id ∧ Met (.fencex .none 0 1 0 0) later 0 false id ∧
    Met (.fence .none 3 0) later 3 true id ∧ Met (.fencex .none 0 4 4 70) later 4 true id ∧
    Met (.fence .none 3 0) pending 3 true Not ∧ Met (.fence .none 4 9) pending 4 true Not ∧
    Met (.fence .none 2 0) loading 2 true Not := by
  refine ⟨⟨_, _, _, _, issuing_of_ready (by decide +kernel), by decide +kernel, names_of_named (by decide +kernel), ?_, by decide +kernel⟩,
    ⟨_, _, _, _, issuing_of_ready (by decide +kernel), by decide +kernel, names_of_named (by decide +kernel), ?_, by decide +kernel⟩,
    ⟨_, _, _, _, issuing_of_ready (by decide +kernel), by decide +kernel, names_of_named (by decide +kernel), ?_, by decide +kernel⟩,
    ⟨_, _, _, _, issuing_of_ready (by decide +kernel), by decide +kernel, names_of_named (by decide +kernel), ?_, by decide +kernel⟩,
    ⟨_, _, _, _, issuing_of_ready (by decide +kernel), by decide +kernel, names_of_named (by decide +kernel), ?_, by decide +kernel⟩,
    ⟨_, _, _, _, issuing_of_ready (by decide +kernel), by decide +kernel, names_of_named (by decide +kernel), ?_, by decide +kernel⟩,
    ⟨_, _, _, _, issuing_of_ready (by decide +kernel), by decide +kernel, names_of_named (by decide +kernel), ?_, by decide +kernel⟩⟩
  · exact ⟨fun h => absurd h (by decide), fun _ _ => by decide +kernel⟩
  · exact ⟨fun h => absurd h (by decide), fun _ h => absurd h (by decide)⟩
  · exact ⟨fun _ => hz_passed (by decide +kernel), fun _ _ => by decide +kernel⟩
  · exact ⟨hz_passed (by decide +kernel), by decide +kernel⟩
  · exact fun h => hz_waits (by decide +kernel) (h.1 rfl)
  · exact fun h => hz_waits (by decide +kernel) h.1
  · exact fun h => absurd (h.2 (by decide) rfl) (by decide +kernel)

theorem witness_StreamFence : ∃ pfx s c p f o, Issuing s c ∧ commitReady s c.g = true ∧ Names (.fenceS pfx) s c p f o ∧
    s.opCache ≠ [] :=
  ⟨.none, { one with opCache := [⟨0, 0, 0x30000, 1, 0, 0, 0, 0, []⟩] }, _, _, _, _, issuing_of_ready (by decide +kernel),
    by decide +kernel, names_of_named (by decide +kernel), by decide +kernel⟩

/-- The hypotheses that both clauses about an arrival share. -/
def ArrivalNamed (spec : Bool) (scope : BitVec 3) (pfx : Pfx) (a : BitVec 7) (s : State) (c : Ctx) (p : Pfx) (f : WordF)
    (o : Opnds) : Prop :=
  Issuing s c ∧ Names (.bar pfx spec scope a) s c p f o ∧ commitReady s c.g = true ∧
    specOk scope.toNat (if spec then srcS s c a else 0) = true ∧
    barLoose s c.g.gid scope (if spec then srcS s c a else 0) = false ∧
    ∀ gr ∈ gridOf (afterCommit s c) c.g.gid, reportTraps gr (stickyOr c.g c.mask) = false

/-- Some arrival meets its claim's hypotheses, at a barrier nobody has reached. -/
def ArrivalMet (spec : Bool) (scope : BitVec 3) (ao : Bool) : Prop :=
  ∃ pfx a s c p f o, ArrivalNamed spec scope pfx a s c p f o ∧
    barAt s (barInst s scope.toNat c.g.gid c.g.team c.g.grpid) (specId (if spec then srcS s c a else 0)) = none ∧
    specAo (if spec then srcS s c a else 0) = ao

/-- A barrier of the team at which the bench's split has arrived already. -/
def arrived : State :=
  let s := scalars [(1, 0x2_05)] one
  { s with barriers := [⟨⟨1, 0, 0, 0⟩, 5, 0x2_05, [], [⟨0, 0, 0, 0xFFFF_FFFF, false⟩], [], []⟩] }

theorem witness_ArrivingAtBarriers :
    (ArrivalMet false 0 false ∧ ArrivalMet true 1 false ∧ ArrivalMet true 2 true ∧ ArrivalMet true 3 false) ∧
    ∃ pfx a s c p f o b, ArrivalNamed true 1 pfx a s c p f o ∧
      barAt s (barInst s 1 c.g.gid c.g.team c.g.grpid) (specId (srcS s c a)) = some b ∧
      arrivedAlready b (barWaiter c (srcS s c a)) = true := by
  exact ⟨⟨⟨.none, 0, scalars [(1, 0)] one, _, _, _, _, ⟨issuing_of_ready (by decide +kernel), names_of_named (by decide +kernel),
      by decide +kernel⟩, by decide +kernel⟩,
    ⟨.none, 1, scalars [(1, 0x2_05)] one, _, _, _, _, ⟨issuing_of_ready (by decide +kernel), names_of_named (by decide +kernel),
      by decide +kernel⟩, by decide +kernel⟩,
    ⟨.none, 1, scalars [(1, 0x1000_02FF)] one, _, _, _, _, ⟨issuing_of_ready (by decide +kernel),
      names_of_named (by decide +kernel), by decide +kernel⟩, by decide +kernel⟩,
    ⟨.none, 1, scalars [(1, 0x0FFF_FF00)] one, _, _, _, _, ⟨issuing_of_ready (by decide +kernel),
      names_of_named (by decide +kernel), by decide +kernel⟩, by decide +kernel⟩⟩,
    .none, 1, arrived, _, _, _, _, ⟨⟨1, 0, 0, 0⟩, 5, 0x2_05, [], [⟨0, 0, 0, 0xFFFF_FFFF, false⟩], [], []⟩,
    ⟨issuing_of_ready (by decide +kernel), names_of_named (by decide +kernel), by decide +kernel⟩, by decide +kernel⟩

/-- An arrival of the bench's only split at its group's barrier 0. -/
def arrival : BarWaiter := ⟨0, 0, 0, 0xFFFF_FFFF, false⟩

theorem witness_BarriersComplete :
    (∃ s i x w, barComplete s (joined s i x w) = false ∧ specCount (joined s i x w).spec ≠ 0 ∧
      (joined s i x w).spec ≠ noSpec ∧ instSaved s i = false) ∧
    (∃ s i x w, barComplete s (joined s i x w) = true ∧ specHier (joined s i x w).spec = false ∧
      (joined s i x w).next = [] ∧ (joined s i x w).held = []) :=
  ⟨⟨one, ⟨3, 0, 0, 0⟩, 0x0FFF_FF00, arrival, by decide +kernel⟩, ⟨one, ⟨0, 0, 0, 0⟩, 0x100, arrival, by decide +kernel⟩⟩

end Sys2Proof.Tests

namespace Sys2Proof.Tests
open Sys2Proof Sys2Proof.Machine
set_option Elab.async false

/-! ## Engine instructions -/

/-- The bench's team changed. -/
def onTeam (f : Team → Team) (s : State) : State := { s with teams := s.teams.map f }

/-- An accumulator with a control state and run format. -/
def accWith (n : Nat) (ctl : Dword) (fmt : Tag) : Acc := { Acc.cleared n with ctl := ctl, fmt := fmt }

/-- A team with 16 copy tags, tag 3 outstanding, guard slot 1 naming tag 5, and accumulators; its grid reserves four. -/
def engine (accs : List Acc) (rs : List (Nat × Dword)) (s : State) : State :=
  let slot : GuardSlot := ⟨0, 0, 0, 0, 5, true, 2, 2, 0, 0⟩
  let s := onTeam (fun t => { t with tagCount := 16, tags := 8, accs := accs, g := vset t.g 1 slot }) s
  let s := { s with grids := s.grids.map fun g => { g with record := { g.record with accs := 4, tags := 16 } } }
  scalars rs (modPregs s 0 fun r => { r with pacc := 0x40, pclass := 0, dlquota := 4 })

theorem queue_open {s : State} {c : Ctx} (h : c.mask = BitVec.allOnes 32 ∧ commitReady s c.g = true ∧
    (s.cmds.filter fun k => k.gid == c.g.gid && k.team == c.g.team && k.phase == .queued).length < 64) : QueueOpen s c :=
  ⟨h.1, h.2.1, h.2.2⟩

/-- The accumulator a team holds. -/
def teamAcc (s : State) (n : Nat) : Acc :=
  ((teamOf s (ctxOf s).g.gid (ctxOf s).g.team).bind fun t => accOf t n).getD (Acc.cleared n)

theorem bound_of {s : State} {n : Nat}
    (h : ((teamOf s (ctxOf s).g.gid (ctxOf s).g.team).bind fun t => accOf t n).isSome = true) :
    Bound s (ctxOf s) n (teamAcc s n) := by
  obtain ⟨x, hx⟩ := Option.isSome_iff_exists.mp h
  obtain ⟨t, ht, ha⟩ := Option.bind_eq_some_iff.mp hx
  exact ⟨t, ht, by rw [teamAcc, hx, ha]; rfl⟩

/-- An answer that is a value. -/
def okIs {α : Type} [DecidableEq α] (x : Ex α) (a : α) : Bool :=
  match x with
  | .ok b => decide (b = a)
  | .error _ => false

theorem ok_of {α : Type} [DecidableEq α] {x : Ex α} {a : α} (h : okIs x a = true) : x = .ok a := by
  unfold okIs at h
  split at h
  · rw [of_decide_eq_true h]
  · cases h

/-- A prefix that names guard slot 1. -/
def slot1 : Pfx := .op { OperandPfx.null with x := 9 }

theorem witness_CopiesAndPlansQueue :
    let s := engine [] [(4, 0x30000), (5, 0x40000), (6, 1), (7, 0)] one
    (∃ pfx d a c p f o, Issuing s c ∧ QueueOpen s c ∧ guardOf p = some 1 ∧ tagInRange s c d.toNat = true ∧
      Names (.cpyLoad pfx d a) s c p f o) ∧
    (∃ pfx d a c, Issuing s c ∧ QueueOpen s c ∧ tagInRange s c d.toNat = true ∧
      ∀ r ∈ copies pfx d a, ∃ p f o, Names r.1 s c p f o) ∧
    (∃ pfx a c p f o, Issuing s c ∧ QueueOpen s c ∧ Names (.engPlan pfx a) s c p f o) ∧
    (∃ pfx a c p f o, Issuing s c ∧ QueueOpen s c ∧ Names (.engLnt pfx a) s c p f o ∧ bits (srcS s c a) 10 6 = 0) := by
  refine ⟨⟨slot1, 15, 4, _, _, _, _, issuing_of_ready (by decide +kernel), queue_open (by decide +kernel), by decide +kernel,
      by decide +kernel, names_of_named (by decide +kernel)⟩,
    ⟨.none, 15, 4, _, issuing_of_ready (by decide +kernel), queue_open (by decide +kernel), by decide +kernel,
      fun r hr => ⟨_, _, _, names_of_named ?_⟩⟩,
    ⟨.none, 4, _, _, _, _, issuing_of_ready (by decide +kernel), queue_open (by decide +kernel),
      names_of_named (by decide +kernel)⟩,
    ⟨.none, 6, _, _, _, _, issuing_of_ready (by decide +kernel), queue_open (by decide +kernel),
      names_of_named (by decide +kernel), by decide +kernel⟩⟩
  exact List.all_eq_true.mp (by decide +kernel : ((copies .none 15 4).all fun r =>
    named r.1 (engine [] [(4, 0x30000), (5, 0x40000), (6, 1), (7, 0)] one)) = true) r hr

/-- Matrix operands: two records, and block k0 of a run format. -/
def blocks (k0 run : Nat) : List (Nat × Dword) :=
  [(4, 0x30000), (5, 0x40000), (6, 1), (7, BitVec.ofNat 64 (k0 + run * 2 ^ 58))]

/-- Some insert meets its claim's hypotheses: the instruction, the accumulator's state and whether the run has begun. -/
def InsertMet (i : Pfx → BitVec 7 → BitVec 7 → Instr) (unit base : Nat) (s : State) (begun : Bool) : Prop :=
  ∃ c p f o pfx d a x ctl k0 cnt, ∃ run : Tag, Issuing s c ∧ QueueOpen s c ∧ Bound s c d.toNat x ∧
    Names (i pfx d a) s c p f o ∧ (run = 3 → d.toNat % 2 = 0 ∧ ∃ y, Bound s c (d.toNat + 1) y) ∧
    k0 = bits (quadS c a 3) 0 34 ∧ run = (quadS c a 3).extractLsb' 58 6 ∧ bits (quadS c a 3) 34 24 = 0 ∧
    (quadS c a 0).toNat % 64 = 0 ∧ (quadS c a 1).toNat % 64 = 0 ∧ k0 % unit = 0 ∧ 2 ≤ run.toNat ∧ run.toNat ≤ 3 ∧
    bits (quadS c a 2) 0 2 ≠ 3 ∧ bits (quadS c a 2) 2 6 = 0 ∧ bits (quadS c a 2) 32 32 = 0 ∧
    (if begun then accBase x.ctl ≠ 0 ∧ accBase x.ctl = base ∧ accFolded x.ctl = false ∧ k0 / unit = accM x.ctl + accC x.ctl ∧
      x.fmt = run ∧ accC x.ctl ≠ accSpan (accM x.ctl) ∧ ctl = mkCtl (accC x.ctl + 1) false base (accM x.ctl) (run == 3) ∧
      cnt = accC x.ctl
    else accBase x.ctl = 0 ∧ ctl = mkCtl 1 false base (k0 / unit) (run == 3) ∧ cnt = 0)

theorem witness_MatrixInserts :
    InsertMet .mmt 64 6 (engine [accWith 2 0 0] (blocks 128 2) one) false ∧
    InsertMet .mmt 64 6 (engine [accWith 2 (mkCtl 1 false 6 0 false) 2] (blocks 64 2) one) true ∧
    InsertMet .tcon 8 3 (engine [accWith 2 0 0, accWith 3 0 0] (blocks 0 3) one) false :=
  ⟨⟨_, _, _, _, .none, 2, 4, _, mkCtl 1 false 6 2 false, 128, 0, 2, issuing_of_ready (by decide +kernel),
      queue_open (by decide +kernel), bound_of (by decide +kernel), names_of_named (by decide +kernel), fun h => absurd h (by decide),
      by decide +kernel⟩,
    ⟨_, _, _, _, .none, 2, 4, _, mkCtl 2 false 6 0 false, 64, 1, 2, issuing_of_ready (by decide +kernel),
      queue_open (by decide +kernel), bound_of (by decide +kernel), names_of_named (by decide +kernel), fun h => absurd h (by decide),
      by decide +kernel⟩,
    ⟨_, _, _, _, .none, 2, 4, _, mkCtl 1 false 3 0 true, 0, 0, 3, issuing_of_ready (by decide +kernel),
      queue_open (by decide +kernel), bound_of (by decide +kernel), names_of_named (by decide +kernel),
      fun _ => ⟨by decide, _, bound_of (by decide +kernel)⟩, by decide +kernel⟩⟩

/-- A run of one block in accumulator 2. -/
def running : State := engine [accWith 2 (mkCtl 1 false 6 0 false) 2] [(2, 0x30000), (3, 0x50001)] described

theorem witness_AccumulatorCommands :
    let Met (i : Instr) (more : Ctx → Prop) : Prop := ∃ c p f o, Issuing running c ∧ QueueOpen running c ∧
      Bound running c 2 (teamAcc running 2) ∧ Names i running c p f o ∧ more c
    Met (.accZero slot1 2) (fun _ => True) ∧ Met (.accFold .none 2) (fun _ => (teamAcc running 2).oddOfRun = false) ∧
    Met (.accStore .none 2 3) (fun c => (teamAcc running 2).oddOfRun = false ∧ bits (srcS running c 3) 1 7 = 0 ∧
      (srcS running c 3).getLsbD 0 = true ∧ (teamAcc running 2).evenOfRun = false) ∧
    Met (.accCtrb .none 2 2) (fun c => ((teamAcc running 2).oddOfRun = false ∧ accFolded (teamAcc running 2).ctl = false) ∧
      DescHere (afterCommit running c) (committedCtx c) (srcS running c 2) 0x30000) ∧
    Met (.accLoad .none 2 3) (fun c => ((srcS running c 3).getLsbD 0 = true ∧ bits (srcS running c 3) 1 7 = 0) ∧
      issuePa (afterCommit running c) (committedCtx c) ((srcS running c 3).toNat / 256 * 256) 64 false = .ok 0x50000 ∧
      (imageHead (bytesAt (afterCommit running c).mem 0x50000 64)).ok = true ∧
      accPair (imageHead (bytesAt (afterCommit running c).mem 0x50000 64)).ctl = false) := by
  refine ⟨⟨_, _, _, _, issuing_of_ready (by decide +kernel), queue_open (by decide +kernel), bound_of (by decide +kernel),
      names_of_named (by decide +kernel), trivial⟩,
    ⟨_, _, _, _, issuing_of_ready (by decide +kernel), queue_open (by decide +kernel), bound_of (by decide +kernel),
      names_of_named (by decide +kernel), by decide +kernel⟩,
    ⟨_, _, _, _, issuing_of_ready (by decide +kernel), queue_open (by decide +kernel), bound_of (by decide +kernel),
      names_of_named (by decide +kernel), by decide +kernel⟩,
    ⟨_, _, _, _, issuing_of_ready (by decide +kernel), queue_open (by decide +kernel), bound_of (by decide +kernel),
      names_of_named (by decide +kernel), by decide +kernel, desc_here (gpa := 0x30000) (by decide +kernel)⟩,
    ⟨_, _, _, _, issuing_of_ready (by decide +kernel), queue_open (by decide +kernel), bound_of (by decide +kernel),
      names_of_named (by decide +kernel), by decide +kernel, ok_of (by decide +kernel), by decide +kernel⟩⟩

theorem witness_BindingAccumulators :
    (∃ d s c p f o tm, Issuing s c ∧ Names (.accBind d) s c p f o ∧ teamOf s c.g.gid c.g.team = some tm ∧
      c.mask = BitVec.allOnes 32 ∧ commitReady s c.g = true ∧ (accOf tm d.toNat).isSome = true) ∧
    (∃ d s c p f o tm gr, Issuing s c ∧ Names (.accBind d) s c p f o ∧ teamOf s c.g.gid c.g.team = some tm ∧
      gridOf s c.g.gid = some gr ∧ c.mask = BitVec.allOnes 32 ∧ commitReady s c.g = true ∧
      tm.accs.length < gr.record.accs ∧ (accOf tm d.toNat).isNone = true ∧
      (s.teams.all fun x => (accOf x d.toNat).isNone) = true ∧ bits (pregs s c.part).pacc 0 4 ≤ d.toNat ∧
      d.toNat < bits (pregs s c.part).pacc 0 4 + bits (pregs s c.part).pacc 4 5) :=
  ⟨⟨2, running, _, _, _, _, _, issuing_of_ready (by decide +kernel), names_of_named (by decide +kernel), rfl,
      by decide +kernel⟩,
    ⟨3, running, _, _, _, _, _, _, issuing_of_ready (by decide +kernel), names_of_named (by decide +kernel), rfl, rfl,
      by decide +kernel⟩⟩

/-- A queued command of the bench's team. -/
def queuedCmd (op : CmdOp) : Cmd :=
  ⟨0, 0, 0, 0, 0, op, none, none, .queued, false, 0, [], [], [], [], [], 0, 0, 0⟩

/-- The team's engine queue is full. -/
def full : State := { running with cmds := List.replicate 64 (queuedCmd (.plan 0)) }

theorem witness_FullQueueWaits :
    let Met (i : Instr) (more : Ctx → Prop) : Prop := ∃ c p f o, Issuing full c ∧ c.mask = BitVec.allOnes 32 ∧
      commitReady full c.g = true ∧
      64 ≤ (full.cmds.filter fun k => k.gid == c.g.gid && k.team == c.g.team && k.phase == .queued).length ∧
      Names i full c p f o ∧ more c
    Met (.cpyFill .none 3 4) (fun c => tagInRange full c 3 = true) ∧ Met (.engPlan .none 2) (fun _ => True) ∧
    Met (.accZero .none 2) (fun c => Bound full c 2 (teamAcc full 2)) :=
  ⟨⟨_, _, _, _, issuing_of_ready (by decide +kernel), by decide +kernel, by decide +kernel, by decide +kernel,
      names_of_named (by decide +kernel), by decide +kernel⟩,
    ⟨_, _, _, _, issuing_of_ready (by decide +kernel), by decide +kernel, by decide +kernel, by decide +kernel,
      names_of_named (by decide +kernel), trivial⟩,
    ⟨_, _, _, _, issuing_of_ready (by decide +kernel), by decide +kernel, by decide +kernel, by decide +kernel,
      names_of_named (by decide +kernel), bound_of (by decide +kernel)⟩⟩

/-- Some wait on tags meets its claim's hypotheses with a mask of tags. -/
def TagsMet (i : Instr) (m : Dword) (more : Dword → Dword → Prop) : Prop :=
  ∃ s c p f o, ∃ a : BitVec 7, Issuing s c ∧ Names i s c p f o ∧ a = 2 ∧ srcS s c a = m ∧ commitReady s c.g = true ∧
    (∀ n < 64, m.getLsbD n = true → tagInRange s c n = true) ∧ more m (tagsNow s c)

theorem witness_WaitingOnTags :
    TagsMet (.wtgAny 2) 0 (fun m _ => m = 0) ∧
    TagsMet (.wtgAny 2) 0x8008 (fun m one => ∃ n < 64, m.getLsbD n = true ∧ one.getLsbD n = false) ∧
    TagsMet (.wtgAny 2) 8 (fun m one => m ≠ 0 ∧ ∀ n < 64, m.getLsbD n = true → one.getLsbD n = true) ∧
    TagsMet (.wtgAll 2) 0x8001 (fun m one => ∀ n < 64, m.getLsbD n = true → one.getLsbD n = false) ∧
    TagsMet (.wtgAll 2) 8 (fun m one => ∃ n < 64, m.getLsbD n = true ∧ one.getLsbD n = true) ∧
    TagsMet (.wtgFirst 6 2) 0 (fun m _ => m = 0) ∧
    TagsMet (.wtgFirst 6 2) 0x8008 (fun m one => ∃ n < 64, m.getLsbD n = true ∧ one.getLsbD n = false ∧
      ∀ k < n, m.getLsbD k = true → one.getLsbD k = true) ∧
    TagsMet (.wtgFirst 6 2) 8 (fun m one => m ≠ 0 ∧ ∀ n < 64, m.getLsbD n = true → one.getLsbD n = true) ∧
    TagsMet (.wtgTest 70 2) 0xFFFF (fun _ _ => True) := by
  have t : ∀ (i : Instr) (m : Dword) (more : Dword → Dword → Prop), ready (engine [] [(2, m)] one) = true →
      named i (engine [] [(2, m)] one) = true →
      (srcS (engine [] [(2, m)] one) (ctxOf (engine [] [(2, m)] one)) 2 = m ∧
        commitReady (engine [] [(2, m)] one) (ctxOf (engine [] [(2, m)] one)).g = true ∧
        ∀ n < 64, m.getLsbD n = true → tagInRange (engine [] [(2, m)] one) (ctxOf (engine [] [(2, m)] one)) n = true) →
      more m (tagsNow (engine [] [(2, m)] one) (ctxOf (engine [] [(2, m)] one))) → TagsMet i m more :=
    fun i m more h1 h2 h3 h4 => ⟨_, _, _, _, _, _, issuing_of_ready h1, names_of_named h2, rfl, h3.1, h3.2.1, h3.2.2, h4⟩
  refine ⟨t _ _ _ ?_ ?_ ?_ ?_, t _ _ _ ?_ ?_ ?_ ⟨15, ?_⟩, t _ _ _ ?_ ?_ ?_ ?_, t _ _ _ ?_ ?_ ?_ ?_,
    t _ _ _ ?_ ?_ ?_ ⟨3, ?_⟩, t _ _ _ ?_ ?_ ?_ ?_, t _ _ _ ?_ ?_ ?_ ⟨15, ?_⟩, t _ _ _ ?_ ?_ ?_ ?_,
    t _ _ _ ?_ ?_ ?_ trivial⟩ <;> decide +kernel

theorem witness_SettingGuardSlots :
    let Met (a : BitVec 7) (issued : BitVec 32) (more : State → Ctx → Team → Prop) : Prop :=
      ∃ s c p f o tm, Issuing s c ∧ Names (.engGset a) s c p f o ∧ teamOf s c.g.gid c.g.team = some tm ∧
        issuePa (afterCommit s c) (committedCtx c) ((srcS s c a).toNat / 64 * 64) 64 true = .ok 0x30000 ∧
        c.mask = BitVec.allOnes 32 ∧ commitReady s c.g = true ∧ bits (srcS s c a) 3 3 = 0 ∧
        (vget tm.g (bits (srcS s c a) 0 3) slotZero).issued = issued ∧ more s c tm
    Met 2 2 (fun s c tm => (vget tm.g (bits (srcS s c 2) 0 3) slotZero).done = 2 ∧
      guardImageOk (afterCommit s c) (committedCtx c) (bytesAt (afterCommit s c).mem 0x30000 64) = true ∧
      inRetired s 0x30000 = false) ∧
    Met 2 3 (fun s c tm => (vget tm.g (bits (srcS s c 2) 0 3) slotZero).done = 2) := by
  let busy : GuardSlot := ⟨0, 0, 0, 0, 5, true, 3, 2, 0, 0⟩
  exact ⟨⟨engine [] [(2, 0x30001)] one, _, _, _, _, _, issuing_of_ready (by decide +kernel), names_of_named (by decide +kernel),
      rfl, ok_of (by decide +kernel), by decide +kernel⟩,
    ⟨onTeam (fun t => { t with g := vset t.g 1 busy }) (engine [] [(2, 0x30001)] one), _, _, _, _, _,
      issuing_of_ready (by decide +kernel), names_of_named (by decide +kernel), rfl, ok_of (by decide +kernel),
      by decide +kernel⟩⟩

/-- A launch record at 0x3_0000 of one team of 32 lanes from 0x2_0000, with what the words at 0x18 (a dependence), 8 (the
feature mask) and 0x40 (registers, and the count of arguments) are; its argument block is at 0x4000_0000. -/
def launching (dep feat w40 : Dword) (a : Dword) : State :=
  let s := write64 (write64 (write64 one 0x30000 0x20000) 0x30038 0x0101_0020_0000_0000) 0x30040 w40
  let s := write64 (write64 (write64 s 0x30018 dep) 0x30008 feat) 0x12008 0x4000_093B
  engine [] [(2, a)] (write64 s 0x30058 0x4000_0000)

/-- What a launch's record at 0x3_0000 answers. -/
def answers (s : State) (want : LaunchOut → Bool) : Bool :=
  match launchOutcome (afterCommit s (ctxOf s)) (committedCtx (ctxOf s)) (srcS s (ctxOf s) 2).toNat with
  | .ok x => want x
  | .error _ => false

/-- Some launch meets its claim's hypotheses with an outcome. -/
def LaunchMet (pfx : Pfx) (out : Bool) (is : LaunchOut → Prop) : Prop :=
  ∃ d a s c p f o x, Issuing s c ∧ Names (.engLaunch pfx d a) s c p f o ∧ QueueOpen s c ∧
    launchOutcome (afterCommit s c) (committedCtx c) (srcS s c a).toNat = .ok x ∧
    remoteOut (afterCommit s c) (committedCtx c).g = out ∧ is x ∧ (srcS s c a).toNat % 128 = 0 ∧
    (srcS s c a).toNat < 2 ^ 56 ∧ c.part < 12

theorem launch_met {pfx : Pfx} {out : Bool} {is : LaunchOut → Prop} (want : LaunchOut → Bool) (hw : ∀ x, want x = true → is x)
    (s : State) (h : ready s = true ∧ named (.engLaunch pfx 6 2) s = true) (hq : (ctxOf s).mask = BitVec.allOnes 32 ∧
      commitReady s (ctxOf s).g = true ∧ (s.cmds.filter fun k => k.gid == (ctxOf s).g.gid && k.team == (ctxOf s).g.team &&
        k.phase == .queued).length < 64) (ha : answers s want = true)
    (ho : remoteOut (afterCommit s (ctxOf s)) (committedCtx (ctxOf s)).g = out)
    (hb : (srcS s (ctxOf s) 2).toNat % 128 = 0 ∧ (srcS s (ctxOf s) 2).toNat < 2 ^ 56 ∧ (ctxOf s).part < 12) : LaunchMet pfx out is := by
  unfold answers at ha
  split at ha
  · next x hx =>
    exact ⟨6, 2, s, _, _, _, _, x, issuing_of_ready h.1, names_of_named h.2, queue_open hq, hx, ho, hw x ha, hb⟩
  · cases ha

/-- A launch was accepted; a launch was refused with a code, or for a page. -/
def isAccepted : LaunchOut → Bool
  | .accepted _ => true
  | .refused _ _ => false
def isRefused (code : Nat) (page : Option Nat) : LaunchOut → Bool
  | .accepted _ => false
  | .refused k p => k == code && p == page

theorem accepted_of (x : LaunchOut) (h : isAccepted x = true) : ∃ r, x = .accepted r := by
  cases x with
  | accepted r => exact ⟨r, rfl⟩
  | refused _ _ => cases h

theorem refused_of {k : Nat} {p : Option Nat} (x : LaunchOut) (h : isRefused k p x = true) : x = .refused k p := by
  cases x with
  | accepted r => cases h
  | refused a b =>
    simp only [isRefused, Bool.and_eq_true, beq_iff_eq] at h
    rw [h.1, h.2]

/-- A load of the group on path X is on its way (R333). -/
def loadOut (s : State) : State := { s with reqs := loading.reqs }

theorem witness_DeviceLaunches :
    LaunchMet .none true (fun x => ∃ r, x = .accepted r) ∧
    LaunchMet .none false (fun x => ∃ r, x = .accepted r) ∧ LaunchMet slot1 false (fun x => ∃ r, x = .accepted r) ∧
    LaunchMet .none false (fun x => x = .refused 4 none) ∧
    LaunchMet .none false (fun x => x = .refused 5 (some 0x4000_0000)) :=
  ⟨launch_met isAccepted accepted_of (loadOut (launching 0 0 32 0x30000)) (by decide +kernel) (by decide +kernel)
      (by decide +kernel) (by decide +kernel) (by decide +kernel),
    launch_met isAccepted accepted_of (launching 0 0 32 0x30000) (by decide +kernel) (by decide +kernel) (by decide +kernel)
      (by decide +kernel) (by decide +kernel),
    launch_met isAccepted accepted_of (launching 0 0 32 0x30000) (by decide +kernel) (by decide +kernel) (by decide +kernel)
      (by decide +kernel) (by decide +kernel),
    launch_met (isRefused 4 none) refused_of (launching 7 0 32 0x30000) (by decide +kernel) (by decide +kernel)
      (by decide +kernel) (by decide +kernel) (by decide +kernel),
    launch_met (isRefused 5 (some 0x4000_0000)) refused_of (launching 0 0 32 0x4000_0000) (by decide +kernel)
      (by decide +kernel) (by decide +kernel) (by decide +kernel) (by decide +kernel)⟩

/-- A read inside a page, one over two pages, and one whose second page is not resident. -/
theorem witness_LaunchReadsPages :
    let s := mapped
    let c := ctxOf s
    (∃ a n pa, n ≤ 4096 - a % 4096 ∧ issuePa s c a n false = .ok pa) ∧
    (∃ a n pa pb, 4096 - a % 4096 < n ∧ issuePa s c a (4096 - a % 4096) false = .ok pa ∧
      issuePa s c (a + (4096 - a % 4096)) (n - (4096 - a % 4096)) false = .ok pb) ∧
    (∃ a, a < 2 ^ 56 ∧ access s (coreTlb c.g.core) c.part c.g.gid a false false = .nonresident) ∧
    (∃ a n pa, 4096 - a % 4096 < n ∧ issuePa s c a (4096 - a % 4096) false = .ok pa ∧ a + (4096 - a % 4096) < 2 ^ 56 ∧
      access s (coreTlb c.g.core) c.part c.g.gid (a + (4096 - a % 4096)) false false = .nonresident) :=
  ⟨⟨0x30FC0, 64, 0x30FC0, by decide, ok_of (by decide +kernel)⟩,
    ⟨0x30FC0, 128, 0x30FC0, 0x31000, by decide, ok_of (by decide +kernel), ok_of (by decide +kernel)⟩,
    ⟨0x4000_0000, by decide, by decide +kernel⟩,
    ⟨0x3FFF_FFC0, 128, 0x3FFF_FFC0, by decide, ok_of (by decide +kernel), by decide, by decide +kernel⟩⟩

/-- The record of a launch that meets one clause of R315's list. -/
def RefusalMet (s : State) (more : List Byte → Prop) : Prop :=
  issuePa s (ctxOf s) 0x30000 128 false = .ok 0x30000 ∧ more (bytesAt s.mem 0x30000 128)

theorem witness_LaunchRefusals :
    (∃ (s : State) (c : Ctx) (va : Nat), ∃ page, launchRead s c va 128 = .ok (.absent page)) ∧
    (let s := modPregs (launching 0 0 32 0) 0 fun r => { r with dlquota := 0 }
     RefusalMet s fun _ => launchFull s (ctxOf s) = true) ∧
    (let s := launching 0 0 33 0
     RefusalMet s fun bs => launchFull s (ctxOf s) = false ∧ recordBad s (ctxOf s).part bs = true) ∧
    (let s := launching 0 0 0x0100_0000_0000_0020 0
     RefusalMet s fun bs => launchFull s (ctxOf s) = false ∧ recordBad s (ctxOf s).part bs = false ∧ recordArgc bs = 1 ∧
       okIs (launchRead s (ctxOf s) (recordArgs bs) 16) (.absent 0x4000_0000) = true) ∧
    (let s := launching 0 (2 ^ 40) 32 0
     RefusalMet s fun bs => launchFull s (ctxOf s) = false ∧ recordBad s (ctxOf s).part bs = false ∧ recordArgc bs = 0 ∧
       argsOf [] 0 = some [] ∧ featuresOk (recordOf bs).fmask = false) ∧
    (let s := launching 7 0 32 0
     RefusalMet s fun bs => launchFull s (ctxOf s) = false ∧ recordBad s (ctxOf s).part bs = false ∧ recordArgc bs = 0 ∧
       featuresOk (recordOf bs).fmask = true ∧ (7 : Dword) ∈ (recordOf bs).deps ∧
       (7 : Dword) ∉ grantedHandles s (ctxOf s).g.gid) ∧
    (let s := launching 0 0 32 0
     RefusalMet s fun bs => launchFull s (ctxOf s) = false ∧ recordBad s (ctxOf s).part bs = false ∧ recordArgc bs = 0 ∧
       featuresOk (recordOf bs).fmask = true ∧ (recordOf bs).deps = []) :=
  ⟨⟨mapped, ctxOf mapped, 0x4000_0000, 0x4000_0000, ok_of (by decide +kernel)⟩, ⟨ok_of (by decide +kernel), by decide +kernel⟩,
    ⟨ok_of (by decide +kernel), by decide +kernel⟩, ⟨ok_of (by decide +kernel), by decide +kernel⟩,
    ⟨ok_of (by decide +kernel), by decide +kernel⟩, ⟨ok_of (by decide +kernel), by decide +kernel⟩,
    ⟨ok_of (by decide +kernel), by decide +kernel⟩⟩

/-- A launch of the bench's grid, under handle 1. -/
def child (phase : GridPhase) : State :=
  let s := engine [] [(2, 1)] one
  let g : Grid := { benchGrid with gid := 7, handle := 1, phase := phase, outcome := 1 }
  { s with grids := (s.grids.map fun x => { x with children := [1] }) ++ [g] }

theorem witness_WaitingOnLaunches :
    let Met (s : State) (phase : GridPhase) : Prop := ∃ d a c p f o g, Issuing s c ∧ Names (.engWaitl d a) s c p f o ∧
      gridByHandle s c.part (srcS s c a) = some g ∧ c.mask = BitVec.allOnes 32 ∧ commitReady s c.g = true ∧
      srcS s c a ∈ grantedHandles s c.g.gid ∧ g.phase = phase
    Met (child .ended) .ended ∧ Met (child .pending) .pending :=
  ⟨⟨70, 2, _, _, _, _, _, issuing_of_ready (by decide +kernel), names_of_named (by decide +kernel), rfl, by decide +kernel⟩,
    ⟨6, 2, _, _, _, _, _, issuing_of_ready (by decide +kernel), names_of_named (by decide +kernel), rfl, by decide +kernel⟩⟩

end Sys2Proof.Tests

namespace Sys2Proof.Tests
open Sys2Proof Sys2Proof.Machine
set_option Elab.async false

/-! ## System operations and traps -/

/-- Some state in which the instruction i issues meets P. -/
def Fits (i : Instr) (P : State → Ctx → Pfx → WordF → Opnds → Prop) : Prop :=
  ∃ s c p f o, Issuing s c ∧ Names i s c p f o ∧ P s c p f o

theorem fits_at {i : Instr} {P : State → Ctx → Pfx → WordF → Opnds → Prop} (s : State)
    (h : (ready s && named i s) = true) (hp : P s (ctxOf s) (pfxOf i) (wordOf i) (opsOf i s)) : Fits i P := by
  obtain ⟨h1, h2⟩ := Bool.and_eq_true_iff.mp h
  exact ⟨s, _, _, _, _, issuing_of_ready h1, names_of_named h2, hp⟩

/-- The partition gives register blocks on each core. -/
def pool (n : Nat) (s : State) : State := modPregs s 0 fun r => { r with pblk := BitVec.ofNat 64 (n * 256) }
/-- The group holds blocks. -/
def holding (h : BitVec 11) (s : State) : State := onGroup (fun g => { g with held := h }) s

theorem witness_RegisterBlocks :
    (Fits (.sysRegacq 10) fun s c _ _ _ => commitReady s c.g = true ∧ c.g.held.getLsbD 10 = true) ∧
    (Fits (.sysRegacq 10) fun s c _ _ _ => commitReady s c.g = true ∧ c.g.held.getLsbD 10 = false ∧
      canGrant (afterCommit s c) { c.g with region := none } = true) ∧
    (Fits (.sysRegacq 0) fun s c _ _ _ => commitReady s c.g = true ∧ c.g.held.getLsbD 0 = false ∧
      canGrant (afterCommit s c) { c.g with region := none } = false) ∧
    (Fits (.sysRegrel 10) fun s c _ _ _ => commitReady s c.g = true) :=
  ⟨fits_at (holding 0x400 one) (by decide +kernel) (by decide +kernel), fits_at (pool 1 one) (by decide +kernel) (by decide +kernel),
    fits_at (pool 0 one) (by decide +kernel) (by decide +kernel), fits_at one (by decide +kernel) (by decide +kernel)⟩

theorem witness_SystemRegisters :
    (∀ k < 15, ∃ a : BitVec 7, Fits (.sysMovsr 8 a) fun s c _ _ _ => commitReady s c.g = true ∧
      ∃ gr e, gridOf s c.g.gid = some gr ∧ (specials s c gr.record.cw gr.record.chh)[k]? = some e ∧ a.toNat = e.1) ∧
    (Fits (.sysMovsr 79 90) fun s c _ _ _ => commitReady s c.g = true) ∧
    (∀ v : Fin 2, Fits (.sysMovcr 1) fun s c _ _ _ => commitReady s c.g = true ∧
      (srcS (afterCommit s c) (committedCtx c) 1).toNat = 3 + v.val) ∧
    (∀ v : Fin 2, Fits (.sysXiset 1) fun s c _ _ _ => commitReady s c.g = true ∧
      (srcS (afterCommit s c) (committedCtx c) 1).toNat = 119 + v.val) ∧
    (Fits (.sysStat 8) fun s c _ _ _ => commitReady s c.g = true) ∧ (Fits .sysNop fun s c _ _ _ => commitReady s c.g = true) ∧
    (Fits (.sysClk 64) fun s c _ _ _ => commitReady s c.g = true) := by
  have reads : ∀ k < 15, (commitReady one (ctxOf one).g && (List.range 128).any fun a =>
      (ready one && named (.sysMovsr 8 (BitVec.ofNat 7 a)) one) &&
      match gridOf one (ctxOf one).g.gid with
      | some gr => match (specials one (ctxOf one) gr.record.cw gr.record.chh)[k]? with
        | some e => (BitVec.ofNat 7 a).toNat == e.1
        | none => false
      | none => false) = true := by decide +kernel
  refine ⟨fun k hk => ?_, fits_at one (by decide +kernel) (by decide +kernel), ?_, ?_,
    fits_at one (by decide +kernel) (by decide +kernel), fits_at one (by decide +kernel) (by decide +kernel),
    fits_at one (by decide +kernel) (by decide +kernel)⟩
  · obtain ⟨h1, h2⟩ := Bool.and_eq_true_iff.mp (reads k hk)
    obtain ⟨a, -, ha⟩ := List.any_eq_true.mp h2
    obtain ⟨h3, h4⟩ := Bool.and_eq_true_iff.mp ha
    refine ⟨BitVec.ofNat 7 a, fits_at one h3 ⟨h1, ?_⟩⟩
    split at h4
    · next gr hg =>
      split at h4
      · next e he => exact ⟨gr, e, hg, he, beq_iff_eq.mp h4⟩
      · cases h4
    · cases h4
  · intro v
    exact fits_at (scalars [(1, BitVec.ofNat 64 (3 + v.val))] one) (by revert v; decide +kernel) (by revert v; decide +kernel)
  · intro v
    exact fits_at (scalars [(1, BitVec.ofNat 64 (119 + v.val))] one) (by revert v; decide +kernel) (by revert v; decide +kernel)

/-- The team has one stage bank. -/
def banked (b : Bank) (s : State) : State := onTeam (fun t => { t with banks := [b] }) s
def bank0 : Bank := ⟨0, 1, none, 0, 0, 0, none, [], []⟩

/-- sys.mode d to the mode m issues with the team tm; the bank it names, if any, meets P. -/
def ModeMet (d : BitVec 7) (P : Option Bank → Prop) : Prop :=
  Fits (.sysMode d 1) fun s c _ _ _ => commitReady s c.g = true ∧
    ∃ tm, teamOf s c.g.gid c.g.team = some tm ∧ (P none → tm.banks.length ≤ d.toNat) ∧ P (bankOf tm d.toNat)

theorem witness_BankModes :
    (ModeMet 1 fun x => x = none) ∧
    (ModeMet 0 fun x => ∃ b, x = some b ∧ b.target = none ∧ b.mode = (1 : BitVec 7).setWidth 2) ∧
    (ModeMet 0 fun x => ∃ b, x = some b ∧ b.target ≠ none) ∧
    (ModeMet 0 fun x => ∃ b, x = some b ∧ b.target = none ∧ b.mode ≠ (1 : BitVec 7).setWidth 2) := by
  have team : ∀ b : Bank, teamOf (banked b one) (ctxOf (banked b one)).g.gid (ctxOf (banked b one)).g.team =
      some { freshTeam State.reset benchGrid 0 0 0 0 [] with banks := [b] } := fun b => rfl
  refine ⟨fits_at (banked bank0 one) (by decide +kernel) ⟨by decide +kernel, _, team _, fun _ => by decide +kernel, by decide +kernel⟩,
    fits_at (banked bank0 one) (by decide +kernel) ⟨by decide +kernel, _, team _, fun h => by (obtain ⟨b, h, -⟩ := h; cases h),
      bank0, by decide +kernel⟩,
    fits_at (banked { bank0 with target := some (1, 0, 0) } one) (by decide +kernel) ⟨by decide +kernel, _, team _,
      fun h => by (obtain ⟨b, h, -⟩ := h; cases h), { bank0 with target := some (1, 0, 0) }, by decide +kernel⟩,
    fits_at (banked { bank0 with mode := 2 } one) (by decide +kernel) ⟨by decide +kernel, _, team _,
      fun h => by (obtain ⟨b, h, -⟩ := h; cases h), { bank0 with mode := 2 }, by decide +kernel⟩⟩

/-- The grid has a handler; s55 holds the base of the trap frames. -/
def handled (h base : Dword) (s : State) : State :=
  scalars [(55, base)] { s with grids := s.grids.map fun g => { g with record := { g.record with handler := h } } }
/-- The trap sys.trap 10. -/
def trap10 : Trp := ⟨9, 10, 0, 0xFFFFFFFF, true, [], []⟩
/-- The grid of the issuing split where the trap is entered. -/
def gridThere (s : State) : Grid := (gridOf (trapBase s (ctxOf s) trap10) (ctxOf s).g.gid).getD benchGrid

theorem grid_there {s : State} (h : (gridOf (trapBase s (ctxOf s) trap10) (ctxOf s).g.gid).isSome = true) :
    gridOf (trapBase s (ctxOf s) trap10) (ctxOf s).g.gid = some (gridThere s) := by
  obtain ⟨g, hg⟩ := Option.isSome_iff_exists.mp h
  simp [gridThere, hg]

theorem witness_TrapEntry :
    (∃ s c x gr pa, Issuing s c ∧ x.cause < 256 ∧ commitReady (trapPosted s c x) c.g = true ∧ Enters (trapBase s c x) c gr pa ∧ inRetired (trapBase s c x) pa = false ∧
      pa % 64 = 0) ∧
    (∃ s c x gr, Issuing s c ∧ x.cause < 256 ∧
      commitReady (trapPosted s c x) c.g = true ∧ gridOf (trapBase s c x) c.g.gid = some gr ∧ gr.phase ≠ .ended ∧ gr.phase ≠ .ending ∧
      gr.record.handler = 0) ∧
    (∀ k < 4, ∃ s c x gr, Issuing s c ∧ x.cause < 256 ∧
      commitReady (trapPosted s c x) c.g = true ∧ gridOf (trapBase s c x) c.g.gid = some gr ∧ gr.phase ≠ .ended ∧ gr.phase ≠ .ending ∧
      gr.record.handler ≠ 0 ∧ (
        (k = 0 ∧ 4 ≤ c.p.arch.link.length) ∨
        (k = 1 ∧ fetchable (trapBase s c x) (coreTlb c.g.core) c.part c.g.gid gr.record.handler.toNat = false) ∨
        (k = 2 ∧ frameAt c % 64 ≠ 0) ∨ (k = 3 ∧ writablePa (trapBase s c x) (coreTlb c.g.core) c.part c.g.gid (frameAt c) = none))) := by
  refine ⟨⟨handled 0x20100 0x30000 one, _, trap10, _, 0x30000, issuing_of_ready (by decide +kernel), by decide +kernel, by decide +kernel,
      ⟨grid_there (by decide +kernel), by decide +kernel, by decide +kernel, by decide +kernel, by decide +kernel,
        by decide +kernel⟩, by decide +kernel, by decide +kernel⟩,
    ⟨one, _, trap10, _, issuing_of_ready (by decide +kernel), by decide +kernel, by decide +kernel, grid_there (by decide +kernel),
      by decide +kernel, by decide +kernel, by decide +kernel⟩, fun k hk => ?_⟩
  match k, hk with
  | 0, _ => exact ⟨onSplit (fun p => { p with arch := { p.arch with link := [2, 4, 6, 8] } }) (handled 0x20100 0x30000 one), _, trap10, _, issuing_of_ready (by decide +kernel), by decide +kernel, by decide +kernel, grid_there (by decide +kernel),
      by decide +kernel, by decide +kernel, by decide +kernel, .inl (by decide +kernel)⟩
  | 1, _ => exact ⟨handled 0x4000_0000 0x30000 one, _, trap10, _, issuing_of_ready (by decide +kernel), by decide +kernel, by decide +kernel,
      grid_there (by decide +kernel), by decide +kernel, by decide +kernel, by decide +kernel, .inr (.inl (by decide +kernel))⟩
  | 2, _ => exact ⟨handled 0x20100 0x30020 one, _, trap10, _, issuing_of_ready (by decide +kernel), by decide +kernel, by decide +kernel,
      grid_there (by decide +kernel), by decide +kernel, by decide +kernel, by decide +kernel, .inr (.inr (.inl (by decide +kernel)))⟩
  | 3, _ => exact ⟨handled 0x20100 0x4000_0000 one, _, trap10, _, issuing_of_ready (by decide +kernel), by decide +kernel, by decide +kernel,
      grid_there (by decide +kernel), by decide +kernel, by decide +kernel, by decide +kernel, .inr (.inr (.inr (by decide +kernel)))⟩

/-- The split's link stack. -/
def linked (l : List Dword) (s : State) : State := onSplit (fun p => { p with arch := { p.arch with link := l } }) s

theorem witness_TrapInstructions :
    (Fits (.sysTrap 10) fun s c _ _ _ => commitReady s c.g = true) ∧
    (Fits (.sysBrk 10) fun s c _ _ _ => commitReady s c.g = true ∧ (pregs s c.part).pctl.getLsbD 1 = false) ∧
    (Fits (.sysBrk 10) fun s c _ _ _ => commitReady s c.g = true ∧ (pregs s c.part).pctl.getLsbD 1 = true ∧ c.part < 12 ∧
      (pregs s c.part).dbgsta.getLsbD 0 = false ∧ (teamOf s c.g.gid c.g.team).isSome = true) ∧
    (Fits .sysRte fun s c _ _ _ => commitReady s c.g = true ∧ ∃ below r, c.p.arch.link = below ++ [r] ∧ r.getLsbD 63 = true ∧
      r.getLsbD 0 = true ∧ r.extractLsb' 56 7 = 0) ∧
    (Fits .sysRte fun s c _ _ _ => commitReady s c.g = true ∧ c.p.arch.link = []) ∧
    (Fits .sysRte fun s c _ _ _ => commitReady s c.g = true ∧ ∃ below r, c.p.arch.link = below ++ [r] ∧
      ¬(r.getLsbD 63 = true ∧ r.getLsbD 0 = true ∧ r.extractLsb' 56 7 = 0)) :=
  ⟨fits_at one (by decide +kernel) (by decide +kernel), fits_at one (by decide +kernel) (by decide +kernel),
    fits_at (modPregs one 0 fun r => { r with pctl := 2 }) (by decide +kernel) (by decide +kernel),
    fits_at (linked [0x20008, 0x8000_0000_0002_0011] one) (by decide +kernel)
      ⟨by decide +kernel, [0x20008], 0x8000_0000_0002_0011, by decide +kernel⟩,
    fits_at one (by decide +kernel) (by decide +kernel),
    fits_at (linked [0x20008] one) (by decide +kernel) ⟨by decide +kernel, [], 0x20008, by decide +kernel⟩⟩


/-- Which check of R49 a lane instruction fails first: 1 an odd FP64 register, 2 a register not held, 3 a broken pair, 4 a
tag; 0 where it fails none. -/
def failing (r : LaneClaim) (s : State) : Nat :=
  let c := ctxOf s
  let o := opsOf r.form s
  let t := r.result (tagA c o) (readTag c o.c)
  let f64 := isF64 (tagA c o) && r.src (tagA c o)
  if !pairsEven c o t then 1
  else if !operandsHeld c o t r.wideB then 2
  else if brokenPair c false o.a || (r.wideB && brokenPair c f64 o.b) || brokenPair c f64 o.c then 3
  else if !(passesA c o r.src && r.accepts (tagA c o) (srcTag c o.b) (srcTag c o.c)) then 4
  else 0

/-- A claim's instruction issues and fails a check. -/
def LaneChecked (r : LaneClaim) (k : Nat) (fmm : Bool) : Prop :=
  ∃ s c p f o, Issuing s c ∧ Names r.form s c p f o ∧ commitReady s c.g = true ∧ failing r s = k ∧ c = ctxOf s ∧
    o = opsOf r.form s ∧ c.g.ctl.getLsbD 1 = fmm

theorem lane_checked {r : LaneClaim} {k : Nat} {fmm : Bool} (s : State)
    (h : (ready s && named r.form s) = true)
    (hp : commitReady s (ctxOf s).g = true ∧ failing r s = k ∧ (ctxOf s).g.ctl.getLsbD 1 = fmm) : LaneChecked r k fmm := by
  obtain ⟨h1, h2⟩ := Bool.and_eq_true_iff.mp h
  exact ⟨s, _, _, _, _, issuing_of_ready h1, names_of_named h2, hp.1, hp.2.1, rfl, rfl, hp.2.2⟩

theorem witness_LaneTraps :
    (∃ w, ∃ r ∈ intClaims w, LaneChecked r 1 false) ∧ (∃ w, ∃ r ∈ intClaims w, LaneChecked r 2 false) ∧
    (∃ w, ∃ r ∈ intClaims w, LaneChecked r 3 false) ∧ (∀ fmm, ∃ w, ∃ r ∈ intClaims w, LaneChecked r 4 fmm) := by
  refine ⟨⟨⟨.none, false, 0, 8, 2, 5⟩, _, List.mem_cons_self, lane_checked (regs [(2, 3, 0), (3, 3, 0), (5, 3, 0), (6, 3, 0)] one)
      (by decide +kernel) (by decide +kernel)⟩,
    ⟨⟨.none, false, 0, 40, 2, 4⟩, _, List.mem_cons_self, lane_checked one (by decide +kernel) (by decide +kernel)⟩,
    ⟨⟨.none, false, 0, 8, 2, 4⟩, _, List.mem_cons_self, lane_checked (regs [(2, 3, 0), (4, 3, 0), (5, 3, 0)] one) (by decide +kernel)
      (by decide +kernel)⟩, fun fmm => ?_⟩
  cases fmm
  · exact ⟨⟨.none, false, 0, 8, 2, 4⟩, _, List.mem_cons_self, lane_checked (regs [(2, 2, 0), (4, 2, 0)] one) (by decide +kernel) (by decide +kernel)⟩
  · exact ⟨⟨.none, false, 0, 8, 2, 4⟩, _, List.mem_cons_self, lane_checked (onGroup (fun g => { g with ctl := 2 })
      (regs [(2, 2, 0), (4, 2, 0)] one)) (by decide +kernel) (by decide +kernel)⟩

/-- Whether the access of a lane is denied. -/
def denied (s : State) (i : Instr) (n : Nat) (w r : Bool) (l : Nat) : Bool :=
  match placeOf s (ctxOf s) (laneAddr (ctxOf s) (pfxOf i) (opsOf i s).a l) n w r with
  | .ok _ => false
  | .error _ => true

theorem denied_at {s : State} {i : Instr} {n : Nat} {w r : Bool} {l : Nat} (h : denied s i n w r l = true) :
    ∃ es, placeOf s (ctxOf s) (laneAddr (ctxOf s) (pfxOf i) (opsOf i s).a l) n w r = .error es := by
  unfold denied at h
  split at h
  · cases h
  · next e he => exact ⟨e, he⟩

theorem granted_at {s : State} {i : Instr} {n : Nat} {w r : Bool} {l : Nat} (h : denied s i n w r l = false) :
    ∃ x, placeOf s (ctxOf s) (laneAddr (ctxOf s) (pfxOf i) (opsOf i s).a l) n w r = .ok x := by
  unfold denied at h
  split at h
  · next e he => exact ⟨e, he⟩
  · cases h

/-- A load of a byte, with the tag of the prefix. -/
def byteOf (tag : BitVec 7) : MemW := ⟨.op { OperandPfx.null with x := 2, c := tag }, 0, 8, 2, 0, 0⟩
/-- The load or the store of these fields. -/
def ldOrSt (load : Bool) (w : MemW) : Instr := if load then .ld w else .st w

/-- Two lanes here, two nowhere. -/
def half2 : State := narrow <| addressed (fun k => if k < 2 then 0x30000 else 0xC000_0000) mapped
/-- Every lane's address is above bits 55:0. -/
def above : State := narrow <| addressed (fun _ => 0x30000) (regs [(3, 0, 0x0100_0000)] mapped)
/-- Two lanes on a multiple of 8, two not. -/
def askew : State := narrow <| addressed (fun k => if k < 2 then 0x30000 else 0x30004) mapped

theorem witness_MemoryTraps :
    (∃ w, Fits (.ld w) fun s c p _ _ => commitReady s c.g = true ∧ widTag w.wid (loadTag p) = false) ∧
    (∀ load, ∃ w, Fits (ldOrSt load w) fun s c p _ o => commitReady s c.g = true ∧ widTag w.wid (loadTag p) = true ∧
      heldSpan c.g o.d (widRegs w.wid) = false) ∧
    (∀ load, ∃ w, Fits (ldOrSt load w) fun s c p _ o => commitReady s c.g = true ∧ widTag w.wid (loadTag p) = true ∧
      heldSpan c.g o.a 2 = false) ∧
    (∀ load, ∃ w, Fits (ldOrSt load w) fun s c p _ o => commitReady s c.g = true ∧ widTag w.wid (loadTag p) = true ∧
      heldSpan c.g o.d (widRegs w.wid) = true ∧ heldSpan c.g o.a 2 = true ∧ addrTags c o.a 2 = false) ∧
    (∀ load, ∃ w, Fits (ldOrSt load w) fun s c p f o => commitReady s c.g = true ∧ widTag w.wid (loadTag p) = true ∧
      Reaches c o (widRegs w.wid) 2 ∧ ∃ l < 32, (activeMask c p.operand f.guard).getLsbD l = true ∧
      2 ^ 56 ≤ laneAddr c p o.a l ∧
      ∀ k < l, (activeMask c p.operand f.guard).getLsbD k = true → ¬2 ^ 56 ≤ laneAddr c p o.a k) ∧
    (∀ load, ∃ w, Fits (ldOrSt load w) fun s c p f o => commitReady s c.g = true ∧ widTag w.wid (loadTag p) = true ∧
      Reaches c o (widRegs w.wid) 2 ∧ ∃ l < 32, (activeMask c p.operand f.guard).getLsbD l = true ∧
      laneAddr c p o.a l % widBytes w.wid ≠ 0 ∧
      (∀ k < l, (activeMask c p.operand f.guard).getLsbD k = true → ¬laneAddr c p o.a k % widBytes w.wid ≠ 0) ∧
      ∀ k < 32, (activeMask c p.operand f.guard).getLsbD k = true → ¬2 ^ 56 ≤ laneAddr c p o.a k) ∧
    (∀ load, ∃ w, Fits (ldOrSt load w) fun s c p f o => commitReady s c.g = true ∧ widTag w.wid (loadTag p) = true ∧
      Reaches c o (widRegs w.wid) 2 ∧
      (∀ l < 32, (activeMask c p.operand f.guard).getLsbD l = true →
        ¬2 ^ 56 ≤ laneAddr c p o.a l ∧ ¬laneAddr c p o.a l % widBytes w.wid ≠ 0) ∧
      ∃ l < 32, (activeMask c p.operand f.guard).getLsbD l = true ∧
        (∃ es, placeOf s c (laneAddr c p o.a l) (widBytes w.wid) (!load) load = .error es) ∧
        ∀ k < l, (activeMask c p.operand f.guard).getLsbD k = true →
          ∃ x, placeOf s c (laneAddr c p o.a k) (widBytes w.wid) (!load) load = .ok x) := by
  refine ⟨⟨byteOf 2, fits_at one (by decide +kernel) (by decide +kernel)⟩, fun load => ⟨{ mem8 with d := 38 }, ?_⟩,
    fun load => ⟨{ mem8 with a := 38 }, ?_⟩, fun load => ⟨mem8, ?_⟩, fun load => ⟨mem8, ?_⟩, fun load => ⟨mem8, ?_⟩, fun load => ⟨mem8, ?_⟩⟩
  · cases load <;> exact fits_at one (by decide +kernel) (by decide +kernel)
  · cases load <;> exact fits_at one (by decide +kernel) (by decide +kernel)
  · cases load <;> exact fits_at (regs [(3, 2, 0)] one) (by decide +kernel) (by decide +kernel)
  · cases load <;> exact fits_at above (by decide +kernel)
      ⟨by decide +kernel, by decide +kernel, reaches_of (by decide +kernel), 0, by decide +kernel⟩
  · cases load <;> exact fits_at askew (by decide +kernel)
      ⟨by decide +kernel, by decide +kernel, reaches_of (by decide +kernel), 16, by decide +kernel⟩
  · have below : ∀ i n w r, ((List.range 16).all fun k => !denied half2 i n w r k) = true → ∀ k < 16,
        ∃ x, placeOf half2 (ctxOf half2) (laneAddr (ctxOf half2) (pfxOf i) (opsOf i half2).a k) n w r = .ok x :=
      fun i n w r h k hk => granted_at (by simpa using List.all_eq_true.mp h k (List.mem_range.mpr hk))
    cases load
    · exact fits_at half2 (by decide +kernel) ⟨by decide +kernel, by decide +kernel, reaches_of (by decide +kernel),
        by decide +kernel, 16, by decide +kernel, by decide +kernel, denied_at (by decide +kernel),
        fun k hk _ => below _ _ _ _ (by decide +kernel) k hk⟩
    · exact fits_at half2 (by decide +kernel) ⟨by decide +kernel, by decide +kernel, reaches_of (by decide +kernel),
        by decide +kernel, 16, by decide +kernel, by decide +kernel, denied_at (by decide +kernel),
        fun k hk _ => below _ _ _ _ (by decide +kernel) k hk⟩

end Sys2Proof.Tests

namespace Sys2Proof.Tests
open Sys2Proof Sys2Proof.Machine
set_option Elab.async false

/-! ## Filter instructions -/

/-- Owner 0 has resources 0 and 1 of each kind. -/
def owns (s : State) : State :=
  modPregs s 0 fun r => { r with
    lnresa := BitVec.ofNat 64 (2 * 2 ^ 6 + 2 * 2 ^ 21 + 2 * 2 ^ 38 + 2 * 2 ^ 53)
    lnresb := BitVec.ofNat 64 (2 * 2 ^ 6 + 2 * 2 ^ 17) }

/-- A filter of n instructions that binds its objects 0 to the owner's objects 1. -/
def filterOf (idx n : Nat) : LnFilter :=
  ⟨idx, 0, 1 :: List.replicate 15 0xFF, 1 :: List.replicate 3 0xFF, 1 :: List.replicate 3 0xFF, List.replicate 16 5,
    List.replicate n .filterEnd, List.replicate 16 0, 0⟩
/-- An event. -/
def event0 : TapEv := ⟨7, 3, 0, 0, 99⟩
/-- Its invocation of a filter of n instructions, the first of them running. -/
def invoked (n : Nat) (s : State) : State :=
  { owns s with lantern := { s.lantern with filters := [filterOf 1 n], run := some (LnRun.start (filterOf 1 n) event0) } }

theorem running_invoked (n : Nat) (s : State) : Running (invoked n s) (LnRun.start (filterOf 1 n) event0) (filterOf 1 n) :=
  ⟨rfl, rfl⟩

/-- Both where an instruction is the filter's last and where it is not. -/
theorem witness_FilterArithmetic : ∀ last : Bool, ∃ s r F, Running s r F ∧ (F.code.length ≤ r.pc + 1 ↔ last = true) := by
  intro last
  cases last
  · exact ⟨_, _, _, running_invoked 2 State.reset, by decide⟩
  · exact ⟨_, _, _, running_invoked 1 State.reset, by decide⟩

theorem witness_FilterObjectsAndBranches :
    ∃ s r F, Running s r F ∧ bound s r .hist LnFilter.hist 0 = some 1 ∧ bound s r .hist LnFilter.hist 15 = none ∧
      bound s r .sketch LnFilter.sketch 0 = some 1 ∧ bound s r .sketch LnFilter.sketch 3 = none :=
  ⟨_, _, _, running_invoked 3 State.reset, by decide +kernel⟩

/-- Trigger 1 of owner 0. -/
def trigger (actions : BitVec 3) (armed : Bool) : LnTrigger := ⟨1, 0, actions, some 1, 5, armed, 0⟩
/-- An invocation with Lantern changed. -/
def withLn (f : Lantern → Lantern) (s : State) : State := { s with lantern := f s.lantern }

theorem witness_FilterTriggersAndEnd :
    (∃ s r F t, Running s r F ∧ bound s r .trig LnFilter.trigs t = none) ∧
    (∃ s r F t x, Running s r F ∧ bound s r .trig LnFilter.trigs t = some x ∧
      (s.lantern.trigs.find? fun y => y.idx == x) = none) ∧
    (∀ armed frozen : Bool, ∃ s r F t x g b, Running s r F ∧ bound s r .trig LnFilter.trigs t = some x ∧
      (s.lantern.trigs.find? fun y => y.idx == x) = some g ∧ g.armed = armed ∧ g.actions = 7 ∧ g.owner < 13 ∧
      g.trace = some b ∧ (lnTrace s b).frozen = frozen) ∧
    (∃ s r F t x g, Running s r F ∧ bound s r .trig LnFilter.trigs t = some x ∧
      (s.lantern.trigs.find? fun y => y.idx == x) = some g ∧ g.armed = true ∧ g.actions.getLsbD 0 = false ∧ g.trace = none) ∧
    (∃ s r F i ev rest G, Running s r F ∧ s.lantern.todo = (i, ev) :: rest ∧ lnFilter s i = some G ∧ r.owner < 13 ∧
      G.code.length ≤ (lnOwner s G.owner).bucket - (if G.owner = r.owner then r.executed + 1 else 0)) ∧
    (∃ s r F, Running s r F ∧ s.lantern.todo = [] ∧ r.owner < 13) := by
  refine ⟨⟨_, _, _, 3, running_invoked 1 State.reset, by decide +kernel⟩,
    ⟨_, _, _, 0, 1, running_invoked 1 State.reset, by decide +kernel⟩, fun armed frozen =>
      ⟨invoked 1 (withLn (fun l => { l with trigs := [trigger 7 armed], traces := [⟨1, frozen, 0, []⟩] }) State.reset), _, _, 0, 1,
        trigger 7 armed, 1, running_invoked 1 _, by revert armed frozen; decide +kernel⟩,
    ⟨invoked 1 (withLn (fun l => { l with trigs := [{ trigger 2 true with trace := none }] }) State.reset), _, _, 0, 1,
      { trigger 2 true with trace := none }, running_invoked 1 _, by decide +kernel⟩,
    ⟨withLn (fun l => { l with todo := [(1, event0)] }) (modOwner (invoked 1 State.reset) 0 fun o => { o with bucket := 2 }), _,
      filterOf 1 1, 1, event0, [],
      filterOf 1 1, ⟨rfl, rfl⟩, by decide +kernel⟩,
    ⟨_, _, _, running_invoked 1 State.reset, by decide +kernel⟩⟩

end Sys2Proof.Tests

namespace Sys2Proof.Tests
open Sys2Proof Sys2Proof.Machine
set_option Elab.async false

/-! ## Events of splits -/

/-- The bench's split waits in the instruction i. -/
def waitingIn (i : Instr) (s : State) : State :=
  onSplit (fun p => { p with waitsIn := some i, arch := { p.arch with state := .onEvent } })
    { s with cur := some ⟨⟨0, 0, 0⟩, 0, 0⟩ }

/-- It does. -/
def waitsHere (i : Instr) (s : State) : Bool :=
  match groupAt s 0 0 with
  | some g => (splitIn g 0).arch.state == .onEvent && (splitIn g 0).waitsIn == some i
  | none => false
/-- The bench's group. -/
def groupOne (s : State) : Group := (groupAt s 0 0).getD (ctxOf s).g

theorem group_one {s : State} (h : (groupAt s 0 0).isSome = true) : groupAt s 0 0 = some (groupOne s) := by
  obtain ⟨g, hg⟩ := Option.isSome_iff_exists.mp h
  simp [groupOne, hg]

theorem waits_here {i : Instr} {s : State} (h : waitsHere i s = true) : WaitsIn s 0 0 0 (groupOne s) i := by
  unfold waitsHere at h
  split at h
  · next g hg =>
    simp only [Bool.and_eq_true, beq_iff_eq] at h
    have : groupOne s = g := by simp [groupOne, hg]
    rw [this]
    exact ⟨hg, h.1, h.2⟩
  · cases h

/-- A split waits in i, and P holds of what it reads. -/
def WaitMet (i : Instr) (P : State → Group → Prop) : Prop := ∃ s g, WaitsIn s 0 0 0 g i ∧ P s g

theorem wait_met {i : Instr} {P : State → Group → Prop} (s : State) (h : waitsHere i (waitingIn i s) = true)
    (hp : P (waitingIn i s) (groupOne (waitingIn i s))) : WaitMet i P := ⟨_, _, waits_here h, hp⟩


/-- A full queue. -/
def fullQueue (n : Nat) (s : State) : State :=
  { s with cmds := (List.range n).map fun k => { queuedCmd (.plan 0) with cid := k } }

/-- The state in which a fence of a scope waits, or has what it waits for. -/
def fencing (scope : Fin 3) (isOver : Bool) : State := if isOver then later else if scope = 0 then loading else pending

/-- The fence or the fencex of a scope. -/
def fenceOf (ordered : Bool) (scope : BitVec 3) : Instr := if ordered then .fencex .none 0 4 scope 0 else .fence .none scope 0

theorem fence_over {s : State} {g : Group} {scope : Fin 3} (h : (s.ticks.all fun x => !(x.core == g.core && x.gslot == g.gslot)) =
    true ∧ g.hz.toNat < s.time.toNat ∧ remoteQuiet s g.gid g.team = true ∧ remoteOut s g = false) :
    FenceOver s (readCtx s g 0) (BitVec.ofNat 3 (2 + scope.val)) true := by
  have hz : HzPassed s (readCtx s g 0) := hz_passed ⟨h.1, h.2.1⟩
  unfold FenceOver
  split
  · exact ⟨hz, h.2.2.1⟩
  · exact ⟨fun _ => hz, fun _ _ => h.2.2.2⟩

/-- Each group has accesses on path X out, or ticks on their way. -/
theorem fence_waits {s : State} {g : Group} {scope : Fin 3} (h : if scope.val = 0 then remoteOut s g = true
    else (s.ticks.any fun x => x.core == g.core && x.gslot == g.gslot) = true) :
    ¬FenceOver s (readCtx s g 0) (BitVec.ofNat 3 (2 + scope.val)) true := by
  intro ho
  match scope, h with
  | 0, h =>
    have h2 := ho.2 (by decide) rfl
    simp only [readCtx] at h2
    exact absurd (show remoteOut s g = true from h) (by rw [h2]; decide)
  | 1, h => exact hz_waits (s := s) (c := readCtx s g 0) h (ho.1 rfl)
  | 2, h => exact hz_waits (s := s) (c := readCtx s g 0) h ho.1

theorem witness_WaitsEnd :
    (∀ ordered isOver : Bool, ∀ scope : Fin 3, WaitMet (fenceOf ordered (BitVec.ofNat 3 (2 + scope.val))) fun s g =>
      (FenceOver s (readCtx s g 0) (BitVec.ofNat 3 (2 + scope.val)) true ↔ isOver = true)) ∧
    (∀ i ∈ [Instr.wtgAny 1, .wtgFirst 2 1], ∀ v : Fin 2, WaitMet i fun s g =>
      srcS s (readCtx s g 0) 1 = BitVec.ofNat 64 v.val ∧ tagsNow s (readCtx s g 0) = 8) ∧
    (WaitMet (.wtgAll 1) fun s g => srcS s (readCtx s g 0) 1 = 3 ∧ tagsNow s (readCtx s g 0) = 8) ∧
    (∀ ended : Bool, WaitMet (.engWaitl 2 1) fun s g => ∃ gr, gridByHandle s (readCtx s g 0).part (srcS s (readCtx s g 0) 1) = some gr ∧
      (gr.phase = .ended ↔ ended = true)) ∧
    (∀ done : Bool, WaitMet (.engGset 1) fun s g => ∃ tm, teamOf s g.gid g.team = some tm ∧
      ((vget tm.g (bits (srcS s (readCtx s g 0) 1) 0 3) slotZero).issued =
        (vget tm.g (bits (srcS s (readCtx s g 0) 1) 0 3) slotZero).done ↔ done = true)) ∧
    (∀ full : Bool, ∃ pfx d a, ∃ i ∈ queuedForms pfx d a, WaitMet i fun s g =>
      (∀ r ∈ s.reqs, r.kind ≠ .desc 0 0 (readCtx s g 0).mask) ∧
      ((s.cmds.filter fun k => k.gid == g.gid && k.team == g.team && k.phase == .queued).length < 64 ↔ full = false)) ∧
    (∀ here : Bool, WaitMet (.engLaunch .none 1 4) fun s g =>
      ((∃ x ∈ s.descs, x.core = 0 ∧ x.gslot = 0 ∧ x.lanes = (readCtx s g 0).mask) ↔ here = true)) := by
  refine ⟨fun ordered isOver scope => ?_, fun i hi v => ?_, ?_, fun ended => ?_, fun done => ?_, fun full => ?_, fun here => ?_⟩
  · cases isOver
    · exact wait_met (fencing scope false) (by revert ordered scope; decide +kernel)
        ⟨fun h => absurd h (fence_waits (by clear h; revert ordered scope; decide +kernel)), fun h => by cases h⟩
    · exact wait_met (fencing scope true) (by revert ordered scope; decide +kernel)
        ⟨fun _ => rfl, fun _ => fence_over (by revert ordered scope; decide +kernel)⟩
  · simp only [List.mem_cons, List.not_mem_nil, or_false] at hi
    rcases hi with rfl | rfl
    · exact wait_met (scalars [(1, BitVec.ofNat 64 v.val)] (engine [] [] one)) (by revert v; decide +kernel) (by revert v; decide +kernel)
    · exact wait_met (scalars [(1, BitVec.ofNat 64 v.val)] (engine [] [] one)) (by revert v; decide +kernel) (by revert v; decide +kernel)
  · exact wait_met (engine [] [(1, 3)] one) (by decide +kernel) (by decide +kernel)
  · cases ended
    · exact wait_met (scalars [(1, 0)] one) (by decide +kernel) ⟨benchGrid, by decide +kernel⟩
    · exact wait_met (scalars [(1, 0)] { one with grids := [{ benchGrid with phase := .ended }] }) (by decide +kernel)
        ⟨{ benchGrid with phase := .ended }, by decide +kernel⟩
  · cases done
    · exact wait_met (scalars [(1, 1)] (onTeam (fun t => { t with g := vset t.g 1 ⟨0, 0, 0, 0, 5, true, 3, 2, 0, 0⟩ }) one))
        (by decide +kernel) ⟨_, rfl, by decide +kernel⟩
    · exact wait_met (scalars [(1, 1)] (engine [] [] one)) (by decide +kernel) ⟨_, rfl, by decide +kernel⟩
  · refine ⟨.none, 1, 4, .engLaunch .none 1 4, by decide, ?_⟩
    cases full
    · exact wait_met (fullQueue 63 one) (by decide +kernel) ⟨fun r hr => by (cases hr), by decide +kernel⟩
    · exact wait_met (fullQueue 64 one) (by decide +kernel) ⟨fun r hr => by (cases hr), by decide +kernel⟩
  · cases here
    · exact wait_met one (by decide +kernel) ⟨fun ⟨x, hx, _⟩ => by (cases hx), fun h => by (cases h)⟩
    · exact wait_met { one with descs := [⟨0, 0, 0xFFFF_FFFF, none, 0, 0, 0⟩] } (by decide +kernel)
        ⟨fun _ => rfl, fun _ => ⟨⟨0, 0, 0xFFFF_FFFF, none, 0, 0, 0⟩, List.mem_singleton.mpr rfl, rfl, rfl, by decide +kernel⟩⟩

/-- An access of a FIFO bank waits in the instruction i, with a condition on the bank. -/
def FifoMet2 (i : MemW → Instr) (fits : Bank → Nat → Prop) : Prop :=
  ∃ (w : MemW) (s : State) (g : Group) (c : Ctx) (p : Pfx) (f : WordF) (o : Opnds) (place : Nat → Nat × Nat × Nat) (tm k : Nat)
    (b : Bank), WaitsIn s 0 0 0 g (i w) ∧ c = readCtx s g 0 ∧ Names (i w) s c p f o ∧
    StageReach s c (activeMask c p.operand f.guard) (stageOffset c p o.a) (widBytes w.wid) 2#2 place ∧
    stageBank s g.gid tm k = some b ∧
    (∀ l < 32, (activeMask c p.operand f.guard).getLsbD l = true → (place l).1 = tm ∧ (place l).2.1 = k) ∧
    b.mode = 2#2 ∧ fits b (widBytes w.wid * (lanesIn (activeMask c p.operand f.guard)).length)

theorem ctx_read {s : State} (h : s.cur = some ⟨⟨0, 0, 0⟩, 0, 0⟩ ∧ (groupAt s 0 0).isSome = true ∧ (groupOne s).core = 0 ∧
    (groupOne s).gslot = 0) : ctxOf s = readCtx s (groupOne s) 0 := by
  obtain ⟨hc, hg, h1, h2⟩ := h
  obtain ⟨g, hg⟩ := Option.isSome_iff_exists.mp hg
  have : groupOne s = g := by simp [groupOne, hg]
  rw [this] at h1 h2 ⊢
  simp [ctxOf, readCtx, splitIn, hc, hg, h1, h2]

theorem witness_FifoWaitsEnd :
    FifoMet2 .lds (fun b n => n = b.count) ∧ FifoMet2 .lds (fun b n => n = b.count + 1) ∧
    FifoMet2 .sts (fun b n => b.count + n = 65536) ∧ FifoMet2 .sts (fun b n => b.count + n = 65537) :=
  ⟨⟨lds8, waitingIn (.lds lds8) (staged 2 256 256 one), _, _, _, _, _, _, 0, 0, _, waits_here (by decide +kernel), ctx_read (by decide +kernel),
      names_of_named (by decide +kernel), stage_reach (by decide +kernel), rfl, by decide +kernel⟩,
    ⟨lds8, waitingIn (.lds lds8) (staged 2 255 255 one), _, _, _, _, _, _, 0, 0, _, waits_here (by decide +kernel), ctx_read (by decide +kernel),
      names_of_named (by decide +kernel), stage_reach (by decide +kernel), rfl, by decide +kernel⟩,
    ⟨sts4, waitingIn (.sts sts4) (staged 2 65408 65408 one), _, _, _, _, _, _, 0, 0, _, waits_here (by decide +kernel),
      ctx_read (by decide +kernel), names_of_named (by decide +kernel), stage_reach (by decide +kernel), rfl, by decide +kernel⟩,
    ⟨sts4, waitingIn (.sts sts4) (staged 2 65409 65409 one), _, _, _, _, _, _, 0, 0, _, waits_here (by decide +kernel),
      ctx_read (by decide +kernel), names_of_named (by decide +kernel), stage_reach (by decide +kernel), rfl, by decide +kernel⟩⟩

/-- The bench's split has yielded at cycle 5; these lanes must still issue. -/
def yielding (others : Mask) : State := onSplit (fun p => { p with yielded := some (5, others) }) one

/-- A request of the bench's split for block 10. -/
def asks : RegWait := ⟨0, 0, 0xFFFF_FFFF, 10, 0⟩
/-- One of a group of partition 1 in the slot beside it. -/
def asks1 : RegWait := ⟨0, 1, 0xFFFF_FFFF, 10, 0⟩

/-- Partition 1 has a group of its own on core 0, slot 1, and no register block to give. -/
def beside (s : State) : State :=
  { s with
    grids := s.grids ++ [{ benchGrid with gid := 1, part := 1 }]
    teams := s.teams ++ s.teams.map fun t => { t with gid := 1, part := 1 }
    groups := s.groups ++ [{ groupOne one with gslot := 1, gid := 1 }] }

/-- The bench's split is parked. -/
def parkedOne (s : State) : State :=
  onGroup (fun g => { g with
    splits := vset g.splits 0 Split.free
    parked := [⟨{ (splitAt g 0).arch with state := .onRegacq }, none, 0, none, none, none, none⟩] }) s

/-- The bench's grid reserves a block more than its group holds. -/
def reserving (s : State) : State := { s with grids := [{ benchGrid with record := { benchRec with regs := 40 } }] }

/-- The bench's split asks for a block that its reservation or the pool can give, behind another or not, parked or not. -/
def asking (others past parked : Bool) : State :=
  let s := if past then reserving one else pool 1 one
  let s := if parked then parkedOne s else s
  if others then { beside s with regWaits := [asks1, asks] } else { s with regWaits := [asks] }

theorem witness_YieldsAndGrantsEnd :
    (∀ k : Fin 3, ∃ s g at' others, groupAt s 0 0 = some g ∧ (splitIn g 0).yielded = some (at', others) ∧
      (at' + 256 ≤ s.clk.toNat ↔ k = 1) ∧ (others = 0 ↔ k = 2)) ∧
    (∀ others past parked : Bool, ∃ s w pre post g e, s.regWaits = pre ++ w :: post ∧ (pre ≠ [] ↔ others = true) ∧
      (∀ x ∈ pre, x.core = w.core → ∃ g', groupAt s x.core x.gslot = some g' ∧ partOf s g' ≠ partOf s g ∧
        ¬(g'.held.getLsbD x.block = true ∨ heldBlocks g' < reservedBlocks s g'.gid ∨
          0 < freeBlocks s x.core (partOf s g'))) ∧
      groupAt s w.core w.gslot = some g ∧ (splitIn g e).arch.mask = w.lanes ∧ (splitIn g e).live = true ∧
      (∀ j < e, ¬((splitIn g j).arch.mask = w.lanes ∧ (splitIn g j).live = true)) ∧ w.block < 11 ∧
      g.held.getLsbD w.block = false ∧ (e = 4 ↔ parked = true) ∧
      (if past then heldBlocks g < reservedBlocks s g.gid else 0 < freeBlocks s w.core (partOf s g))) := by
  refine ⟨fun k => ⟨{ yielding (if k = 2 then 0 else 2) with clk := if k = 1 then 261 else 260 }, _, 5, _, rfl, rfl, ?_, ?_⟩,
    fun others past parked => ⟨asking others past parked, asks, if others then [asks1] else [], [],
      groupOne (asking others past parked), if parked then 4 else 0, ?_⟩⟩
  · revert k; decide +kernel
  · revert k; decide +kernel
  · have pre : ∀ x ∈ (if others then [asks1] else []), x.core = asks.core → ∃ g', groupAt (asking others past parked) x.core x.gslot = some g' ∧
        partOf (asking others past parked) g' ≠ partOf (asking others past parked) (groupOne (asking others past parked)) ∧
        ¬(g'.held.getLsbD x.block = true ∨ heldBlocks g' < reservedBlocks (asking others past parked) g'.gid ∨
          0 < freeBlocks (asking others past parked) x.core (partOf (asking others past parked) g')) := by
      cases others
      · simp
      · intro x hx _
        obtain rfl : x = asks1 := by simpa using hx
        refine ⟨{ groupOne one with gslot := 1, gid := 1 }, ?_, ?_, ?_⟩ <;> cases past <;> cases parked <;> decide +kernel
    refine ⟨?_, ?_, pre, group_one ?_, ?_, ?_, ?_, by decide, ?_, ?_, ?_⟩ <;> revert others past parked <;> decide +kernel

/-- Four resident splits that issued in turn, entry 2 the longest ago, and two parked ones. -/
def crowded (st : SplitState) (time : Dword) : State :=
  { onGroup (fun g =>
      let p (n : Nat) : Split := { splitAt g 0 with
        lastIssue := some n, arch := { (splitAt g 0).arch with state := st } }
      let q (a : Dword) (st : SplitState) : Parked := ⟨{ (splitAt g 0).arch with pc := a, state := st }, none, 0, none, none, none, none⟩
      { g with
        splits := vset (vset (vset (vset g.splits 0 (p 9)) 1 (p 8)) 2 (p 3)) 3 (p 7)
        parked := [q 0x20400 .onEvent, q 0x20800 .ready], rotated := 36 }) one with
    clk := 100, time := time }

theorem witness_SplitsRotate : ∀ old : Bool, ∃ (s : State) (g : Group) (i e : Nat) (p : Parked), groupAt s 0 0 = some g ∧
    (∀ k < 4, (splitAt g k).live = true ∧ (splitAt g k).arch.state ≠ .atRejoin) ∧
    (∀ x ∈ g.parked, x.arch.state ≠ .atRejoin ∧ x.arch.state ≠ .free) ∧ g.rotated + 64 ≤ s.clk.toNat ∧ g.parked[i]? = some p ∧
    (if old then (p.arch.state = .ready ∧ 8000 ≤ ageOf s.time.toNat p.since p.idle) ∧
        ∀ j < i, ∀ x, g.parked[j]? = some x → ¬(x.arch.state = .ready ∧ 8000 ≤ ageOf s.time.toNat x.since x.idle)
      else (∀ k < 4, (splitAt g k).arch.state ≠ .ready) ∧
        (∀ x ∈ g.parked, ¬(x.arch.state = .ready ∧ 8000 ≤ ageOf s.time.toNat x.since x.idle)) ∧ p.arch.state = .ready ∧
        ∀ j < i, ∀ x, g.parked[j]? = some x → x.arch.state ≠ .ready) ∧
    e < 4 ∧ (splitAt g e).chain = 0 ∧ (∀ k < 4, (splitAt g k).chain = 0 → k ≠ e →
      recency (splitAt g e).lastIssue (splitAt g e).since < recency (splitAt g k).lastIssue (splitAt g k).since) := by
  have first : ∀ (s : State), (∀ j < 1, ((groupOne s).parked[j]?.all fun x => x.arch.state != .ready) = true) →
      ∀ j < 1, ∀ x, (groupOne s).parked[j]? = some x → x.arch.state ≠ .ready := by
    intro s h j hj x hx
    have := h j hj
    rw [hx] at this
    simpa using this
  intro old
  cases old
  · refine ⟨crowded .atBarrier 7999, groupOne (crowded .atBarrier 7999), 1, 2, ⟨{ (splitAt (groupOne one) 0).arch with pc := 0x20800 }, none, 0, none, none, none, none⟩, group_one (by decide +kernel),
      by decide +kernel, by decide +kernel, by decide +kernel, by decide +kernel, ?_, by decide +kernel, by decide +kernel, by decide +kernel⟩
    exact ⟨by decide +kernel, by decide +kernel, by decide +kernel, first _ (by decide +kernel)⟩
  · refine ⟨crowded .ready 8000, groupOne (crowded .ready 8000), 1, 2, ⟨{ (splitAt (groupOne one) 0).arch with pc := 0x20800 }, none, 0, none, none, none, none⟩, group_one (by decide +kernel),
      by decide +kernel, by decide +kernel, by decide +kernel, by decide +kernel, ?_, by decide +kernel, by decide +kernel, by decide +kernel⟩
    exact ⟨by decide +kernel, fun j hj x hx h => first _ (by decide +kernel) j hj x hx h.1⟩

/-- An instruction's halfwords at an address. -/
def stands (a : Nat) (i : Instr) (s : State) : State :=
  { s with mem := setBytes s.mem a ((encode i).flatMap fun h => bytesOfNat 2 h.toNat) }

/-- Two splits of the bench's group, at instructions i and j, the second having issued longer ago. -/
def pairAt (i j : Instr) : State :=
  stands 0x20000 i <| stands 0x20100 j <| onGroup (fun g => { g with
    splits := vset (vset g.splits 0 { splitAt g 0 with lastIssue := some 9 }) 1
      { splitAt g 0 with lastIssue := some 3, arch := { (splitAt g 0).arch with pc := 0x20100 } } }) one

/-- A candidate of the bench's group. -/
def candOf (s : State) (e : Nat) : Cand := ⟨groupOne s, e, splitAt (groupOne s) e⟩

theorem least_second {a b : Cand} {P : Cand → Prop} (hb : P b) (h : b.recency < a.recency) : Least [a, b] P b := by
  refine ⟨by simp, hb, fun x hx _ hne => ?_⟩
  simp only [List.mem_cons, List.not_mem_nil, or_false] at hx
  rcases hx with rfl | rfl
  · exact h
  · exact absurd rfl hne

/-- The bench's group is alone in issue slot 0 of core 0; the splits of its entries es, in order, may issue. -/
def onlyOne (s : State) (es : List Nat) : Bool :=
  (groupAt s 0 0).isSome && ((List.range 15).all fun k => (groupAt s 0 (4 * (k + 1))).isNone) &&
    (List.range 4).filter (isCandidate s (groupOne s)) == es && (List.range 4).all fun e => !reachesRejoin (splitAt (groupOne s) e)

theorem only_one {s : State} {es : List Nat} (h : onlyOne s es = true) : candidates s 0 0 = es.map (candOf s) ∧
    ∀ k < 16, ∀ g, groupAt s 0 (4 * k + 0) = some g → ∀ e < 4, reachesRejoin (splitAt g e) = false := by
  simp only [onlyOne, Bool.and_eq_true, beq_iff_eq] at h
  obtain ⟨⟨⟨h1, h2⟩, h3⟩, h4⟩ := h
  obtain ⟨g, hg⟩ := Option.isSome_iff_exists.mp h1
  have hg' : groupOne s = g := by simp [groupOne, hg]
  rw [hg'] at h3 h4
  have none : ∀ k, k < 15 → groupAt s 0 (4 * (k + 1)) = .none := fun k hk => by
    simpa using List.all_eq_true.mp h2 k (List.mem_range.mpr hk)
  refine ⟨?_, fun k hk g' hk' e he => ?_⟩
  · have split : List.range 16 = 0 :: (List.range 15).map (· + 1) := by decide
    rw [candidates, split, List.flatMap_cons]
    refine (congrArg _ (List.flatMap_eq_nil_iff.mpr fun k hk => ?_)).trans ?_
    · obtain ⟨j, hj, rfl⟩ := List.mem_map.mp hk
      rw [Nat.add_zero, none j (List.mem_range.mp hj)]
    rw [List.append_nil]
    simp only [Nat.mul_zero, Nat.add_zero, hg, h3]
    exact List.map_congr_left fun e _ => by rw [candOf, hg']
  · match k with
    | 0 =>
      rw [hg] at hk'
      cases hk'
      simpa using List.all_eq_true.mp h4 e (List.mem_range.mpr he)
    | j + 1 =>
      rw [Nat.add_zero, none j (by omega)] at hk'
      cases hk'

/-- Which split is first, and why. -/
def FirstMet (s : State) (f : Cand) : Prop :=
  (∀ k < 16, ∀ g, groupAt s 0 (4 * k + 0) = some g → ∀ e < 4, reachesRejoin (splitAt g e) = false) ∧
    FirstOf s 0 0 (candidates s 0 0) f

/-- The instruction that stands where a candidate's split is. -/
def fetched (s : State) (f : Cand) : Instr := (f.instr s).getD .ret

theorem fetched_at {s : State} {f : Cand} (h : (f.instr s).isSome = true) : f.instr s = some (fetched s f) := by
  obtain ⟨i, hi⟩ := Option.isSome_iff_exists.mp h
  simp [fetched, hi]

/-- The second entry is first among two splits neither aged nor bound, and the first entry the only other. -/
theorem second_first {s : State} (h : onlyOne s [0, 1] = true)
    (hb : (∀ e < 2, boundSplit (candOf s e).p = false ∧ ¬Aged s (candOf s e)) ∧ slotHeld s 0 0 = false ∧
      (candOf s 1).recency < (candOf s 0).recency ∧ classOfGrid s (groupOne s).gid < 4) :
    FirstMet s (candOf s 1) ∧ OnlyOther (candidates s 0 0) (candOf s 1) (candOf s 0) := by
  obtain ⟨hc, hr⟩ := only_one h
  have two : ∀ x ∈ [candOf s 0, candOf s 1], x = candOf s 0 ∨ x = candOf s 1 := fun x hx => by simpa using hx
  rw [FirstMet, hc]
  refine ⟨⟨hr, .inr (.inr ⟨fun x hx => ?_, hb.2.1, least_second ⟨hb.2.2.2, fun y hy => ?_⟩ hb.2.2.1⟩)⟩, by simp, rfl,
    by simp [candOf], fun x hx _ he => ?_⟩
  · rcases two x hx with rfl | rfl
    · exact hb.1 0 (by decide)
    · exact hb.1 1 (by decide)
  · rcases two y hy with rfl | rfl <;> exact Nat.le_refl _
  · rcases two x hx with rfl | rfl
    · rfl
    · exact absurd rfl he

/-- The bench's split continues a chain; it has reached the age of 16 µs. -/
def chained : State := onSplit (fun p => { p with chain := 1 }) one
def aged : State := { one with time := 16000 }

theorem witness_IssueChoosesSplits :
    (∃ s, candidates s 0 0 = [] ∧
      ∀ k < 16, ∀ g, groupAt s 0 (4 * k + 0) = some g → ∀ e < 4, reachesRejoin (splitAt g e) = false) ∧
    (∃ s f, FirstMet s f ∧ boundSplit f.p = true) ∧
    (∃ s f, FirstMet s f ∧ boundSplit f.p = false ∧ Aged s f) ∧
    (∃ s f, FirstMet s f ∧ ∀ x ∈ candidates s 0 0, x.g.gslot = f.g.gslot → x.entry = f.entry) ∧
    (∀ k : Fin 3, ∃ s f p i j, FirstMet s f ∧ OnlyOther (candidates s 0 0) f p ∧ f.instr s = some i ∧ p.instr s = some j ∧
      (pairable i && pairable j) = (k != 0) ∧ (k = 1 → portClash i j = false) ∧ (k = 2 → portClash i j = true)) := by
  refine ⟨⟨State.reset, by decide +kernel, fun k _ g hg => by cases hg⟩, ?_, ?_, ?_, fun k => ?_⟩
  · obtain ⟨hc, hr⟩ := only_one (s := chained) (es := [0]) (by decide +kernel)
    refine ⟨chained, candOf chained 0, ⟨hr, .inl ?_⟩, by decide +kernel⟩
    rw [hc]
    exact ⟨by simp, by decide +kernel, fun x hx _ hne => absurd (by simpa using hx) hne⟩
  · obtain ⟨hc, hr⟩ := only_one (s := aged) (es := [0]) (by decide +kernel)
    refine ⟨aged, candOf aged 0, ⟨hr, .inr (.inl ?_)⟩, by decide +kernel, by unfold Aged; decide +kernel⟩
    rw [hc]
    exact ⟨fun x hx => by rw [show x = candOf aged 0 by simpa using hx]; decide +kernel, by decide +kernel, by simp, by unfold Aged; decide +kernel,
      fun x hx _ hne => absurd (by simpa using hx) hne⟩
  · obtain ⟨hc, hr⟩ := only_one (s := one) (es := [0]) (by decide +kernel)
    refine ⟨_, candOf one 0, ⟨hr, .inr (.inr ?_)⟩, ?_⟩
    · rw [hc]
      exact ⟨fun x hx => by rw [show x = candOf one 0 by simpa using hx]; unfold Aged; decide +kernel, by decide +kernel, by simp,
        ⟨by decide +kernel, fun y hy => by obtain rfl := (show y = candOf one 0 by simpa using hy); exact Nat.le_refl _⟩,
        fun x hx _ hne => absurd (by simpa using hx) hne⟩
    · rw [hc]
      exact fun x hx _ => by rw [show x = candOf one 0 by simpa using hx]
  · match k with
    | 0 =>
      obtain ⟨h1, h2⟩ := second_first (s := pairAt .sysNop .sysNop) (by decide +kernel) (by unfold Aged; decide +kernel)
      exact ⟨_, _, _, _, _, h1, h2, fetched_at (by decide +kernel), fetched_at (by decide +kernel), by decide +kernel⟩
    | 1 =>
      obtain ⟨h1, h2⟩ := second_first (s := pairAt (.ld mem8) (.sadd ⟨.none, false, 1, 2, 3⟩)) (by decide +kernel) (by unfold Aged; decide +kernel)
      exact ⟨_, _, _, _, _, h1, h2, fetched_at (by decide +kernel), fetched_at (by decide +kernel), by decide +kernel⟩
    | 2 =>
      obtain ⟨h1, h2⟩ := second_first (s := pairAt (.ld mem8) (.ld mem8)) (by decide +kernel) (by unfold Aged; decide +kernel)
      exact ⟨_, _, _, _, _, h1, h2, fetched_at (by decide +kernel), fetched_at (by decide +kernel), by decide +kernel⟩

/-- What an issuer's instruction leaves, and its group there. -/
def issued (s : State) (x : Issuer) : State :=
  match issueOne s x with
  | .next t => t
  | .fault _ => s
  | .refused _ => s

/-- It goes on. -/
def goesOn (s : State) (x : Issuer) : Bool :=
  match issueOne s x with
  | .next _ => true
  | .fault _ => false
  | .refused _ => false

theorem issued_at {s : State} {x : Issuer} (h : goesOn s x = true) : issueOne s x = .next (issued s x) := by
  unfold goesOn at h
  unfold issued
  split at h
  · next t ht => rw [ht]
  · cases h
  · cases h

/-- The bench's group, where an issuer's instruction leaves it. -/
def groupThere (s : State) (x : Issuer) : Group := groupOne (issued s x)

/-- The two splits of pairAt, put in turn together. -/
def both (i j : Instr) : State :=
  { regs [(2, 2, 0x3F80_0000), (3, 2, 0x3F80_0000), (4, 0, 1), (5, 0, 2)] (pairAt i j) with
    turn := [] ++ [⟨0, 0, 0⟩, ⟨0, 0, 1⟩], cur := none }

/-- One split makes v8 FP32 and the other adds into it; the first, the second and neither of the splits does so. -/
def fpAdd : Instr := .fadd ⟨.none, false, 0, 8, 2, 3⟩
def intAdd : Instr := .add ⟨.none, false, 0, 8, 4, 5⟩

/-- The hypotheses of the claim, but for what the two instructions do. -/
theorem shared_met {i j : Instr} {P : Group → Group → Group → Prop}
    (h : (goesOn (both i j) ⟨0, 0, 0⟩ && goesOn (both i j) ⟨0, 0, 1⟩ && (groupAt (both i j) 0 0).isSome &&
      (groupAt (issued (both i j) ⟨0, 0, 0⟩) 0 0).isSome && (groupAt (issued (both i j) ⟨0, 0, 1⟩) 0 0).isSome) = true)
    (hp : P (groupOne (both i j)) (groupThere (both i j) ⟨0, 0, 0⟩) (groupThere (both i j) ⟨0, 0, 1⟩)) :
    ∃ s tx ty turn x y g hx hy, s.turn = turn ++ [x, y] ∧ y.core = x.core ∧ y.gslot = x.gslot ∧ y.entry ≠ x.entry ∧
      x.entry < 4 ∧ y.entry < 4 ∧ groupAt s x.core x.gslot = some g ∧ issueOne s x = .next tx ∧ issueOne s y = .next ty ∧
      groupAt tx x.core x.gslot = some hx ∧ groupAt ty x.core x.gslot = some hy ∧ P g hx hy := by
  simp only [Bool.and_eq_true] at h
  obtain ⟨⟨⟨⟨h1, h2⟩, h3⟩, h4⟩, h5⟩ := h
  exact ⟨both i j, issued _ _, issued _ _, [], ⟨0, 0, 0⟩, ⟨0, 0, 1⟩, _, _, _, rfl, rfl, rfl, by decide, by decide, by decide,
    group_one h3, issued_at h1, issued_at h2, group_one h4, group_one h5, hp⟩

theorem witness_SharedPorts :
    let Met (P : Group → Group → Group → Prop) : Prop :=
      ∃ s tx ty turn x y g hx hy, s.turn = turn ++ [x, y] ∧ y.core = x.core ∧ y.gslot = x.gslot ∧ y.entry ≠ x.entry ∧
        x.entry < 4 ∧ y.entry < 4 ∧ groupAt s x.core x.gslot = some g ∧ issueOne s x = .next tx ∧ issueOne s y = .next ty ∧
        groupAt tx x.core x.gslot = some hx ∧ groupAt ty x.core x.gslot = some hy ∧ P g hx hy
    Met (fun g hx hy => ∀ n < 120, tagOf hx n = tagOf g n ∧ tagOf hy n = tagOf g n) ∧
    Met (fun g hx hy => ∃ n < 120, tagOf hx n ≠ tagOf g n ∧ vreg hy n ≠ vreg g n) ∧
    Met (fun g hx hy => ∃ n < 120, tagOf hy n ≠ tagOf g n ∧ vreg hx n ≠ vreg g n) :=
  ⟨shared_met (i := intAdd) (j := intAdd) (by decide +kernel) (by decide +kernel),
    shared_met (i := fpAdd) (j := intAdd) (by decide +kernel) ⟨8, by decide +kernel⟩,
    shared_met (i := intAdd) (j := fpAdd) (by decide +kernel) ⟨8, by decide +kernel⟩⟩

end Sys2Proof.Tests

namespace Sys2Proof.Tests
open Sys2Proof Sys2Proof.Machine
set_option Elab.async false

/-! ## Events of stores, banks and translations -/

theorem first_in {α : Type} {P : α → Prop} {x : α} {post : List α} (h : P x) : FirstIn (x :: post) P x post :=
  ⟨[], post, rfl, rfl, h, fun _ h => by cases h⟩

theorem first_after {α : Type} {P : α → Prop} {y x : α} (hy : ¬P y) (h : P x) : FirstIn [y, x] P x [y] :=
  ⟨[y], [], rfl, rfl, h, fun z hz => by rw [List.mem_singleton.mp hz]; exact hy⟩

/-- A line of the bench's team in core 0's buffer, full or due. -/
def line0 (full : Bool) : RwcLine :=
  ⟨0, 0, 0, 7, 3, 5, if full then (List.range 256).map fun i => (i, 1) else [(4, 9)], [(1, 0, 0, 2)], 500, 10, 0, 1⟩

theorem witness_StoresFinish :
    (∃ s x rest g, FirstIn s.ticks (fun y => y.core = x.core ∧ y.gslot = x.gslot) x rest ∧ rest ≠ [] ∧
      groupAt s x.core x.gslot = some g) ∧
    (∀ full : Bool, ∃ s r rest tm, FirstIn s.rwc (fun y => y.core = r.core ∧
        (y.cells.length = 256 ∨ y.entered + y.age < s.time.toNat) ∧ chanRoom s y.dev (BitVec.ofNat 2 y.cls) 1 = true) r rest ∧
      teamOf s r.gid r.team = some tm ∧ (r.cells.length = 256 ↔ full = true)) := by
  refine ⟨⟨{ one with ticks := [⟨1, 0, 4⟩, ⟨0, 0, 7⟩] }, ⟨0, 0, 7⟩, _, _, first_after (by decide) (by decide), by decide, rfl⟩,
    fun full => ?_⟩
  cases full
  · exact ⟨{ one with time := 511, rwc := [line0 false] }, line0 false, [], _, first_in (by decide +kernel), rfl, by decide⟩
  · exact ⟨{ one with time := 0, rwc := [line0 true] }, line0 true, [], _, first_in (by decide +kernel), rfl, by decide +kernel⟩

/-- The bench's team with one bank. -/
def teamWith (b : Bank) : Team := { freshTeam State.reset benchGrid 0 0 0 0 [] with banks := [b] }

/-- The bank switches for the bench's split, resident or parked, and nothing of it is left to be performed. -/
def switching (mode : BitVec 2) (parked : Bool) : State :=
  let s := banked { bank0 with target := some (mode, 0, 0xFFFF_FFFF) } one
  if parked then parkedOne s else s

theorem bank_idle {s : State} {bank : Nat} (h : s.cmds = [] ∧ s.groups = [groupOne s] ∧
    ((List.range 5).all fun e => (splitIn (groupOne s) e).fifo.isNone) = true ∧ (groupOne s).parked.length ≤ 1 ∧
    (groupOne s).region = none) : BankIdle s 0 0 bank := by
  obtain ⟨h1, h2, h3, h4, h5⟩ := h
  refine ⟨by simp [h1], fun g hg _ e x hx => ?_, fun g hg _ r hr => ?_⟩
  · obtain rfl : g = groupOne s := by simpa [h2] using hg
    by_cases he : e < 5
    · have := List.all_eq_true.mp h3 e (List.mem_range.mpr he)
      simp [hx] at this
    · have : (groupOne s).parked[e - 4]? = none := List.getElem?_eq_none (by omega)
      rw [splitIn, if_neg (by omega), this] at hx
      cases hx
  · obtain rfl : g = groupOne s := by simpa [h2] using hg
    rw [h5] at hr
    cases hr

theorem witness_BanksTakeTheirMode : ∀ (mode : BitVec 2) (parked : Bool), ∃ (s : State) (tm : Team) (i gslot e : Nat)
    (lanes : Mask) (b : Bank) (g : Group), teamOf s tm.gid tm.team = some tm ∧
    tm.phase ≠ .saved ∧ tm.banks[i]? = some b ∧ b.target = some (mode, gslot, lanes) ∧
    (∀ x ∈ s.teams, x.core = tm.core → x.phase ≠ .saved → ∀ c ∈ x.banks, c.phys = b.phys → c.target.isSome = true → x = tm) ∧
    (∀ j c, tm.banks[j]? = some c → c.phys = b.phys → c.target.isSome = true → j = i) ∧
    BankIdle s tm.gid tm.team i ∧ groupAt s tm.core gslot = some g ∧ (splitIn g e).arch.mask = lanes ∧
    (splitIn g e).live = true ∧ (∀ j < e, ¬((splitIn g j).arch.mask = lanes ∧ (splitIn g j).live = true)) ∧
    (e = 4 ↔ parked = true) := by
  intro mode parked
  have team : (switching mode parked).teams = [teamWith { bank0 with target := some (mode, 0, 0xFFFF_FFFF) }] := by
    cases parked <;> rfl
  refine ⟨switching mode parked, teamWith { bank0 with target := some (mode, 0, 0xFFFF_FFFF) }, 0, 0,
    if parked then 4 else 0, 0xFFFF_FFFF, { bank0 with target := some (mode, 0, 0xFFFF_FFFF) }, groupOne (switching mode parked),
    ?_, fun h => by (cases h), rfl, rfl, fun x hx _ _ c _ _ _ => ?_, fun j c hj _ _ => ?_, bank_idle ?_, group_one ?_, ?_, ?_, ?_, ?_⟩
  · rw [teamOf, team]; rfl
  · rw [team] at hx; exact List.mem_singleton.mp hx
  · match j with
    | 0 => rfl
    | j + 1 => cases hj
  all_goals revert mode parked; decide +kernel

/-- An invalidation of a kind runs, and another waits or does not. -/
def invalidating (kind : Nat) (more : Bool) (s : State) : State :=
  modSched s 0 fun p => { p with tinv := (BitVec.ofNat 64 (1 + 2 * kind), 0x10) :: if more then [(1, 0)] else [] }

theorem groups_one {s : State} (h : s.groups.length = 1 ∧ (s.groups.all fun g => g.isAt 0 0) = true) : s.groups = [groupOne s] := by
  obtain ⟨g, hg⟩ := List.length_eq_one_iff.mp h.1
  have hi : g.isAt 0 0 = true := List.all_eq_true.mp h.2 g (by simp [hg])
  simp [groupOne, groupAt, hg, hi]

theorem group_of {s : State} (h : (groupAt s 0 0).isSome = true ∧ (groupOne s).core = 0 ∧ (groupOne s).gslot = 0) :
    groupAt s (groupOne s).core (groupOne s).gslot = some (groupOne s) := by
  obtain ⟨g, hg⟩ := Option.isSome_iff_exists.mp h.1
  rw [h.2.1, h.2.2, hg, groupOne, hg]
  rfl

/-- One is to commit the bench's open region. -/
def struck (kind : Nat) : State := invalidating kind false (inRegion 2 one)

theorem witness_InvalidationsRunAndEnd :
    (∀ kind : Fin 4, ∀ more : Bool, ∃ s c a rest, (psched s 0).tinv = (c, a) :: rest ∧ bits c 1 2 = kind ∧
      (rest = [] ↔ more = false) ∧ (bits c 1 2 = 3 ∨ TinvClear s 0 (bits c 1 2) (tinvRange a))) ∧
    (∀ kind : Fin 3, ∃ (s : State) (c a : Dword) (rest : List (Dword × Dword)) (g : Group), (psched s 0).tinv = (c, a) :: rest ∧ bits c 1 2 = kind ∧ bits c 1 2 ≠ 3 ∧
      regionsHit s 0 (bits c 1 2) (tinvRange a) = [g] ∧ groupAt s g.core g.gslot = some g ∧ commitReady s g = true) := by
  constructor
  · intro kind more
    refine ⟨invalidating kind more one, BitVec.ofNat 64 (1 + 2 * kind), 0x10, if more then [(1, 0)] else [],
      by revert kind more; decide +kernel, by revert kind; decide +kernel, by revert more; decide, ?_⟩
    refine Or.inr ⟨by revert kind more; decide +kernel, fun k hk => by (cases hk), fun l hl => by (cases hl), fun q hq => by (cases hq),
      fun q hq => by (cases hq), fun x hx => by (cases hx), fun x hx => by (cases hx), fun x hx => by (cases hx)⟩
  · intro kind
    have hit : regionsHit (struck kind) 0 kind (tinvRange 0x10) = (struck kind).groups :=
      List.filter_eq_self.mpr (List.all_eq_true.mp (by revert kind; decide +kernel))
    have same : bits (BitVec.ofNat 64 (1 + 2 * kind.val)) 1 2 = kind.val := by revert kind; decide +kernel
    exact ⟨struck kind, BitVec.ofNat 64 (1 + 2 * kind), 0x10, [], groupOne (struck kind), by revert kind; decide +kernel, same,
      by rw [same]; omega, by simp only [same]; exact hit.trans (groups_one (by revert kind; decide +kernel)), group_of (by revert kind; decide +kernel), by revert kind; decide +kernel⟩

/-! ## Events of reductions -/

/-- The address's descriptor is open with id 5. -/
def open5 : RedOpen := ⟨5, 0, 0x30000, [0x40000], [], false, [0x0201, 8, 0x40000, 0, 1 + 5 * 2 ^ 40, 0], false, none⟩
/-- A leaf of its tree of eight leaves, and a node. -/
def leaf (i : Nat) : Frag := { frag0 with label := mkLabel 5 0 i }
def node (level i : Nat) : Frag := { frag0 with label := mkLabel 5 level i }
/-- It is open, and its partition has entries. -/
def opened (n : Nat) : State :=
  modPregs { write64 described 0x30020 (1 + 5 * 2 ^ 40) with reds := [open5] } 0 fun r => { r with
    ppair := 8, slent := BitVec.ofNat 64 n, bvcfg := 4 + 2 * 2 ^ 8, bvbase := 0x100000 }

theorem at_slice {s : State} {f : Frag} (h : openRed s f = some open5 ∧ sliceBusy s f.pa = false ∧ f.format = false ∧
    nodeInRange f.n (labelLevel f.label) (labelIndex f.label) = true ∧ softWritten s (redNow s open5) = false ∧ f.dup = false ∧
    f.orphan = false ∧ s.sliceHeld = [] ∧ bvFind s 0 (homeSlice 0x30000) f.label f.fno = none ∧
    bvFind s 0 (homeSlice 0x30000) (siblingLabel f.label) f.fno = none) : AtSlice s f open5 := by
  obtain ⟨h1, h2, h3, h4, h5, h6, h7, h8, h9, h10⟩ := h
  exact ⟨h1, h2, h3, h4, h5, h6, h7, fun x hx => by (rw [h8] at hx; cases hx), h9, h10⟩

theorem inner {f : Frag} (h : f.format = false ∧ f.isRoot = false ∧ f.siblingAbsent = false) : Inner f := ⟨h.1, h.2.1, h.2.2⟩

theorem witness_FragmentsPair : ∃ f g : Frag, labelIndex f.label % 2 = 0 ∧ labelIndex g.label = labelIndex f.label + 1 ∧
    f.fmt = g.fmt ∧ f.absent = false ∧ g.absent = false ∧ fragElems f.tile f.fmt * ewidth f.fmt ≤ 512 ∧
    ∀ e < fragElems f.tile f.fmt,
      (treeNode (redOpOf f.op) f.fmt (fragElem f.fmt f.data e) (fragElem f.fmt g.data e)).1 < 2 ^ ewidth f.fmt :=
  ⟨leaf 6, leaf 7, by decide +kernel⟩

theorem witness_FragmentsMeetInTheCore :
    (∀ room : Bool, ∃ s core f rest, s.flights = ⟨.core, core, f, none⟩ :: rest ∧ underTest s core = false ∧ Inner f ∧
      (openRed s f).isSome = true ∧ (∀ h ∈ heldIn s core, f.same h = false ∧ f.sibling h = false) ∧
      (coreUsed s core (some f.part) < bits (pregs s f.part).ppair 0 9 ∧ coreUsed s core none < 256 ∧ fenced s core = false ↔
        room = true)) ∧
    (∃ s core f rest, s.flights = ⟨.core, core, f, none⟩ :: rest ∧ underTest s core = false ∧ Inner f ∧ f.remote.isSome = true ∧
      (∀ h ∈ heldIn s core, f.same h = false ∧ f.sibling h = false)) ∧
    (∃ s core f rest g, s.flights = ⟨.core, core, f, none⟩ :: rest ∧ underTest s core = false ∧ Inner f ∧
      (openRed s f).isSome = true ∧ g ∈ heldIn s core ∧
      (∀ h ∈ heldIn s core, f.same h = false ∧ (f.sibling h = true → h = g)) ∧ f.sibling g = true ∧ g.format = false ∧
      Inner (pairFrags f g) ∧ ∀ h ∈ heldIn s core, (pairFrags f g).same h = false ∧ (pairFrags f g).sibling h = false) ∧
    (∃ s core f rest g, s.flights = ⟨.core, core, f, none⟩ :: rest ∧ underTest s core = false ∧ Inner f ∧
      (openRed s f).isSome = true ∧ g ∈ heldIn s core ∧
      (∀ h ∈ heldIn s core, f.same h = false ∧ (f.sibling h = true → h = g)) ∧ f.sibling g = true ∧ g.format = false ∧
      (pairFrags f g).isRoot = true ∧ ∀ h ∈ heldIn s core, (pairFrags f g).same h = false) ∧
    (∃ (s : State) (core : Nat) (h : CoreHeld) (others : List CoreHeld), FirstIn s.coreHeld (fun x => x.core = core) h others ∧
      (∀ x ∈ others, x.core = core → h.frag.same x.frag = false) ∧ h.frag.same h.frag = true) := by
  refine ⟨fun room => ?_, ?_, ?_, ?_, ?_⟩
  · cases room
    · exact ⟨{ modPregs (opened 1) 0 (fun r => { r with ppair := 0 }) with flights := [⟨.core, 3, leaf 1, none⟩] }, 3, leaf 1, [],
        rfl, by decide +kernel, inner (by decide +kernel), by decide +kernel, fun h hh => by (cases hh), by decide +kernel⟩
    · exact ⟨{ opened 1 with flights := [⟨.core, 3, leaf 1, none⟩] }, 3, leaf 1, [], rfl, by decide +kernel, inner (by decide +kernel),
        by decide +kernel, fun h hh => by (cases hh), by decide +kernel⟩
  · exact ⟨{ one with flights := [⟨.core, 3, { leaf 1 with remote := some (7, 3, 0x40) }, none⟩] }, 3, _, [], rfl, by decide +kernel,
      inner (by decide +kernel), by decide, fun h hh => by (cases hh)⟩
  · have held : heldIn { opened 1 with flights := [⟨.core, 3, leaf 1, none⟩], coreHeld := [⟨3, leaf 0, 0⟩] } 3 = [leaf 0] := rfl
    refine ⟨{ opened 1 with flights := [⟨.core, 3, leaf 1, none⟩], coreHeld := [⟨3, leaf 0, 0⟩] }, 3, leaf 1, [], leaf 0, rfl,
      by decide +kernel, inner (by decide +kernel), by decide +kernel, ?_, ?_, by decide +kernel, by decide +kernel,
      inner (by decide +kernel), ?_⟩
    · rw [held]; exact List.mem_singleton.mpr rfl
    · rw [held]
      exact fun h hh => by rw [List.mem_singleton.mp hh]; decide +kernel
    · rw [held]
      exact fun h hh => by rw [List.mem_singleton.mp hh]; decide +kernel
  · have held : heldIn { opened 1 with flights := [⟨.core, 3, node 2 1, none⟩], coreHeld := [⟨3, node 2 0, 0⟩] } 3 = [node 2 0] := rfl
    refine ⟨{ opened 1 with flights := [⟨.core, 3, node 2 1, none⟩], coreHeld := [⟨3, node 2 0, 0⟩] }, 3, node 2 1, [], node 2 0, rfl,
      by decide +kernel, inner (by decide +kernel), by decide +kernel, ?_, ?_, by decide +kernel, by decide +kernel,
      by decide +kernel, ?_⟩
    · rw [held]; exact List.mem_singleton.mpr rfl
    · rw [held]
      exact fun h hh => by rw [List.mem_singleton.mp hh]; decide +kernel
    · rw [held]
      exact fun h hh => by rw [List.mem_singleton.mp hh]; decide +kernel
  · exact ⟨{ opened 1 with coreHeld := [⟨2, leaf 1, 0⟩, ⟨3, leaf 1, 0⟩] }, 3, ⟨3, leaf 1, 0⟩, [⟨2, leaf 1, 0⟩],
      first_after (by decide) (by decide), fun x hx hc => by (rw [List.mem_singleton.mp hx] at hc; cases hc), by decide +kernel⟩

/-- The slice's refused fragment. -/
def offered (reply : Option Packet) (n : Nat) : State := { opened n with refused := [⟨3, leaf 1, 0, reply, none⟩] }

theorem witness_FragmentsMeetAtTheSlice :
    (∀ room : Bool, ∃ s f r k core rest, AtSlice s f r ∧ Inner f ∧ s.flights = ⟨.slice k, core, f, none⟩ :: rest ∧
      sliceRoom s r = room ∧ (room = false → spillSlot s r f.label f.fno = none)) ∧
    (∃ s f r k core rest a, AtSlice s f r ∧ Inner f ∧ s.flights = ⟨.slice k, core, f, none⟩ :: rest ∧ sliceRoom s r = false ∧
      spillSlot s r f.label f.fno = some a ∧ a % 128 = 0 ∧ inRetired s a = false) ∧
    (∃ s f r x, AtSlice s f r ∧ Inner f ∧ s.refused = [x] ∧ x.frag = f ∧ sliceRoom s r = true ∧ f.same f = true) := by
  refine ⟨fun room => ?_, ?_, ?_⟩
  · cases room
    · exact ⟨{ modPregs (opened 0) 0 (fun r => { r with bvcfg := 0 }) with flights := [⟨.slice 9, 3, leaf 1, none⟩] }, leaf 1, open5, 9, 3, [],
        at_slice (by decide +kernel), inner (by decide +kernel), rfl, by decide +kernel, by decide +kernel⟩
    · exact ⟨{ opened 1 with flights := [⟨.slice 9, 3, leaf 1, none⟩] }, leaf 1, open5, 9, 3, [], at_slice (by decide +kernel),
        inner (by decide +kernel), rfl, by decide +kernel, by decide +kernel⟩
  · have some' : (spillSlot { opened 0 with flights := [⟨.slice 9, 3, leaf 1, none⟩] } open5 (leaf 1).label (leaf 1).fno).isSome = true := by
      decide +kernel
    obtain ⟨a, ha⟩ := Option.isSome_iff_exists.mp some'
    refine ⟨{ opened 0 with flights := [⟨.slice 9, 3, leaf 1, none⟩] }, leaf 1, open5, 9, 3, [], a, at_slice (by decide +kernel),
      inner (by decide +kernel), rfl, by decide +kernel, ha, ?_⟩
    have : (spillSlot { opened 0 with flights := [⟨.slice 9, 3, leaf 1, none⟩] } open5 (leaf 1).label (leaf 1).fno).all
        (fun a => a % 128 == 0 && !inRetired { opened 0 with flights := [⟨.slice 9, 3, leaf 1, none⟩] } a) = true := by decide +kernel
    rw [ha] at this
    simpa using this
  · exact ⟨offered none 1, leaf 1, open5, ⟨3, leaf 1, 0, none, none⟩, at_slice (by decide +kernel), inner (by decide +kernel), rfl, rfl,
      by decide +kernel, by decide +kernel⟩

theorem witness_ReductionsEnd :
    (∃ s f r k core rest dest, AtSlice s f r ∧ DescPlain s r.descPa ∧ r ∈ s.reds ∧
      (∀ h ∈ s.sliceHeld, ¬(h.frag.pa = r.descPa ∧ h.frag.part = r.part ∧ labelId h.frag.label = r.id)) ∧ spillsOf s r = [] ∧
      (∀ x ∈ s.reds, x.part = r.part → x.id = r.id → x.closedAt = none → x = r) ∧
      s.flights = ⟨.slice k, core, f, none⟩ :: rest ∧ r.overlap = false ∧ (∀ x ∈ rest, Elsewhere r x.frag) ∧
      (∀ x ∈ s.coreHeld, Elsewhere r x.frag) ∧ (∀ x ∈ s.refused, Elsewhere r x.frag) ∧ rest ≠ [] ∧
      f.isRoot = true ∧ f.tile = false ∧ f.absent = false ∧ r.roots = [] ∧
      r.dest.head? = some dest ∧ dest % 8 = 0 ∧ (dest + 8 ≤ r.descPa ∨ r.descPa + 64 ≤ dest) ∧ inRetired s dest = false ∧
      redBytes f.fmt ≤ 8) ∧
    (∃ s f r x, AtSlice s f r ∧ DescPlain s r.descPa ∧ r ∈ s.reds ∧
      (∀ h ∈ s.sliceHeld, ¬(h.frag.pa = r.descPa ∧ h.frag.part = r.part ∧ labelId h.frag.label = r.id)) ∧ spillsOf s r = [] ∧
      (∀ x ∈ s.reds, x.part = r.part → x.id = r.id → x.closedAt = none → x = r) ∧
      s.refused = [x] ∧ x.frag = f ∧ x.core ≠ 192 ∧ f.remote = none ∧ x.since + 1000000 ≤ s.time.toNat ∧
      ringOn (pregs s r.part).eqcfg = false) :=
  ⟨⟨{ opened 1 with flights := [⟨.slice 9, 3, node 3 0, none⟩, ⟨.core, 3, { leaf 1 with label := mkLabel 6 0 1 }, none⟩] }, node 3 0, open5,
      9, 3, [⟨.core, 3, { leaf 1 with label := mkLabel 6 0 1 }, none⟩], 0x40000, at_slice (by decide +kernel),
      ⟨by decide, by decide +kernel⟩, List.mem_singleton.mpr rfl, fun h hh => by (cases hh), by decide +kernel,
      fun x hx _ _ _ => List.mem_singleton.mp hx, rfl, rfl, fun x hx _ => by (rw [List.mem_singleton.mp hx]; decide +kernel),
      fun x hx => by (cases hx), fun x hx => by (cases hx), by decide +kernel⟩,
    ⟨{ offered none 0 with time := 1000000 }, leaf 1, open5, ⟨3, leaf 1, 0, none, none⟩, at_slice (by decide +kernel), ⟨by decide, by decide +kernel⟩,
      List.mem_singleton.mpr rfl, fun h hh => by (cases hh), by decide +kernel, fun x hx _ _ _ => List.mem_singleton.mp hx, rfl, by decide +kernel⟩⟩

/-- A slot with a fragment on its way to device 7. -/
def switchSlot : SwitchSlot := ⟨2, ⟨7, 1, 5⟩, 0, false, [{ leaf 1 with remote := some (7, 3, 0x40) }], 5⟩

/-- A range that no subtree holds, and a run within its span. -/
theorem witness_RunsAreDecomposed : (∃ a b, a < b ∧ decompose a b = [(0, 1), (1, 1), (0, 4)]) ∧
    ∃ m c, c ≤ accSpan m ∧ pendingNodes m c 16 = [(1, 6), (0, 14)] :=
  ⟨⟨1, 5, by decide, by decide +kernel⟩, 12, 3, by decide +kernel, by decide +kernel⟩

theorem witness_DescriptorsOpenAndSlotsTimeOut :
    (∀ good : Bool, ∃ s q rest, s.redReqs = q :: rest ∧ sliceBusy s q.descPa = false ∧ DescPlain s q.descPa ∧
      bits (read64 s (q.descPa + 0x20)) 0 3 ≠ 1 ∧ descMalformed s q.descPa = !good ∧
      (usedIds s q.part).length < 2 ^ 24 - 1 ∧ ringOn (pregs s q.part).eqcfg = false) ∧
    (∀ late : Bool, ∃ s x, s.slots.find? (fun y => y.idx == x.idx) = some x ∧ x.frags ≠ [] ∧
      s.time.toNat + (if late then 0 else 1) = x.last + slotTimeoutNs s ∧ ∀ f ∈ x.frags, f.remote.isSome = true) := by
  refine ⟨fun good => ?_, fun late => ?_⟩
  · cases good
    · exact ⟨{ write64 described 0x30008 0 with redReqs := [⟨0, 0x30000, [0x40000], 0⟩] }, ⟨0, 0x30000, [0x40000], 0⟩, [], rfl,
        by decide +kernel, ⟨by decide, by decide +kernel⟩, by decide +kernel⟩
    · exact ⟨{ described with redReqs := [⟨0, 0x30000, [0x40000], 0⟩] }, ⟨0, 0x30000, [0x40000], 0⟩, [], rfl,
        by decide +kernel, ⟨by decide, by decide +kernel⟩, by decide +kernel⟩
  · refine ⟨{ one with slots := [switchSlot], time := if late then 50005 else 50004 }, switchSlot, rfl, by decide, ?_,
      by decide⟩
    revert late
    decide +kernel

end Sys2Proof.Tests

namespace Sys2Proof.Tests
open Sys2Proof Sys2Proof.Machine
set_option Elab.async false

/-! ## Events of commands -/

/-- The bench's team with accumulator 4 and one command. -/
def commanded (k : Cmd) : State := { engine [{ accWith 4 1 2 with fault := true }] [] mapped with cmds := [k] }

/-- The team of a command, and what of Startable is decidable. -/
def startOk (s : State) (k : Cmd) : Bool :=
  k.phase == .queued && ((teamOf s k.gid k.team).any fun t => t.phase == .running) && !(psched s k.part).paused &&
    !(psched s k.part).slowed && !underTest s k.core && !throttled s k.core &&
    (match k.guard with
      | some n => (guardSlotOf s k.gid k.team n).wmask &&& teamTags s k.gid k.team == 0
      | none => true)

theorem startable {s : State} {k : Cmd} (h : startOk s k = true) (hc : s.cmds = [k]) : Startable s k := by
  have none : startedBefore s k = [] := by
    simp only [startOk, Bool.and_eq_true, beq_iff_eq] at h
    simp [startedBefore, hc, h.1.1.1.1.1.1]
  simp only [startOk, Bool.and_eq_true, beq_iff_eq, Bool.not_eq_true', Option.any_eq_true_iff_get] at h
  obtain ⟨⟨⟨⟨⟨⟨h1, h2⟩, h3⟩, h4⟩, h5⟩, h6⟩, h7⟩ := h
  obtain ⟨ht, hp⟩ := h2
  refine ⟨by simp [cmdOf, hc], h1, ⟨_, (Option.some_get ht).symm, hp⟩, h3, h4, h5, h6, fun x hx _ _ hl => ?_,
    fun x hx => by (rw [none] at hx; cases hx), fun n hn => ?_⟩
  · rw [hc, List.mem_singleton] at hx
    rw [hx] at hl
    exact absurd hl (Nat.lt_irrefl _)
  · rw [hn] at h7
    simpa using h7

/-- A command that starts in its turn. -/
def StartMet (op : CmdOp) (P : State → Prop) : Prop := ∃ s k, Startable s k ∧ k.op = op ∧ k.cause = 0 ∧ FlagPassed s k ∧ P s

theorem start_met {op : CmdOp} {P : State → Prop} (h : startOk (commanded (queuedCmd op)) (queuedCmd op) = true)
    (hp : P (commanded (queuedCmd op))) : StartMet op P :=
  ⟨_, queuedCmd op, startable h rfl, rfl, rfl, .inr fun n hn => by (cases hn), hp⟩

/-- A command behind a guard slot on a flag at an address. -/
def guarded (cond : BitVec 2) (addr : Dword) : State :=
  onTeam (fun t => { t with g := vset t.g 1 ⟨0xF0, addr, 5, cond, 5, true, 2, 1, 0, 0⟩ })
    (commanded { queuedCmd (.accZero 4) with guard := some 1 })

theorem witness_CommandsStart :
    (StartMet (.accZero 4) fun s => ∃ tm a, teamOf s 0 0 = some tm ∧ accOf tm 4 = some a) ∧
    (∀ room : Bool, StartMet (.launch 7) fun s => (pendingCount s 0 < 1024 ↔ room = true)) ∧
    (StartMet (.lnt 0xFFFF_0000_03FF) fun s =>
      (s.lantern.taps.filter fun x => x.source == 2047#11 && x.part == BitVec.ofNat 4 0).length < 64 ∧ fenced s 3492 = false) ∧
    (StartMet (.plan 0x30000) fun s => ∃ pa m, access s (copyTlb 0) 0 0 0x30000 false false = .ok pa m ∧ sliceBusy s pa = false ∧
      poisoned s pa 64 = false) ∧
    (StartMet (.accFold 4 2 2 false) fun s => ∃ tm a, teamOf s 0 0 = some tm ∧ accOf tm 4 = some a ∧ a.fault = true) ∧
    (StartMet (.accStore 4 0x30000 2 2 false) fun s => ∃ tm a, teamOf s 0 0 = some tm ∧ accOf tm 4 = some a ∧ a.fault = true) ∧
    (∃ s k, Startable s k ∧ k.cause = 0 ∧ ¬FlagPassed s k) := by
  refine ⟨start_met (by decide +kernel) ⟨_, _, rfl, rfl⟩, fun room => ?_,
    start_met (by decide +kernel) (by decide +kernel), start_met (by decide +kernel) ⟨0x30000, 0x30000, by decide +kernel⟩,
    start_met (by decide +kernel) ⟨_, _, rfl, rfl, rfl⟩, start_met (by decide +kernel) ⟨_, _, rfl, rfl, rfl⟩,
    ⟨guarded 1 0x30000, _, startable (by decide +kernel) rfl, rfl, ?_⟩⟩
  · let crowd (s : State) : State :=
      { s with grids := s.grids ++ List.replicate 1024 { benchGrid with gid := 9, handle := 9, phase := .pending } }
    cases room
    · exact ⟨crowd (commanded (queuedCmd (.launch 7))), queuedCmd (.launch 7), startable (by decide +kernel) rfl, rfl, rfl,
        .inr fun n hn => by (cases hn), by decide +kernel⟩
    · exact start_met (by decide +kernel) (by decide +kernel)
  rintro (h | h)
  · cases h
  · have := h 1 rfl
    revert this
    decide +kernel

theorem witness_CommandsComplete : ∀ failed : Bool, ∃ s k, cmdOf s k.cid = some k ∧ k.phase = .worked ∧ k.remote = 0 ∧
    nodesFlying s k 0 = false ∧ (k.cause ≠ 0 ↔ failed = true) := by
  intro failed
  refine ⟨commanded { queuedCmd (.accZero 4) with phase := .worked, cause := if failed then 7 else 0 },
    { queuedCmd (.accZero 4) with phase := .worked, cause := if failed then 7 else 0 }, by revert failed; decide +kernel, rfl, rfl,
    by revert failed; decide +kernel, by revert failed; decide +kernel⟩

/-- A flag that a guarded command waits for, and how far it is. -/
def FlagMet (P : State → Cmd → Nat → Prop) : Prop :=
  ∃ s k n, Startable s k ∧ k.guard = some n ∧ k.flagMet = false ∧ k.cause = 0 ∧ (guardSlotOf s k.gid k.team n).fcond ≠ 0 ∧
    (guardSlotOf s k.gid k.team n).faddr ≠ 0 ∧ (guardSlotOf s k.gid k.team n).faddr.toNat < 2 ^ 56 ∧
    P s k (guardSlotOf s k.gid k.team n).faddr.toNat

theorem witness_GuardFlagsAreRead :
    (∀ cond : Fin 3, FlagMet fun s k a => (guardSlotOf s k.gid k.team 1).fcond = BitVec.ofNat 2 (cond + 1) ∧
      ∃ pa m, access s (copyTlb k.core) k.part k.gid a false false = .ok pa m ∧ sliceBusy s pa = false ∧ poisoned s pa 8 = false) ∧
    (FlagMet fun s k a => ∃ dev win off, access s (copyTlb k.core) k.part k.gid a false false = .peer dev win off) ∧
    (FlagMet fun s k a => access s (copyTlb k.core) k.part k.gid a false false = .nonresident) :=
  ⟨fun cond => ⟨guarded (BitVec.ofNat 2 (cond + 1)) 0x30000, { queuedCmd (.accZero 4) with guard := some 1 }, 1,
      startable (by revert cond; decide +kernel) rfl, rfl, rfl, rfl, by revert cond; decide +kernel, by revert cond; decide +kernel,
      by revert cond; decide +kernel, by revert cond; decide +kernel, 0x30000, 0x30000, by revert cond; decide +kernel⟩,
    ⟨guarded 1 0x8000_0000, { queuedCmd (.accZero 4) with guard := some 1 }, 1, startable (by decide +kernel) rfl, rfl, rfl, rfl, by decide +kernel,
      by decide +kernel, by decide +kernel, 7, 3, 0, by decide +kernel⟩,
    ⟨guarded 1 0x4000_0000, { queuedCmd (.accZero 4) with guard := some 1 }, 1, startable (by decide +kernel) rfl, rfl, rfl, rfl, by decide +kernel,
      by decide +kernel, by decide +kernel, by decide +kernel⟩⟩

/-- A copy under way. -/
def copying (takes : List (Nat × ElemLoc)) (m : Move) : Cmd :=
  { queuedCmd (.accZero 4) with phase := .streaming, takes := takes, moves := [m] }
/-- A FIFO bank of the team's that holds n bytes. -/
def fifoWith (n : Nat) (k : Cmd) : State := banked { bank0 with mode := 2, wr := n % 65536, count := n } (commanded k)

theorem witness_CopiesMoveElements :
    (∃ s k m ms v pa, cmdOf s k.cid = some k ∧ k.phase = .streaming ∧ k.moves = m :: ms ∧ k.takes = [] ∧ m.val = some v ∧
      m.half = none ∧ m.dst = .mem pa ∧ (∀ i < m.bytes, inRetired s (pa + i) = false) ∧ 0 < m.bytes) ∧
    (∀ room : Bool, ∃ s k m ms v tm b off x, cmdOf s k.cid = some k ∧ k.phase = .streaming ∧ k.moves = m :: ms ∧ k.takes = [] ∧
      m.val = some v ∧ m.half = none ∧ m.dst = .stage tm b off true ∧ stageBank s k.gid tm b = some x ∧
      x.count + m.bytes = if room then 65536 else 65537) ∧
    (∃ s k m ms idx tm b off x rest, cmdOf s k.cid = some k ∧ k.phase = .streaming ∧ k.moves = m :: ms ∧
      k.takes = (idx, .stage tm b off true) :: rest ∧ m.idx = idx ∧ m.val = none ∧ k.low = [] ∧
      stageBank s k.gid tm b = some x ∧ x.count < m.bytes) := by
  refine ⟨⟨commanded (copying [] ⟨0, .mem 0x30000, none, 4, some 9, false⟩), copying [] ⟨0, .mem 0x30000, none, 4, some 9, false⟩,
      _, [], 9, 0x30000, rfl, rfl, rfl, rfl, rfl, rfl, rfl, by decide +kernel, by decide⟩,
    fun room => ?_,
    ⟨fifoWith 3 (copying [(0, .stage 0 0 0 true)] ⟨0, .mem 0x30000, none, 4, none, false⟩),
      copying [(0, .stage 0 0 0 true)] ⟨0, .mem 0x30000, none, 4, none, false⟩, _, [], 0, 0, 0, 0, _, [], rfl, rfl, rfl, rfl, rfl, rfl,
      rfl, rfl, by decide +kernel⟩⟩
  cases room
  · exact ⟨fifoWith 65533 (copying [] ⟨0, .stage 0 0 0 true, none, 4, some 9, false⟩), copying [] ⟨0, .stage 0 0 0 true, none, 4, some 9, false⟩,
      _, [], 9, 0, 0, 0, _, rfl, rfl, rfl, rfl, rfl, rfl, rfl, rfl, by decide +kernel⟩
  · exact ⟨fifoWith 65532 (copying [] ⟨0, .stage 0 0 0 true, none, 4, some 9, false⟩), copying [] ⟨0, .stage 0 0 0 true, none, 4, some 9, false⟩,
      _, [], 9, 0, 0, 0, _, rfl, rfl, rfl, rfl, rfl, rfl, rfl, rfl, by decide +kernel⟩

end Sys2Proof.Tests

namespace Sys2Proof.Tests
open Sys2Proof Sys2Proof.Machine
set_option Elab.async false

/-! ## Events of launches and teams -/

/-- Virtual function 255 is partition 0's, with a queue of 16 slots at an address and one record to take, whose lanes are n. -/
def queueAt (base : Dword) (n : Dword) (retry : Option Nat) (s : State) : State :=
  let s := write64 (write64 (write64 s 0x50000 0x20000) 0x50038 (0x0101_0000_0000_0000 + n * 0x1_0000_0000)) 0x50040 32
  modVf (modPregs s 0 fun r => { r with pctl := 1, pclass := 0 }) 255 fun r =>
    { r with vfmap := 0x100, lqbase := base, lqcfg := 4, lqwr := 1, lqrd := 0, retryAt := retry }

/-- What is made of the record at its head. -/
def takenKind (s : State) : Nat :=
  match takeRecord s 0 255 (headRecord s 255 16) with
  | .accepted _ => 0
  | .refused _ _ => 1
  | .absent _ => 2
  | .unread _ _ => 3
/-- Each outcome has a state. -/
def queueOf (k : Nat) (retry : Option Nat) : State :=
  queueAt (if k = 2 then 0x4000_0000 else if k = 3 then 0xC000_0000 else 0x50000) (if k = 1 then 0 else 32) retry { mapped with time := 100000 }

theorem queue_has {s : State} (h : vfOwner s 255 = some 0 ∧ queueSlots (vfRegs s 255) = some 16 ∧
    (vfRegs s 255).lqrd.toNat < (vfRegs s 255).lqwr.toNat) : QueueHas s 255 0 16 := ⟨h.1, h.2.1, h.2.2⟩

theorem taken_kind {s : State} {k : Nat} (h : takenKind s = k) :
    (k = 0 → ∃ r, takeRecord s 0 255 (headRecord s 255 16) = .accepted r) ∧
    (k = 1 → ∃ r c, takeRecord s 0 255 (headRecord s 255 16) = .refused r c) ∧
    (k = 2 → ∃ va, takeRecord s 0 255 (headRecord s 255 16) = .absent va) ∧
    (k = 3 → ∃ r es, takeRecord s 0 255 (headRecord s 255 16) = .unread r es) := by
  unfold takenKind at h
  split at h
  · next r hr => exact ⟨fun _ => ⟨r, hr⟩, fun h' => by omega, fun h' => by omega, fun h' => by omega⟩
  · next r c hr => exact ⟨fun h' => by omega, fun _ => ⟨r, c, hr⟩, fun h' => by omega, fun h' => by omega⟩
  · next va hr => exact ⟨fun h' => by omega, fun h' => by omega, fun _ => ⟨va, hr⟩, fun h' => by omega⟩
  · next r es hr => exact ⟨fun h' => by omega, fun h' => by omega, fun h' => by omega, fun _ => ⟨r, es, hr⟩⟩

theorem witness_LaunchQueuesAreTaken :
    (∀ k : Fin 4, ∃ s slots, QueueHas s 255 0 slots ∧ (vfRegs s 255).retryAt = none ∧ pendingCount s 0 < 1024 ∧
      ((k = 0 → ∃ r, takeRecord s 0 255 (headRecord s 255 slots) = .accepted r) ∧
        (k = 1 → ∃ r c, takeRecord s 0 255 (headRecord s 255 slots) = .refused r c) ∧
        (k = 2 → ∃ va, takeRecord s 0 255 (headRecord s 255 slots) = .absent va) ∧
        (k = 3 → ∃ r es, takeRecord s 0 255 (headRecord s 255 slots) = .unread r es))) ∧
    (∀ early : Fin 2, ∃ s slots n, QueueHas s 255 0 slots ∧ (vfRegs s 255).retryAt = some n ∧ s.time.toNat + early = n + 100000 ∧
      pendingCount s 0 < 1024 ∧
      ∃ r, takeRecord s 0 255 (headRecord s 255 slots) = .accepted r) := by
  refine ⟨fun k => ⟨queueOf k none, 16, queue_has (by revert k; decide +kernel), by revert k; decide +kernel,
    by revert k; decide +kernel, ?_⟩, fun early => ⟨queueOf 0 (some early.val), 16, early.val, queue_has (by revert early; decide +kernel),
      by revert early; decide +kernel, ?_, by revert early; decide +kernel, ?_⟩⟩
  · obtain ⟨h0, h1, h2, h3⟩ := taken_kind (s := queueOf k none) (k := k.val) (by revert k; decide +kernel)
    exact ⟨fun h => h0 (by rw [h]; rfl), fun h => h1 (by rw [h]; rfl), fun h => h2 (by rw [h]; rfl),
      fun h => h3 (by rw [h]; rfl)⟩
  · show (100000#64).toNat + early.val = early.val + 100000
    rw [Nat.add_comm]
    rfl
  · exact (taken_kind (s := queueOf 0 (some early.val)) (k := 0) (by revert early; decide +kernel)).1 rfl

/-- A pending record that depends on a grid of an outcome. -/
def dependent (outcome : BitVec 2) (aft : Bool) (slots : Nat) : State :=
  { modPregs one 0 (fun r => { r with pslot := BitVec.ofNat 64 (64 * slots), ctxcfg := 0x1_0001 }) with
    grids := [{ benchGrid with phase := .ended, outcome := outcome, handle := 9 },
      { benchGrid with gid := 1, phase := .pending, record := { benchRec with deps := [9], aft := aft } }] }
def waiter (aft : Bool) : Grid := { benchGrid with gid := 1, phase := .pending, record := { benchRec with deps := [9], aft := aft } }

theorem witness_PendingRecordsAreReleased : ∀ k : Fin 3, ∃ (s : State) (g : Grid) (rest : List Grid),
    FirstIn s.grids (fun x => x.part = g.part ∧ x.phase = .pending ∧ x.held = false ∧
      ∀ h ∈ x.record.deps, depState s g.part h ≠ .waits) g rest ∧ gridOf s g.gid = some g ∧ gridQuiet s g.gid = true ∧
    (k = 0 → (∃ h ∈ g.record.deps, depState s g.part h = .broken) ∧ g.record.aft = false) ∧
    (k ≠ 0 → ¬((∃ h ∈ g.record.deps, depState s g.part h = .broken) ∧ g.record.aft = false)) ∧
    neverFits s g.part g.record = (k != 2) := by
  have first : ∀ (o : BitVec 2) (a : Bool) (n : Nat), depState (dependent o a n) 0 9 ≠ .waits →
      FirstIn (dependent o a n).grids (fun x => x.part = 0 ∧ x.phase = .pending ∧ x.held = false ∧
        ∀ h ∈ x.record.deps, depState (dependent o a n) 0 h ≠ .waits) (waiter a) [{ benchGrid with phase := .ended, outcome := o, handle := 9 }] :=
    fun o a n h => first_after (fun hp => by (cases hp.2.1)) ⟨rfl, rfl, rfl, fun x hx => by rw [List.mem_singleton.mp hx]; exact h⟩
  intro k
  match k with
  | 0 => exact ⟨dependent 1 false 0, waiter false, _, first _ _ _ (by decide +kernel), rfl, by decide +kernel,
      fun _ => ⟨⟨9, List.mem_singleton.mpr rfl, by decide +kernel⟩, rfl⟩, fun h => absurd rfl h, by decide +kernel⟩
  | 1 => exact ⟨dependent 1 true 0, waiter true, _, first _ _ _ (by decide +kernel), rfl, by decide +kernel, fun h => by (cases h), fun _ h => by (cases h.2),
      by decide +kernel⟩
  | 2 => exact ⟨dependent 1 true 1, waiter true, _, first _ _ _ (by decide +kernel), rfl, by decide +kernel, fun h => by (cases h), fun _ h => by (cases h.2),
      by decide +kernel⟩

/-- The partition has shares, and two context areas of 64 KiB from 1 MiB. -/
def shared (s : State) : State :=
  modPregs s 0 fun r => { r with
    pctl := 1, pslot := 64, pblk := 0x1000, pbank := 0x10, pacc := 0x10, ctxbase := 0x10_0000, ctxcfg := 0x2_0001 }
/-- The bench's grid has its team still to place. -/
def unplaced : Grid := { benchGrid with nextTeam := 0, record := { benchRec with regs := 40, stg := 64, args := [(3, 9)] } }

theorem witness_TeamsStartAndEnd :
    (∃ s g core, gridOf s g.gid = some g ∧ g.phase = .placing ∧ g.nextTeam < g.record.teams ∧ g.record.cw = 1 ∧
      g.record.chh = 1 ∧ g.record.cores = false ∧ mayPlace s g.part = true ∧ placeTurn s g = true ∧
      fitsOn s g.part core g.record = true ∧ heldBack s g core = false ∧ freeAreas s g.part ≠ [] ∧ teamOf s g.gid g.nextTeam = none) ∧
    (∀ quiet last : Bool, ∃ s tm g, teamOf s tm.gid tm.team = some tm ∧ tm.phase ≠ .saved ∧ tm.phase ≠ .removed ∧
      (∀ x ∈ s.groups, ¬(x.gid = tm.gid ∧ x.team = tm.team)) ∧ gridOf s tm.gid = some g ∧ g.phase ≠ .ended ∧ g.phase ≠ .ending ∧
      (∀ k ∈ s.cmds, ¬(k.gid = tm.gid ∧ k.team = tm.team)) ∧ remoteQuiet s tm.gid tm.team = quiet ∧ (quiet = true → gridQuiet s tm.gid = true) ∧
      (g.endedTeams + 1 = g.record.teams ↔ last = true)) := by
  refine ⟨⟨{ shared one with groups := [], teams := [], grids := [unplaced] }, unplaced, 5, rfl, by decide +kernel⟩,
    fun quiet last => ?_⟩
  refine ⟨{ one with groups := [], grids := [{ benchGrid with endedTeams := if last then 0 else 5 }], rwc := if quiet then [] else [line0 true] },
    freshTeam State.reset benchGrid 0 0 0 0 [], { benchGrid with endedTeams := if last then 0 else 5 }, rfl, fun h => by (cases h),
    fun h => by (cases h), fun x hx => by (cases hx), rfl, fun h => by (cases h), fun h => by (cases h), fun k hk => by (cases hk),
    by revert quiet last; decide +kernel, by revert quiet last; decide +kernel,
    by revert last; decide +kernel⟩

/-- The bench's team. -/
def team0 : Team := freshTeam State.reset benchGrid 0 0 0 0 []
/-- The bench's grid, of class 1. -/
def low : Grid := { benchGrid with record := { benchRec with cls := 1 } }
/-- A grid of one team, of class 0 and with a bound, that waits for space. -/
def urgent (bound : Nat) : Grid :=
  { benchGrid with gid := 1, nextTeam := 0, record := { benchRec with bound := bound } }

/-- One group slot of core 0 alone can be given, and the bench's team has it; another grid waits for it. -/
def crowdedOut (us time : Nat) (gs : List Grid) : State :=
  { modPregs (shared one) 0 (fun r => { r with pslot := 64, tslice := BitVec.ofNat 64 us }) with
    grids := gs
    time := BitVec.ofNat 64 time
    blocks := (List.range 191).map fun k => ⟨k + 1, 2, 0, 0, 0, false⟩ }

/-- Where one core alone can hold a waiter, its victims there are the cheapest. -/
theorem cheapest {s : State} {w : Waiter} {v : List (List Team)} (cost : List (List Team) → Nat)
    (h0 : victimsAt s w false 0 = some v) (h : ((List.range 191).all fun k => (victimsAt s w false (k + 1)).isNone) = true) :
    ∀ b' < 192, ∀ v', victimsAt s w false b' = some v' → cost v ≤ cost v' ∧ (b' < 0 → cost v < cost v') := by
  intro b' hb v' hv
  match b' with
  | 0 =>
    rw [h0] at hv
    obtain rfl := Option.some.inj hv
    exact ⟨Nat.le_refl _, fun h => absurd h (Nat.lt_irrefl _)⟩
  | k + 1 =>
    have := List.all_eq_true.mp h k (List.mem_range.mpr (by omega))
    simp [hv] at this

theorem witness_SpaceIsFreed :
    ∃ (s : State) (g : Grid) (b : Nat) (v : List (List Team)), gridOf s g.gid = some g ∧ g.record.cw = 1 ∧ g.record.chh = 1 ∧
      g.record.cores = false ∧ asksForSpace s g = true ∧
      (∀ x ∈ s.grids, x.part = g.part → x.before g = true → asksForSpace s x = false) ∧
      (let cost := fun (v : List (List Team)) => (v.map fun ts => (clusterMode s g.record.bound ts).2).sum
       b < 192 ∧ victimsAt s (.fresh g) false b = some v ∧
       ∀ b' < 192, ∀ v', victimsAt s (.fresh g) false b' = some v' → cost v ≤ cost v' ∧ (b' < b → cost v < cost v')) ∧
      v = [[team0]] := by
  have h0 : victimsAt (crowdedOut 0 0 [low, urgent 5]) (.fresh (urgent 5)) false 0 = some [[team0]] := by decide +kernel
  refine ⟨crowdedOut 0 0 [low, urgent 5], urgent 5, 0, [[team0]], by decide +kernel, rfl, rfl, rfl, by decide +kernel,
    fun x hx _ hb => ?_, ⟨by decide, h0,
      cheapest (fun v => (v.map fun ts => (clusterMode (crowdedOut 0 0 [low, urgent 5]) 5 ts).2).sum) h0 (by decide +kernel)⟩, rfl⟩
  have : x = low ∨ x = urgent 5 := by simpa [crowdedOut] using hx
  rcases this with rfl | rfl <;> exact absurd hb (by decide +kernel)

/-- What costs nothing costs the least. -/
theorem least_of_nothing {α : Type} {key : α → Nat} {x : α} {t : List α} (h : key x = 0) : leastBy key (x :: t) = some x := by
  rw [leastBy]
  cases leastBy key t with
  | none => rfl
  | some y => simp [h]

/-- The bench's grid drains in 5 µs, which have passed since its team was placed. -/
def draining : Grid := { benchGrid with record := { benchRec with drh := 5 } }

/-- A save, for a wait in eng.waitl; a drain that costs nothing; and a discard where the free estimate allows it. -/
theorem witness_ModesOfLeaving :
    (∃ s g ts bound, (∃ x ∈ ts, allWaitl s x = true) ∧ (modeFor s g ts bound).1 = .save) ∧
    (∃ s g ts bound, (modeFor s g ts bound).1 = .drain ∧ g.record.drh ≠ 0 ∧ (∀ x ∈ ts, allWaitl s x = false) ∧
      ∀ x ∈ ts, g.record.drh - (s.time.toNat - x.placedAt) / 1000 ≤ bound) ∧
    (∃ s g ts, (∀ x ∈ ts, allWaitl s x = false) ∧ ∃ cost : Bool → Nat, cost true < cost false →
      (modeFor s g ts (cost true)).1 = .discard) := by
  refine ⟨⟨waitingIn (.engWaitl 1 2) one, benchGrid, [team0], 0, ⟨team0, List.mem_singleton.mpr rfl, by decide +kernel⟩, ?_⟩,
    ⟨{ one with time := 5000 }, draining, [team0], 0, ?_, by decide, fun x hx => ?_, fun x hx => ?_⟩,
    ⟨inRegion 1 one, benchGrid, [team0], fun x hx => ?_, Config.leaveCost (inRegion 1 one).time.toNat 0 0, fun hc => ?_⟩⟩
  · rw [modeFor, if_pos (by decide +kernel)]
  · have w : ([team0].any (allWaitl { one with time := 5000 })) = false := by decide +kernel
    have d : drainCost { one with time := 5000 } draining [team0] = some 0 := by decide +kernel
    rw [modeFor, w, d]
    simp only [Option.toList_some, List.map_cons, List.map_nil, List.cons_append, List.nil_append]
    rw [List.filter_cons_of_pos (by simp), least_of_nothing (key := Prod.snd) rfl]
    rfl
  · rw [List.mem_singleton.mp hx]; decide +kernel
  · rw [List.mem_singleton.mp hx]; decide +kernel
  · rw [List.mem_singleton.mp hx]; decide +kernel
  · have w : ([team0].any (allWaitl (inRegion 1 one))) = false := by decide +kernel
    have d : drainCost (inRegion 1 one) benchGrid [team0] = none := by decide +kernel
    have e : (!benchGrid.record.cores && [team0].all (discardable (inRegion 1 one))) = true := by decide +kernel
    rw [modeFor, w, d, e]
    have c : ¬Config.leaveCost (inRegion 1 one).time.toNat 0 0 false ≤ Config.leaveCost (inRegion 1 one).time.toNat 0 0 true :=
      Nat.not_le.mpr hc
    simp [team0, freshTeam, benchGrid, c, leastBy]

/-- A team whose slice may end, and what waits for its space. -/
def SliceMet (P : State → Team → Grid → Prop) : Prop :=
  ∃ s tm g, gridOf s tm.gid = some g ∧ teamOf s tm.gid tm.team = some tm ∧ companions s g tm.team = [tm] ∧ P s tm g

/-- R415: the slice has ended. -/
def slicePast (s : State) (tm : Team) : Bool :=
  let us := bits (pregs s tm.part).tslice 0 20
  us != 0 && tm.phase == .running && !(psched s tm.part).paused && !throttled s tm.core && tm.sliceStart + 1000 * us ≤ s.time.toNat

/-- What waits wants the team's space. -/
def wantsSlice (s : State) (tm : Team) (g : Grid) (w : Waiter) : Bool :=
  decide (w.grid.record.cls ≤ g.record.cls) && !w.fitsNow s && !w.fitsNow (onceLeft s tm.part) && (sliceRect s w tm).isSome

theorem witness_TimeSlicesEnd :
    (SliceMet fun s tm g => slicePast s tm = true ∧ ∀ w ∈ waitersOf s tm.part, wantsSlice s tm g w = false) ∧
    (∀ bound ∈ [0, 5], SliceMet fun s tm g => slicePast s tm = true ∧ ∃ w rest, w.grid.record.bound = bound ∧
      FirstIn (waitersOf s tm.part) (fun w => wantsSlice s tm g w = true) w rest) ∧
    (SliceMet fun s tm _ => slicePast s tm = false ∧ bits (pregs s tm.part).tslice 0 20 ≠ 0) := by
  have first : ∀ bound ∈ [0, 5], waitersOf (crowdedOut 5 5000 [low, urgent bound]) 0 = [.fresh (urgent bound)] := by decide +kernel
  refine ⟨⟨crowdedOut 5 5000 [low], team0, low, by decide +kernel, by decide +kernel, by decide +kernel, by decide +kernel, by decide +kernel⟩,
    fun bound hb => ⟨crowdedOut 5 5000 [low, urgent bound], team0, low, by revert bound; decide +kernel, by revert bound; decide +kernel,
      by revert bound; decide +kernel, by revert bound; decide +kernel, .fresh (urgent bound), [], rfl, ?_⟩,
    ⟨crowdedOut 5 4999 [low], team0, low, by decide +kernel, by decide +kernel, by decide +kernel, by decide +kernel, by decide +kernel⟩⟩
  rw [show team0.part = 0 from rfl, first bound hb]
  exact first_in (by revert bound; decide +kernel)

/-- The bench's team away from its core; a word of its area. -/
def away (w : Dword) : State :=
  { write64 { shared one with mem := [] } 0x10_0298 w with
    groups := []
    teams := [{ team0 with phase := .saved }], grids := [unplaced] }

theorem witness_TeamsAreSavedAndRestored :
    (∃ s tm, teamOf s tm.gid tm.team = some tm ∧ tm.phase = .saving .save ∧ atBoundary s tm = true ∧ commandsIdle s tm = true ∧
      accessesIdle s tm = true ∧ savedWith s tm = [tm] ∧ ∀ x ∈ s.groups, x.gid = tm.gid → x.team = tm.team → x.region = none) ∧
    (∀ good : Bool, ∃ s tm g core, teamOf s tm.gid tm.team = some tm ∧ tm.phase = .saved ∧ gridOf s tm.gid = some g ∧ g.record.cw = 1 ∧
      g.record.chh = 1 ∧ g.record.cores = false ∧ g.phase ≠ .ended ∧ g.phase ≠ .ending ∧ (∀ x ∈ s.teams, x.gid = tm.gid → x.team = tm.team → x = tm) ∧
      mayPlace s tm.part = true ∧ restoreTurn s tm = true ∧ contextOk s tm g.record.banks = good ∧
      (good = true → fitsBack s tm core g.record = true ∧ heldBack s g core = false) ∧
      (good = false → gridQuiet s tm.gid = true)) := by
  refine ⟨⟨onTeam (fun t => { t with phase := .saving .save }) (shared one), { team0 with phase := .saving .save }, rfl, rfl, by decide +kernel,
      by decide +kernel, by decide +kernel, by decide +kernel, fun x hx _ _ => ?_⟩, fun good => ?_⟩
  · exact Option.isNone_iff_eq_none.mp
      (List.all_eq_true.mp (by decide +kernel : (one.groups.all fun x => x.region.isNone) = true) x hx)
  · cases good
    · exact ⟨away 1, { team0 with phase := .saved }, unplaced, 5, rfl, rfl, rfl, rfl, rfl, rfl, fun h => by (cases h), fun h => by (cases h),
        fun x hx _ _ => List.mem_singleton.mp hx, by decide +kernel⟩
    · exact ⟨away 0, { team0 with phase := .saved }, unplaced, 5, rfl, rfl, rfl, rfl, rfl, rfl, fun h => by (cases h), fun h => by (cases h),
        fun x hx _ _ => List.mem_singleton.mp hx, by decide +kernel⟩

/-- Power is shed by n steps over two partitions, last at a time. -/
def shedding (n last time : Nat) : State :=
  { one with
    dev := { one.dev with shedcfg := 500, shedord := 2 * 2 ^ 48 + 0x54 }
    shed := n, shedAt := last, time := BitVec.ofNat 64 time }

theorem witness_RatesRecoverAndPowerIsShed :
    (∀ early : Fin 2, ∃ (s : State) (r : Rate), s.rates.find? (fun x => x.part == r.part && x.group == r.group) = some r ∧
      s.time.toNat + early = r.marked + 8000) ∧
    (∃ (s : State) (watts : Nat), bits s.dev.shedcfg 0 12 + 1 = watts ∧ s.shed + 1 = 3 * shedCount s ∧ s.shedAt + 100000 = s.time.toNat) ∧
    (∃ (s : State) (watts : Nat), bits s.dev.shedcfg 0 12 < watts ∧ s.shed = 0 ∧ 0 < shedCount s) ∧
    (∃ (s : State) (watts : Nat), 100 * watts = 95 * bits s.dev.shedcfg 0 12 ∧ s.shed = 1 ∧ s.shedAt + 1000000 = s.time.toNat) := by
  refine ⟨fun early => ?_, ⟨shedding 5 7 100007, 501, by decide +kernel⟩, ⟨shedding 0 0 0, 501, by decide +kernel⟩,
    ⟨shedding 1 7 1000007, 475, by decide +kernel⟩⟩
  match early with
  | 0 => exact ⟨{ one with rates := [⟨0, 1, 32, 7, 0⟩], time := 8007 }, ⟨0, 1, 32, 7, 0⟩, by decide +kernel⟩
  | 1 => exact ⟨{ one with rates := [⟨0, 1, 32, 7, 0⟩], time := 8006 }, ⟨0, 1, 32, 7, 0⟩, by decide +kernel⟩

end Sys2Proof.Tests

namespace Sys2Proof.Tests
open Sys2Proof Sys2Proof.Machine
set_option Elab.async false

/-! ## Events of the fabric -/

/-- Window 3 of partition 0, of tenant 9, is 64 KiB from 0x3_0000; packet 7 is next from device 5 in class 1. -/
def fabric : State :=
  let s := { mapped with devid := 33, chansIn := [⟨5, 1, 7, [], [], 0, 0⟩] }
  let s := modPregs s 0 fun r => { r with pctl := 1, iwtab := 0xA_0000, ftid := 9, ppair := 8, slent := 1 }
  write64 (write64 (write64 s 0xA_0060 0x9_0003) 0xA_0068 0x3_0000) 0xA_0070 0x1_0000

/-- A request of device 5 at an offset of the window. -/
def packet (op : BitVec 8) (mclass : BitVec 2) (off : BitVec 38) (len : BitVec 16) (cause : BitVec 8) (payload : List Byte) : Packet :=
  ⟨op, mclass, 1, 0, false, 5, 33, 9, 7, 0x55, 3, off, len, cause, payload⟩
/-- n bytes. -/
def ones (n : Nat) : List Byte := List.replicate n 1

theorem in_order {s : State} {op : BitVec 8} {p : Packet} (h : wellFormedPacket op p = true ∧ p.dst = s.devid ∧
    toPod s p.src = false ∧ (chanIn s p.src p.tclass).expect = p.seq ∧ (chanIn s p.src p.tclass).early = [] ∧ (chanIn s p.src p.tclass).skipped = []) :
    InOrder s op p := ⟨h.1, h.2.1, h.2.2.1, h.2.2.2.1, h.2.2.2.2.1, h.2.2.2.2.2⟩

theorem unretired {s : State} {pa n : Nat} (h : s.retired = []) : Unretired s pa n := by
  intro i _
  simp [inRetired, h]

/-- An outcome of a window access, in its order. -/
def refusedAs (s : State) (p : Packet) : Option (Nat × Option Nat × ErrRec) :=
  match inbound s p.win p.ftid p.off.toNat true, inbound s p.win p.ftid p.off.toNat false with
  | .refused c w e, .refused c' w' e' => if c = c' ∧ w = w' ∧ e = e' then some (c, w, e) else none
  | _, _ => none

theorem refused_as {s : State} {p : Packet} {c : Nat} {w : Option Nat} {e : ErrRec} (h : refusedAs s p = some (c, w, e)) :
    ∀ x, inbound s p.win p.ftid p.off.toNat x = .refused c w e := by
  unfold refusedAs at h
  split at h
  · next c1 w1 e1 c2 w2 e2 h1 h2 =>
    split at h
    · next hc =>
      obtain ⟨rfl, rfl, rfl⟩ := hc
      cases h
      intro x
      cases x
      · exact h2
      · exact h1
    · cases h
  · cases h

theorem witness_RequestsArePerformed :
    (∃ s p part pa, InOrder s opRD p ∧ Lands s p false part pa ∧ poisoned s pa p.len.toNat = false) ∧
    (∃ s p part pa, InOrder s opWR p ∧ Lands s p true part pa ∧ Unretired s pa 256) ∧
    (∃ s p part pa, InOrder s opWRM p ∧ Lands s p true part pa ∧ Unretired s pa 256) ∧
    (∀ wide : Bool, ∃ s p part pa, InOrder s opATM p ∧ Lands s p true part pa ∧ (p.cause.toNat / 8 % 2 = 1 ↔ wide = true) ∧
      poisoned s pa (if p.cause.toNat / 8 % 2 = 1 then 8 else 4) = false ∧
      Unretired s pa (if p.cause.toNat / 8 % 2 = 1 then 8 else 4)) ∧
    (∃ s p part pa, InOrder s opMST p ∧ p.mclass = 1 ∧ Lands s p true part pa ∧ Unretired s pa 256) ∧
    (∀ k : Fin 3, ∃ s p cause who e, (∀ w, inbound s p.win p.ftid p.off.toNat w = .refused cause who e) ∧
      (∀ q, who = some q → ringOn (pregs s q).eqcfg = false) ∧ ringOn s.dev.deqcfg = false ∧
      ((k = 0 → InOrder s opRD p) ∧ (k = 1 → InOrder s opWR p) ∧ (k = 2 → InOrder s opATM p))) := by
  refine ⟨⟨fabric, packet opRD 0 0xFFF0 16 0 [], 0, 0x3_FFF0, in_order (by decide +kernel), ⟨by decide +kernel, by decide +kernel⟩, by decide +kernel⟩,
    ⟨fabric, packet opWR 0 0x100 0 0 (ones 256), 0, 0x3_0100, in_order (by decide +kernel), ⟨by decide +kernel, by decide +kernel⟩, unretired rfl⟩,
    ⟨fabric, packet opWRM 0 0x100 0 0 (ones 288), 0, 0x3_0100, in_order (by decide +kernel), ⟨by decide +kernel, by decide +kernel⟩, unretired rfl⟩,
    fun wide => ?_,
    ⟨fabric, packet opMST 1 0x100 0 0 (ones 256), 0, 0x3_0100, in_order (by decide +kernel), rfl, ⟨by decide +kernel, by decide +kernel⟩, unretired rfl⟩,
    fun k => ?_⟩
  · cases wide
    · exact ⟨fabric, packet opATM 0 0x100 0 7 (ones 16), 0, 0x3_0100, in_order (by decide +kernel), ⟨by decide +kernel, by decide +kernel⟩,
        by decide, by decide +kernel, unretired rfl⟩
    · exact ⟨fabric, packet opATM 0 0x100 0 15 (ones 16), 0, 0x3_0100, in_order (by decide +kernel), ⟨by decide +kernel, by decide +kernel⟩,
        by decide, by decide +kernel, unretired rfl⟩
  · have met : ∀ p : Packet, refusedAs fabric p = some (2, some 0, ⟨2, 22, 0xFFFF, 0, 0x4_0000⟩) →
        (∀ w, inbound fabric p.win p.ftid p.off.toNat w = .refused 2 (some 0) ⟨2, 22, 0xFFFF, 0, 0x4_0000⟩) ∧
        (∀ q, some 0 = some q → ringOn (pregs fabric q).eqcfg = false) ∧ ringOn fabric.dev.deqcfg = false :=
      fun p h => ⟨refused_as h, fun q hq => by cases hq; decide +kernel, by decide +kernel⟩
    match k with
    | 0 =>
      obtain ⟨h1, h2, h3⟩ := met (packet opRD 0 0x1_0000 16 0 []) (by decide +kernel)
      exact ⟨_, _, _, _, _, h1, h2, h3, fun _ => in_order (by decide +kernel), fun h => by (cases h), fun h => by (cases h)⟩
    | 1 =>
      obtain ⟨h1, h2, h3⟩ := met (packet opWR 0 0x1_0000 0 0 (ones 256)) (by decide +kernel)
      exact ⟨_, _, _, _, _, h1, h2, h3, fun h => by (cases h), fun _ => in_order (by decide +kernel), fun h => by (cases h)⟩
    | 2 =>
      obtain ⟨h1, h2, h3⟩ := met (packet opATM 0 0x1_0000 0 0 (ones 8)) (by decide +kernel)
      exact ⟨_, _, _, _, _, h1, h2, h3, fun h => by (cases h), fun h => by (cases h), fun _ => in_order (by decide +kernel)⟩

/-- A packet that the channel from device 5 expects to be numbered n, numbered m. -/
def numbered (n m : BitVec 32) : State × Packet :=
  ({ fabric with chansIn := [⟨5, 1, n, [], [], 3, 0⟩] }, { packet opWR 0 0x100 0 0 (ones 256) with seq := m })

theorem witness_ChannelsKeepOrder :
    (∃ (s : State) (p : Packet), wellFormedPacket opWR p = true ∧ p.dst = s.devid ∧ toPod s p.src = false ∧
      (p.seq - (chanIn s p.src p.tclass).expect).toNat = 2 ^ 31) ∧
    (∃ (s : State) (p : Packet), wellFormedPacket opWR p = true ∧ p.dst = s.devid ∧ toPod s p.src = false ∧
      (p.seq - (chanIn s p.src p.tclass).expect).toNat = 2 ^ 31 - 1 ∧ p.seq ≠ (chanIn s p.src p.tclass).expect ∧
      (∀ q ∈ (chanIn s p.src p.tclass).early, q.seq ≠ p.seq ∧ q.seq ≠ (chanIn s p.src p.tclass).expect) ∧
      (chanIn s p.src p.tclass).expect ∉ (chanIn s p.src p.tclass).skipped) ∧
    (∃ (s : State) (p : Packet), wellFormedPacket opSKIP p = true ∧ p.dst = s.devid ∧ (chanIn s p.src p.tclass).early = [] ∧
      (chanIn s p.src p.tclass).skipped = [] ∧ packetNumber p = (chanIn s p.src p.tclass).expect) ∧
    (∃ (s : State) (p : Packet), wellFormedPacket opSEQA p = true ∧ p.dst = s.devid) ∧
    (∃ (s : State) (dev : BitVec 14) (tc : BitVec 2), (chanIn s dev tc).unacked ≠ 0 ∧ toPod s (chanIn s dev tc).dev = false) ∧
    (∃ (s : State) (dev : BitVec 14) (tc : BitVec 2), (chanIn s dev tc).unacked = 0) :=
  ⟨⟨(numbered 7 0x8000_0007).1, (numbered 7 0x8000_0007).2, by decide +kernel⟩,
    ⟨(numbered 9 0x8000_0008).1, (numbered 9 0x8000_0008).2, by decide +kernel⟩,
    ⟨fabric, packet opSKIP 0 0 0 0 [7, 0, 0, 0], by decide +kernel⟩, ⟨fabric, packet opSEQA 2 0 0 0 [7, 0, 0, 0], by decide +kernel⟩,
    ⟨(numbered 7 7).1, 5, 1, by decide +kernel⟩, ⟨fabric, 5, 1, by decide +kernel⟩⟩

/-- A request of this device's that device 5 has yet to answer. -/
def asked (k : ReqKind) (s : State) : State := { s with reqs := [⟨0x55, k, 5, 1, 7, 0, packet opRD 0 0 0 0 [], none⟩] }

theorem responds {s : State} {op : BitVec 8} {p : Packet} {r : Req} (h : wellFormedPacket op p = true ∧ p.dst = s.devid ∧ p.mark = false)
    (hr : s.reqs.find? (fun x => x.tag == p.tag && !x.refused) = some r) : Responds s op p r := ⟨h.1, h.2.1, h.2.2, hr⟩

/-- An answer of an opcode ends a request of a kind. -/
def AnswerMet (op : BitVec 8) (k : ReqKind) (P : State → Prop) : Prop := ∃ s p r, r.kind = k ∧ Responds s op p r ∧ P s

theorem answer_met {op : BitVec 8} {k : ReqKind} {P : State → Prop} (s : State) (n : Nat)
    (h : wellFormedPacket op (packet op 2 0 0 0 (ones n)) = true ∧ s.devid = 33) (hk : (Req.mk 0x55 k 5 1 7 0 (packet opRD 0 0 0 0 []) none).refused = false)
    (hp : P (asked k s)) : AnswerMet op k P := by
  refine ⟨asked k s, packet op 2 0 0 0 (ones n), ⟨0x55, k, 5, 1, 7, 0, packet opRD 0 0 0 0 [], none⟩, rfl, responds ⟨h.1, h.2.symm, rfl⟩ ?_, hp⟩
  have found : ((0x55#32 == (packet op 2 0 0 0 (ones n)).tag) && !(Req.mk 0x55 k 5 1 7 0 (packet opRD 0 0 0 0 []) none).refused) = true := by
    rw [hk]
    rfl
  exact List.find?_cons_of_pos (p := fun x : Req => x.tag == (packet op 2 0 0 0 (ones n)).tag && !x.refused) found

/-- A multicast group of a member in this device's group and two in another, and a line sent to it. -/
def multicast : State :=
  { fabric with
    mcGroups := [⟨4, 0, 0x1_0000, 0x5_0000, [(40, 3), (70, 3), (71, 3)]⟩], mcFlights := [⟨4, 0x100, 0, 0, 0x99, none, [0, 1], [], 0⟩] }

theorem witness_AnswersEndRequests :
    (AnswerMet opACK (.store 0 0 [(1, 0, 0, 2)]) fun s => (teamOf s 0 0).isSome = true ∧
      (s.groups.find? fun g => g.gid == 0 && g.team == 0 && g.gslot == 0 && g.grpid == 0).isSome = true) ∧
    (∀ op ∈ [opRDR, opNACK], AnswerMet op (.load 0 0 116 31 16 0 2) fun s =>
      ∃ g, groupAt s 0 0 = some g ∧ ∀ k < 4, tagOf g (116 + k) = 0) ∧
    (AnswerMet opATR (.atomic 0 0 0 0 (some 8) 31 4 1 2) fun s => (teamOf s 0 0).isSome = true ∧
      ∃ g, groupAt s 0 0 = some g ∧ ∀ k < 1, tagOf g (8 + k) = 1) ∧
    (AnswerMet opNACK (.store 0 0 [(1, 0, 0, 2)]) fun s => (teamOf s 0 0).isSome = true) ∧
    (AnswerMet opRDR (.desc 0 0 3) fun _ => True) ∧
    (∃ s p r f m, r.kind = .multicast f.tag ∧ s.mcFlights = [f] ∧ requestMembers s f r = [m] ∧ f.reply = none ∧ m ∈ f.pending ∧
      (∃ k ∈ f.pending, k ≠ m) ∧ Responds s opMACK p r ∧ (natOfBytes (p.payload.take 64)).testBit m = false) := by
  refine ⟨answer_met fabric 0 (by decide +kernel) rfl (by decide +kernel), fun op h => ?_,
    answer_met (regs [(8, 1, 0)] fabric) 8 (by decide +kernel) rfl ⟨by decide +kernel, _, rfl, by decide +kernel⟩,
    answer_met fabric 0 (by decide +kernel) rfl (by decide +kernel), answer_met fabric 128 (by decide +kernel) rfl trivial,
    ⟨{ multicast with reqs := [⟨0x55, .multicast 0x99, 40, 1, 7, 0, packet opMST 0 0 0 0 [], none⟩] }, packet opMACK 2 0 0 0 (List.replicate 320 0),
      ⟨0x55, .multicast 0x99, 40, 1, 7, 0, packet opMST 0 0 0 0 [], none⟩, ⟨4, 0x100, 0, 0, 0x99, none, [0, 1], [], 0⟩, 0, rfl, rfl, by decide +kernel,
      rfl, by decide, ⟨1, by decide⟩, responds (by decide +kernel) rfl, by decide +kernel⟩⟩
  simp only [List.mem_cons, List.not_mem_nil, or_false] at h
  rcases h with rfl | rfl
  · exact answer_met fabric 16 (by decide +kernel) rfl ⟨_, rfl, by decide +kernel⟩
  · exact answer_met fabric 0 (by decide +kernel) rfl ⟨_, rfl, by decide +kernel⟩

/-- The fragment of a leaf, as a packet. -/
def fragBytes (f : Frag) : List Byte :=
  bytesOfNat 8 f.label.toNat ++ bytesOfNat 8 (2 * 2 ^ 18 + f.n * 2 ^ 24 + f.op.toNat * 2 ^ 15) ++ bytesOfNat 64 f.data.toNat
/-- A reduction is open at the window's first byte, and its slice has n entries. -/
def fragHere (n : Nat) : State :=
  modPregs { write64 (write64 (write64 (write64 fabric 0x30000 0x0201) 0x30008 8) 0x30010 0x40000) 0x30020 (1 + 5 * 2 ^ 40) with
    reds := [open5] } 0 fun r =>
    { r with slent := BitVec.ofNat 64 n }
def fragPacket : Packet := packet opFRAG 0 0 0 0 (fragBytes { leaf 1 with op := 1 })
/-- A token for plan tag 6, invocation 2. -/
def tokenPacket : Packet := packet opTOKEN 0 0 0 0 (bytesOfNat 8 (0x7 + 6 * 2 ^ 16 + 2 * 2 ^ 32))
/-- A context of it. -/
def plan6 : PlanCtx := ⟨0, 0x40000, 1, [], 6, 100, some 0, 0, 0, 0, [], 0, 2, 0, [], [], [], [], 0⟩

theorem witness_FragmentsLinesAndTokensArrive :
    (∀ room : Bool, ∃ s p part pa r, InOrder s opFRAG p ∧ Lands s p true part pa ∧ fragDiffers s (fragOf p part pa false) = false ∧
      AtSlice s (fragOf p part pa false) r ∧ Inner (fragOf p part pa false) ∧ sliceRoom s r = room ∧
      (room = false → spillSlot s r (fragOf p part pa false).label (fragOf p part pa false).fno = none)) ∧
    (∃ s p g m, InOrder s opMST p ∧ p.mclass = 0 ∧ mcGroup s p.win.toNat = some g ∧
      g.listed.filter (fun x => devGroup x.2.1 == devGroup s.devid) = [m] ∧ m.2.1 ≠ s.devid ∧
      (vget s.ltab (m.2.1.toNat % 32) 0).getLsbD 7 = true ∧ s.mcFlights = []) ∧
    (∀ k : Fin 3, ∃ (s : State) (p : Packet) (part : Nat), InOrder s opTOKEN p ∧
      (List.range 12).find? (fun i => partEnabled s i && ftidOf s i == p.ftid) = some part ∧
      let t : StoredToken := ⟨part, 6, 2, 7⟩
      let runs := fun x : PlanCtx => x.cid.isSome = true ∧ x.part = part ∧ x.ptag = t.ptag ∧ x.inv = t.inv
      (k = 0 → ∃ x ∈ s.plans, runs x) ∧ (k ≠ 0 → (∀ x ∈ s.plans, ¬runs x) ∧ t ∉ s.tokens) ∧
      (k = 1 → (s.tokens.filter fun x => x.part == part).length < 1024) ∧
      (k = 2 → 1024 ≤ (s.tokens.filter fun x => x.part == part).length)) := by
  refine ⟨fun room => ?_, ⟨{ multicast with mcFlights := [], ltab := vset fabric.ltab 8 0x80 }, { packet opMST 0 0x100 0 0 (ones 256) with win := 4 },
      ⟨4, 0, 0x1_0000, 0x5_0000, [(40, 3), (70, 3), (71, 3)]⟩, (0, 40, 3), in_order (by decide +kernel), rfl, rfl, by decide +kernel⟩, fun k => ?_⟩
  · cases room
    · exact ⟨fragHere 0, fragPacket, 0, 0x30000, open5, in_order (by decide +kernel), ⟨by decide +kernel, by decide +kernel⟩, by decide +kernel,
        at_slice (by decide +kernel), inner (by decide +kernel), by decide +kernel⟩
    · exact ⟨fragHere 1, fragPacket, 0, 0x30000, open5, in_order (by decide +kernel), ⟨by decide +kernel, by decide +kernel⟩, by decide +kernel,
        at_slice (by decide +kernel), inner (by decide +kernel), by decide +kernel⟩
  · match k with
    | 0 => exact ⟨{ fabric with plans := [plan6] }, tokenPacket, 0, in_order (by decide +kernel), by decide +kernel, by decide +kernel⟩
    | 1 => exact ⟨{ fabric with plans := [{ plan6 with cid := none }] }, tokenPacket, 0, in_order (by decide +kernel), by decide +kernel, by decide +kernel⟩
    | 2 => exact ⟨{ fabric with tokens := List.replicate 1024 ⟨0, 6, 2, 8⟩ }, tokenPacket, 0, in_order (by decide +kernel), by decide +kernel,
        fun h => by (cases h), fun _ => ⟨fun x hx => by (cases hx), fun h => by (cases List.eq_of_mem_replicate h)⟩, fun h => by (cases h), by decide +kernel⟩

/-- A packet for device 40 of this group, and one from another group on its way to device 70 of group 2. -/
def inward : Packet := { packet opRD 0 0 8 0 [] with src := 33, dst := 40 }
def outward : Packet := { packet opRD 0 0 8 0 [] with src := 100, dst := 70 }
/-- A packet is to leave; this device holds the link to group 2. -/
def leaving (p : Packet) (s : State) : State := { s with outbox := [p], gtab := vset s.gtab 2 0x201 }

/-- Every port is up, in routing, busy until a time and with credits in use on the channels of class 0. -/
def jammed (till used : Nat) : State :=
  { leaving outward fabric with
    ports := Vector.replicate 48
      ⟨.up, [], 0, true, 0, [], 0, [⟨0, 0, used⟩, ⟨0, 1, used⟩, ⟨0, 2, used⟩, ⟨0, 3, used⟩], till, [], false⟩ }

theorem jammed_usable (till used i : Nat) : portUsable (jammed till used) i = portUsable (jammed 0 0) i := by
  rcases Nat.lt_or_ge i 48 with h | h <;> simp [portUsable, jammed, h]

/-- Port 32 is on the way to group 2, whatever its use. -/
theorem outward_port (till used : Nat) : 32 ∈ routePorts (jammed till used) outward := by
  have local' (m : Nat) : localHop (jammed till used) m = localHop (jammed 0 0) m := by
    simp only [localHop, jammed_usable till used]
    rfl
  have global (h : Nat) (b : Bool) : globalHop (jammed till used) h b = globalHop (jammed 0 0) h b := by
    simp only [globalHop, jammed_usable till used, local']
    rfl
  have same : routePorts (jammed till used) outward = routePorts (jammed 0 0) outward := by
    simp only [routePorts, global, local']
    rfl
  rw [same]
  decide +kernel

/-- The rank of the hop, and what else decides whether the packet may leave, are the same whatever the ports' use. -/
theorem outward_rank (till used : Nat) : nextRank (jammed till used) outward 32 = 1 := by
  show nextRank (jammed 0 0) outward 32 = 1
  decide +kernel
theorem jammed_time (till used : Nat) : (jammed till used).time = 0 := by
  show (jammed 0 0).time = 0
  decide +kernel
theorem outward_waits (till used : Nat) : inWindow (jammed till used) outward = true ∧ outward.dst ≠ (jammed till used).devid ∧
    toPod (jammed till used) outward.dst = false ∧ rateAllows (jammed till used) outward = true := by
  show inWindow (jammed 0 0) outward = true ∧ outward.dst ≠ (jammed 0 0).devid ∧
    toPod (jammed 0 0) outward.dst = false ∧ rateAllows (jammed 0 0) outward = true
  decide +kernel

theorem witness_PacketsTravel :
    (∃ s p n x, p ∈ s.outbox ∧ inWindow s p = true ∧ p.dst ≠ s.devid ∧ toPod s p.dst = false ∧ n ∈ routePorts s p ∧ n < 48 ∧
      s.ports[n]? = some x ∧ rateAllows s p = true ∧ x.busyTill ≤ s.time.toNat ∧
      x.used p.mclass (nextRank s p n) ≤ Config.moreCredits) ∧
    (∀ busy : Bool, ∃ s p n x, p ∈ s.outbox ∧ inWindow s p = true ∧ p.dst ≠ s.devid ∧ toPod s p.dst = false ∧ n ∈ routePorts s p ∧
      n < 48 ∧ s.ports[n]? = some x ∧ rateAllows s p = true ∧
      (if busy then s.time.toNat < x.busyTill else Config.moreCredits < x.used p.mclass (nextRank s p n))) ∧
    (∃ s p r, p ∈ s.outbox ∧ inWindow s p = true ∧ p.dst ≠ s.devid ∧ toPod s p.dst = false ∧ routePorts s p = [] ∧ p.src = s.devid ∧ p.mclass ≠ 2 ∧
      p.opcode ≠ opSKIP ∧ s.reqs.find? (fun x => x.tag == p.tag && !x.refused) = some r ∧ r.kind = .frag ∧ toPod s r.dev = false) ∧
    (∀ early : Fin 2, ∃ s r tm, s.reqs.find? (fun x => x.tag == r.tag && !x.refused) = some r ∧ r.kind = .store 0 0 [] ∧
      teamOf s 0 0 = some tm ∧ toPod s r.dev = false ∧ s.time.toNat + early = r.sentAt + 2000000) ∧
    (∀ skip : Bool, ∃ (s : State) (c : ChanOut) (x : Packet × Nat) (at' : Nat), s.chansOut = [c] ∧ c.kept = [x] ∧ c.dev = x.1.dst ∧
      c.tclass = x.1.tclass ∧ toPod s c.dev = false ∧ c.skips = (if skip then [(x.1.seq, at')] else []) ∧ at' + 50000 = s.time.toNat ∧ x.2 + 50000 = s.time.toNat ∧ x.1 ∉ s.outbox) ∧
    (∃ s r ctx op started x, s.reqs.find? (fun y => y.tag == r.tag && y.refused) = some r ∧ r.kind = .token ctx op started true ∧
      planOf s ctx = some x ∧ s.time.toNat + 1 = started + 1000 * x.timeout) ∧
    (∀ go : Bool, ∃ (s : State) (value : BitVec 64), (∀ r ∈ s.reqs, r.dev = value.extractLsb' 0 14 → r.refused = false → r.kind = .frag) ∧
      value.getLsbD 16 = go) := by
  refine ⟨?_, fun busy => ?_, ⟨leaving inward (asked .frag fabric), inward,
      ⟨0x55, .frag, 5, 1, 7, 0, packet opRD 0 0 0 0 [], none⟩, List.mem_singleton.mpr rfl, by decide +kernel, by decide, by decide +kernel, by decide +kernel, rfl, by decide, by decide, rfl,
      rfl, by decide +kernel⟩,
    fun early => ?_, fun skip => ?_,
    ⟨{ asked (.token 0 2 5 true) fabric with plans := [plan6], time := 100004 }, ⟨0x55, .token 0 2 5 true, 5, 1, 7, 0, packet opRD 0 0 0 0 [], none⟩, 0, 2, 5, plan6,
      rfl, rfl, rfl, by decide⟩,
    fun go => ⟨asked .frag fabric, if go then 0x10005 else 5, fun r hr _ _ => by (rw [List.mem_singleton.mp hr]), by revert go; decide⟩⟩
  · obtain ⟨h1, h2, h3, h4⟩ := outward_waits 0 0
    exact ⟨_, outward, 32, _, List.mem_singleton.mpr rfl, h1, h2, h3, outward_port 0 0, by decide, rfl, h4, Nat.zero_le _, Nat.zero_le _⟩
  · obtain ⟨h1, h2, h3, h4⟩ := outward_waits 1 (Config.moreCredits + 1)
    refine ⟨_, outward, 32, _, List.mem_singleton.mpr rfl, h1, h2, h3, outward_port _ _, by decide, rfl, h4, ?_⟩
    rw [outward_rank, jammed_time]
    cases busy
    · exact Nat.lt_succ_self _
    · exact Nat.zero_lt_one
  · refine ⟨{ asked (.store 0 0 []) fabric with time := BitVec.ofNat 64 (2000000 - early.val) }, ⟨0x55, .store 0 0 [], 5, 1, 7, 0, packet opRD 0 0 0 0 [], none⟩, _, rfl, rfl, rfl, by revert early; decide +kernel, ?_⟩
    revert early
    decide
  · exact ⟨{ fabric with chansOut := [⟨33, 1, 8, [(packet opRD 0 0 8 0 [], 3)], if skip then [(7, 3)] else []⟩], time := 50003 }, _, (packet opRD 0 0 8 0 [], 3), 3, rfl, rfl, rfl, rfl,
      by revert skip; decide +kernel, rfl, rfl, rfl, fun h => by (cases h)⟩

/-- Group 2 of the multicast table has one member. -/
def mcTable (w : Dword) : State :=
  { write64 (write64 (write64 (write64 (write64 { one with mem := [] } 0x50080 w) 0x50088 0x58000) 0x50090 0x1_0000) 0x50098 0x5_A000) 0x58000 0x3_0005 with
    dev := { one.dev with mcbase := 0x50000 } }

theorem witness_MulticastTableAndTimeouts :
    (∃ value : BitVec 64, value.getLsbD 12 = false) ∧
    (∃ (s : State) (value : BitVec 64), value.getLsbD 12 = true ∧ (read64 s (mcEntryAt s (bits value 0 12))).getLsbD 0 = false) ∧
    (∃ s value g, BitVec.getLsbD value 12 = true ∧ (read64 s (mcEntryAt s (bits value 0 12))).getLsbD 0 = true ∧
      mcEntry s (bits value 0 12) (mcEntryAt s (bits value 0 12)) = some g ∧ Unretired s g.record 16) ∧
    (∃ (s : State) (f : McFlight) (member : Nat), s.mcFlights = [f] ∧ member ∈ f.pending ∧ f.reply = none ∧ s.time.toNat + 1 = f.sentAt + 2000000) ∧
    (∃ (s : State) (f : McFlight) (member : Nat), s.mcFlights = [f] ∧ member ∈ f.pending ∧ s.time.toNat = f.sentAt + 2000000 ∧ ∃ k ∈ f.pending, k ≠ member) ∧
    (∃ (s : State) (f : McFlight) (member : Nat) (q : Packet), s.mcFlights = [f] ∧ member ∈ f.pending ∧ (∀ k ∈ f.pending, k = member) ∧ f.reply = some q) := by
  have some' : (mcEntry (mcTable 0x41) 2 (mcEntryAt (mcTable 0x41) 2)).isSome = true := by decide +kernel
  obtain ⟨g, hg⟩ := Option.isSome_iff_exists.mp some'
  refine ⟨⟨0, by decide⟩, ?_, ?_, ?_, ?_, ?_⟩
  · exact ⟨mcTable 0, 0x1002, by decide +kernel⟩
  · exact ⟨mcTable 0x41, 0x1002, g, by decide +kernel, by decide +kernel, hg, unretired rfl⟩
  · exact ⟨{ multicast with time := 1999999 }, ⟨4, 0x100, 0, 0, 0x99, none, [0, 1], [], 0⟩, 1, rfl, by decide⟩
  · exact ⟨{ multicast with time := 2000000 }, ⟨4, 0x100, 0, 0, 0x99, none, [0, 1], [], 0⟩, 1, rfl, by decide, by decide, 0, by decide⟩
  · exact ⟨{ multicast with mcFlights := [⟨4, 0x100, 0, 0, 0x99, some (packet opMST 0 0 0 0 []), [1], [], 0⟩] }, _, 1, packet opMST 0 0 0 0 [], rfl, by decide, by decide, rfl⟩

end Sys2Proof.Tests

namespace Sys2Proof.Tests
open Sys2Proof Sys2Proof.Machine
set_option Elab.async false

/-! ## Links and lane groups -/

/-- Port 35 as given, 20 ms after reset. -/
def linked35 (p : Port) : State :=
  { State.reset with time := 20000000, ports := State.reset.ports.set 35 p }

/-- A port in a state, in routing, that came up at a time, with replays 10 µs apart before now, attempts made, the last from a
time on, and a packet in its retry buffer. -/
def port (state : LinkState) (replays attempts upSince trainFrom : Nat) : Port :=
  ⟨state, (List.range replays).map (fun k => 19000001 + 10000 * k), attempts, false, upSince,
    [(packet opRD 0 0 0 0 [], packet opRD 0 0 0 0 [])], trainFrom, [], 0, [], false⟩

/-- A state with port 35 as given. -/
def PortMet (P : State → Nat → Port → Prop) : Prop :=
  ∃ (s : State) (i : Nat) (p : Port), portExists s i = true ∧ i < 48 ∧ s.ports[i]? = some p ∧ P s i p

theorem port_met {P : State → Nat → Port → Prop} (p : Port) (h : P (linked35 p) 35 p) : PortMet P :=
  ⟨linked35 p, 35, p, rfl, by decide, by simp [linked35], h⟩

/-- The replays of the last 1 ms, with one now. -/
def recent (s : State) (p : Port) : Nat :=
  (p.replays.filter (fun t => decide (s.time.toNat < t + 1000000)) ++ [s.time.toNat]).length

theorem witness_LinksChangeState :
    (∀ st ∈ [LinkState.up, .replay], ∀ old ≤ 6, PortMet fun s _ p => p.state = st ∧ p.replays.length = old ∧ recent s p < 8) ∧
    (∀ st ∈ [LinkState.up, .replay], PortMet fun s _ p => p.state = st ∧ 8 ≤ recent s p) ∧
    PortMet (fun s _ p => p.state = .retrain ∧ s.time.toNat = p.trainFrom + 10000000) ∧
    (∀ late : Bool, PortMet fun s _ p => p.state = .retrain ∧ (p.trainFrom + 10000000 < s.time.toNat ↔ late = true) ∧ p.attempts + 1 = 2) ∧
    (∀ late : Bool, PortMet fun s _ p => p.state = .retrain ∧ (p.trainFrom + 10000000 < s.time.toNat ↔ late = true) ∧ p.attempts + 1 = 3) ∧
    PortMet (fun s _ p => p.state = .up ∧ p.routing = false ∧ p.upSince + 100000 = s.time.toNat) ∧
    PortMet (fun s _ p => s.time.toNat + 1 = p.upSince + 100000) ∧
    PortMet (fun s i p => p.state = .down ∧ fenced s (portBlock i) = false) := by
  refine ⟨fun st hs old h => port_met (port st old 0 0 0) ?_, fun st hs => port_met (port st 7 0 0 0) ?_,
    port_met (port .retrain 0 0 0 10000000) (by decide +kernel),
    fun late => port_met (port .retrain 0 1 0 (if late then 9999999 else 10000000)) (by revert late; decide +kernel),
    fun late => port_met (port .retrain 0 2 0 (if late then 9999999 else 10000000)) (by revert late; decide +kernel),
    port_met (port .up 0 0 19900000 0) (by decide +kernel), port_met (port .up 0 0 19900001 0) (by decide +kernel),
    port_met (port .down 0 3 0 0) (by decide +kernel)⟩
  · simp only [List.mem_cons, List.not_mem_nil, or_false] at hs
    have all : ∀ k : Fin 7, (port .up k.val 0 0 0).replays.length = k.val ∧
        recent (linked35 (port .up k.val 0 0 0)) (port .up k.val 0 0 0) < 8 := by decide +kernel
    have here := all ⟨old, by omega⟩
    rcases hs with rfl | rfl <;> exact ⟨rfl, here.1, here.2⟩
  · simp only [List.mem_cons, List.not_mem_nil, or_false] at hs
    rcases hs with rfl | rfl <;> decide +kernel

/-- A replay 1 ms and 1 ns ago does not count. -/
theorem test_an_old_replay_does_not_count :
    (((19000000 :: (port .replay 6 0 0 0).replays).filter (fun t => decide (20000000 < t + 1000000)) ++ [20000000]).length = 7) := by
  decide +kernel

/-- Lane group n as given, 100 µs after reset. -/
def laneGroup (n : Fin 20) (g : LaneGroup) (s : State) : State := { s with time := 100000, lgs := s.lgs.set n g }
/-- A lane group of a personality in effect, in a state, with a target. -/
def lane (cur state : BitVec 3) (tgt : BitVec 8) : LaneGroup :=
  { LaneGroup.boot 0 with cur := cur, state := state, tgt := tgt }

/-- A lane group that is not half of a bonded pair. -/
def LgMet (P : State → Nat → Prop) : Prop := ∃ s n, n < 20 ∧ (lgAt s n).paired = false ∧ P s n

theorem lg_met {P : State → Nat → Prop} (n : Fin 20) (s : State) (h : (lgAt s n).paired = false ∧ P s n) : LgMet P :=
  ⟨s, n, n.isLt, h.1, h.2⟩

/-- A go: bit 8 set with a target. -/
def go (t : BitVec 8) : BitVec 64 := 0x100#64 + t.setWidth 64

/-- The breach that a go finds. -/
def breachOf (s : State) (n : Nat) (value : BitVec 64) : Nat :=
  if fenced s (3472 + n) then 4 else lgBreach s n (value.setWidth 8) (bits value 9 55 ≠ 0)

/-- Lane group 0 is the command lane group, groups 4 and 6 are CXL ports of slots 1 and 2, and group 5 is half-way. -/
def groups : State := laneGroup 6 (lane 4 0 0x44) (laneGroup 5 (lane 1 2 0x01) (laneGroup 4 (lane 4 0 0x24) State.reset))

theorem witness_LaneGroupsChangePersonality :
    (∃ value : BitVec 64, LgMet fun _ _ => value.getLsbD 8 = false) ∧
    (∀ st : Fin 4, ∃ value : BitVec 64, LgMet fun s n =>
      value.getLsbD 8 = true ∧ (lgAt s n).state.toNat = st.val + 1) ∧
    (∃ value : BitVec 64, LgMet fun s n => value.getLsbD 8 = true ∧
      ¬(1 ≤ (lgAt s n).state.toNat ∧ (lgAt s n).state.toNat ≤ 4) ∧ breachOf s n value ≠ 0) ∧
    (∀ st : Fin 2, ∃ value : BitVec 64, LgMet fun s n => value.getLsbD 8 = true ∧ (lgAt s n).state.toNat = 5 * st.val ∧
      ¬(1 ≤ (lgAt s n).state.toNat ∧ (lgAt s n).state.toNat ≤ 4) ∧ breachOf s n value = 0 ∧ persOf (value.setWidth 8) ≠ 4) ∧
    LgMet (fun s n => (lgAt s n).state = 1) ∧
    LgMet (fun s n => (lgAt s n).state = 2 ∧ drainClear s n = true) ∧
    (∃ bound, LgMet fun s n => (lgAt s n).state = 2 ∧ drainBound (lgAt s n).cur = some bound ∧
      (lgAt s n).stateSince + bound = s.time.toNat) ∧
    LgMet (fun s n => (lgAt s n).state = 3 ∧ persOf (lgAt s n).tgt ≠ 4) ∧
    (∀ cap ∈ [1, 4096], LgMet fun s n => (lgAt s n).state = 3 ∧ persOf (lgAt s n).tgt = 4 ∧ 1 ≤ cap ∧ cap ≤ 4096 ∧
      cxlTotal s n + cap * 2 ^ 28 ≤ 4 * 10 ^ 12) ∧
    (∃ cap, LgMet fun s n => (lgAt s n).state = 3 ∧ persOf (lgAt s n).tgt = 4 ∧ cap = 4097) ∧
    (∀ p ∈ [0, 1, 5], LgMet fun s n => (lgAt s n).state = 4 ∧ persOf (lgAt s n).tgt = p ∧ persOf (lgAt s n).tgt ≠ 4) ∧
    LgMet (fun (s : State) n => ∃ v, s.trust.bootTable[n]? = some v) := by
  refine ⟨⟨0x1, lg_met 19 State.reset (by decide +kernel)⟩, fun st => ⟨go 1, lg_met 19 (laneGroup 19 (lane 0 (BitVec.ofNat 3 (st.val + 1)) 1) State.reset) ?_⟩,
    ⟨go 3, lg_met 19 State.reset (by decide +kernel)⟩, fun st => ⟨go 1, lg_met 19 (laneGroup 19 (lane 0 (BitVec.ofNat 3 (5 * st.val)) 1) State.reset) ?_⟩,
    lg_met 19 (laneGroup 19 (lane 0 1 1) State.reset) (by decide +kernel), lg_met 19 (laneGroup 19 (lane 5 2 1) State.reset) (by decide +kernel),
    ⟨2000000, lg_met 19 { laneGroup 19 { lane 1 2 0 with stateSince := 100000 } State.reset with time := 2100000 } (by decide +kernel)⟩,
    lg_met 19 (laneGroup 19 (lane 0 3 1) State.reset) (by decide +kernel), fun cap h => lg_met 7 (laneGroup 7 (lane 0 3 0x64) groups) ?_,
    ⟨4097, lg_met 7 (laneGroup 7 (lane 0 3 0x64) groups) (by decide +kernel)⟩, fun p h => ?_, lg_met 19 State.reset ⟨by decide +kernel, by
      exact ⟨_, Vector.getElem?_eq_getElem (by decide)⟩⟩⟩
  · revert st; decide +kernel
  · revert st; decide +kernel
  · simp only [List.mem_cons, List.not_mem_nil, or_false] at h
    rcases h with rfl | rfl <;> decide +kernel
  · simp only [List.mem_cons, List.not_mem_nil, or_false] at h
    rcases h with rfl | rfl | rfl
    · exact lg_met 19 (laneGroup 19 (lane 0 4 0) State.reset) (by decide +kernel)
    · exact lg_met 19 (laneGroup 19 (lane 0 4 1) State.reset) (by decide +kernel)
    · exact lg_met 19 (laneGroup 19 (lane 0 4 5) State.reset) (by decide +kernel)

/-- R443, R446 to R448: the causes 1 to 6 with which a go fails. -/
theorem test_go_breaches :
    breachOf groups 10 (go 3) = 1 ∧ breachOf groups 10 (go 6) = 2 ∧ breachOf groups 1 (go 1) = 2 ∧ breachOf groups 10 (go 0x24) = 3 ∧
    breachOf groups 9 (go 0x0C) = 5 ∧ breachOf groups 10 (go 0x64) = 0 ∧ breachOf groups 10 (go 1 + 0x200#64) = 2 := by decide +kernel

end Sys2Proof.Tests

namespace Sys2Proof.Tests
open Sys2Proof Sys2Proof.Machine
set_option Elab.async false

/-! ## Plans -/

/-- The command that runs the bench's plan: its invocation record names the graph at 0x40000 and a status word at 0x20000. -/
def planCmd : Cmd :=
  { queuedCmd (.plan 0x30000) with
    phase := .planning, record := bytesOfNat 8 0x40000 ++ List.replicate 48 0 ++ bytesOfNat 8 0x20000 }

/-- At 0x40000 is a graph of tag 6 with one NOP. -/
def planned : State := write64 (write64 (commanded planCmd) 0x40000 1) 0x40008 0x60001

/-- Every context is taken. -/
def contexts : List PlanCtx := (List.range 64).map fun i => { plan6 with idx := i, cid := some 9 }

/-- A NOP without inputs. -/
def nopOp : PlanOp := ⟨0, [], 0, 0, 0, 0, 0, 0⟩

/-- The bytes of the header. -/
def headBytes (s : State) : List Byte := bytesAt s.mem 0x40000 256

/-- What reading a plan comes to. -/
def readOut (s : State) (k : Cmd) (addr : Dword) : PlanStart × CmdIo := (readPlan s k addr).run CmdIo.start

theorem pair_of {α β : Type} {p : α × β} {a : α} (h : p.1 = a) : p = (a, p.2) := by
  cases h
  rfl

theorem witness_PlansTakeContexts :
    let Met (P : State → Cmd → CmdIo → List Byte → List Byte → List PlanOp → Prop) : Prop := ∃ s k addr io record head ops,
      cmdOf s k.cid = some k ∧ k.op = .plan addr ∧ k.phase = .planning ∧ (∀ x ∈ s.plans, x.cid ≠ some k.cid) ∧ io.busy = false ∧
      io.need = [] ∧ readOut s k addr = (.run record head ops, io) ∧ P s k io record head ops
    Met (fun s k _ record head _ => freeCtx s k.part (dwordAt record 0) (dwordAt head 0) = some 0) ∧
    Met (fun s k _ record head _ => freeCtx s k.part (dwordAt record 0) (dwordAt head 0) = some 63 ∧
      (warmCtx s k.part (dwordAt record 0) (dwordAt head 0)).isSome = true) ∧
    Met (fun s k _ record head _ => freeCtx s k.part (dwordAt record 0) (dwordAt head 0) = none) ∧
    (∃ s k addr io record pa m, cmdOf s k.cid = some k ∧ k.op = .plan addr ∧ k.phase = .planning ∧
      (∀ x ∈ s.plans, x.cid ≠ some k.cid) ∧ io.busy = false ∧ io.need = [] ∧
      readOut s k addr = (.bad record, io) ∧ (dwordAt record 0x38).toNat < 2 ^ 56 ∧
      (dwordAt record 0x38).toNat % 8 = 0 ∧ access s (copyTlb k.core) k.part k.gid (dwordAt record 0x38).toNat true false = .ok pa m ∧
      Unretired s pa 8) := by
  have met : ∀ s : State, (cmdOf s planCmd.cid = some planCmd ∧ (∀ x ∈ s.plans, x.cid ≠ some planCmd.cid) ∧ (readOut s planCmd 0x30000).2.busy = false ∧
      (readOut s planCmd 0x30000).2.need = [] ∧ (readOut s planCmd 0x30000).1 = .run planCmd.record (headBytes planned) [nopOp]) →
      cmdOf s planCmd.cid = some planCmd ∧ planCmd.op = .plan 0x30000 ∧ planCmd.phase = .planning ∧
      (∀ x ∈ s.plans, x.cid ≠ some planCmd.cid) ∧ (readOut s planCmd 0x30000).2.busy = false ∧
      (readOut s planCmd 0x30000).2.need = [] ∧
      readOut s planCmd 0x30000 = (.run planCmd.record (headBytes planned) [nopOp], (readOut s planCmd 0x30000).2) :=
    fun s h => ⟨h.1, rfl, rfl, h.2.1, h.2.2.1, h.2.2.2.1, pair_of h.2.2.2.2⟩
  refine ⟨?_, ?_, ?_, ?_⟩
  · obtain ⟨h1, h2, h3, h4, h5, h6, h7⟩ := met planned (by decide +kernel)
    exact ⟨_, _, _, _, _, _, _, h1, h2, h3, h4, h5, h6, h7, by decide +kernel⟩
  · obtain ⟨h1, h2, h3, h4, h5, h6, h7⟩ := met
      { planned with plans := contexts.take 63 ++ [{ plan6 with idx := 63, graph := 0x40000, gen := 1, cid := none, ops := [nopOp] }] }
      (by decide +kernel)
    exact ⟨_, _, _, _, _, _, _, h1, h2, h3, h4, h5, h6, h7, by decide +kernel⟩
  · obtain ⟨h1, h2, h3, h4, h5, h6, h7⟩ := met { planned with plans := contexts } (by decide +kernel)
    exact ⟨_, _, _, _, _, _, _, h1, h2, h3, h4, h5, h6, h7, by decide +kernel⟩
  · have bad : (readOut (write64 planned 0x40008 0x60000) planCmd 0x30000).1 = .bad planCmd.record ∧
        (readOut (write64 planned 0x40008 0x60000) planCmd 0x30000).2.busy = false ∧
        (readOut (write64 planned 0x40008 0x60000) planCmd 0x30000).2.need = [] := by decide +kernel
    have status : (dwordAt planCmd.record 0x38).toNat < 2 ^ 56 ∧ (dwordAt planCmd.record 0x38).toNat % 8 = 0 ∧
        access (write64 planned 0x40008 0x60000) (copyTlb planCmd.core) planCmd.part planCmd.gid (dwordAt planCmd.record 0x38).toNat
          true false = .ok 0x20000 0x20000 := by decide +kernel
    have both : readOut (write64 planned 0x40008 0x60000) planCmd 0x30000 =
        (.bad planCmd.record, (readOut (write64 planned 0x40008 0x60000) planCmd 0x30000).2) := pair_of bad.1
    exact ⟨_, planCmd, 0x30000, _, _, 0x20000, 0x20000, rfl, rfl, rfl, fun _ h => by (cases h), bad.2.1, bad.2.2, both,
      status.1, status.2.1, status.2.2, unretired rfl⟩

/-- A state whose one context runs a plan of one operation. -/
def planner (o : PlanOp) (s : State) : State := { s with plans := [{ plan6 with ops := [o], tokens := [7] }], cmds := [planCmd] }

/-- An operation of a kind may fire. -/
def FireMet (kind : Nat) (P : State → PlanCtx → Cmd → PlanOp → Prop) : Prop :=
  ∃ s ctx op x k o, CanFire s ctx op kind x k o ∧ (∀ i ∈ x.fired, i ∈ x.finished) ∧ k.remote = 0 ∧ P s x k o

theorem fire_met {P : State → PlanCtx → Cmd → PlanOp → Prop} (o : PlanOp) (s : State)
    (h : ∀ i ∈ o.inputs, ({ plan6 with ops := [o], tokens := [7] } : PlanCtx).has i = true)
    (hp : P (planner o s) { plan6 with ops := [o], tokens := [7] } planCmd o) : FireMet o.kind P :=
  ⟨planner o s, 0, 0, { plan6 with ops := [o], tokens := [7] }, planCmd, o,
    ⟨rfl, rfl, rfl, rfl, rfl, rfl, by exact List.not_mem_nil, by exact List.not_mem_nil, h⟩, fun _ h => by (cases h), rfl, hp⟩

theorem here_for {s : State} {k : Cmd} {va n : Nat} {w : Bool} {pa : Nat} (m : Nat) (h : va < 2 ^ 56 ∧ 0 < n ∧ va % 256 + n ≤ 256 ∧
    access s (copyTlb k.core) k.part k.gid va w false = .ok pa m ∧ sliceBusy s pa = false ∧ poisoned s pa n = false) : HereFor s k va n w pa :=
  ⟨h.1, h.2.1, h.2.2.1, ⟨m, h.2.2.2.1⟩, h.2.2.2.2.1, h.2.2.2.2.2⟩

/-- The bench's memory with the descriptor of `described`, in a state of R116. -/
def waited (st : Dword) : State := write64 { commanded planCmd with mem := described.mem } 0x30020 st

/-- A partition's peer table at 0x28000, whose entry 0 names port 0 of lane group 3 where it is valid, and that lane group. -/
def peered (valid : Bool) (cur state : BitVec 3) : State :=
  let s := modPregs { commanded planCmd with mem := mapped.mem } 0 fun r => { r with uetab := 0x28000 }
  laneGroup 3 (lane cur state 5) (write64 s 0x28010 (if valid then 0x800C_0000_0000 else 0))

theorem witness_PlanOperationsFire :
    FireMet 0 (fun _ _ _ o => o.inputs ≠ []) ∧
    FireMet 1 (fun s x k o => ∃ a b, HereFor s k (x.src o) o.len false a ∧ HereFor s k (x.dst o) o.len true b ∧ Unretired s b o.len ∧
      o.len = 256) ∧
    (∀ good : Bool, FireMet 2 fun s x k o => ∃ b, HereFor s k (x.dst o) 64 true b ∧ x.dst o % 64 = 0 ∧
      let f := descFrag k.part (cmdClass s k) (descHere s b) (bits o.aux 34 6) (bits o.aux 0 34)
      (good = true → o.len = fragElems f.tile f.fmt * fragCount f.tile f.fmt * redBytes f.fmt ∧
        (∃ a, HereFor s k (x.src o) o.len false a) ∧ f.orphan = false) ∧
      (good = false → o.len ≠ fragElems f.tile f.fmt * fragCount f.tile f.fmt * redBytes f.fmt)) ∧
    (∀ st ∈ [0, 1, 2, 3], FireMet 3 fun s x k o => ∃ b, HereFor s k (x.dst o) 64 false b ∧ x.dst o % 64 = 0 ∧
      bits (read64 s (b + 0x20)) 0 3 = st) ∧
    FireMet 4 (fun _ _ _ _ => True) ∧
    (∀ link ∈ [UeLink.carries, .waits, .absent], FireMet 5 fun s x k o => ∃ a, HereFor s k (x.src o) o.len false a ∧
      ueValid (ueEntry s k.part (bits o.aux 0 10)) = true ∧ ueLink s (ueEntry s k.part (bits o.aux 0 10)) = link) ∧
    (∀ valid : Bool, FireMet 6 fun s _ k o => ueValid (ueEntry s k.part (bits o.aux 0 10)) = valid ∧
      (valid = true → ueLink s (ueEntry s k.part (bits o.aux 0 10)) = .carries)) := by
  refine ⟨fire_met { nopOp with inputs := [0x8007] } (commanded planCmd) (fun i h => by (rw [List.mem_singleton.mp h]; decide)) (by exact List.cons_ne_nil _ _),
    fire_met ⟨1, [], 0, 0, 256, 0x20000, 0x20100, 0⟩ (commanded planCmd) (fun _ h => by (cases h))
      ⟨0x20000, 0x20100, here_for 0x20000 (by decide +kernel), here_for 0x20100 (by decide +kernel), unretired rfl, rfl⟩,
    fun good => ?_, fun st h => ?_, fire_met ⟨4, [], 0, 0, 0, 0, 0, 0x6_0007_0021⟩ (commanded planCmd) (fun _ h => by (cases h)) trivial, fun link h => ?_, fun valid => ?_⟩
  · cases good
    · exact fire_met ⟨2, [], 0, 0, 8, 0x20000, 0x30000, 3⟩ (waited 0) (fun _ h => by (cases h)) ⟨0x30000, here_for 0x30000 (by decide +kernel),
        by decide +kernel, (by intro h; cases h), fun _ => by decide +kernel⟩
    · exact fire_met ⟨2, [], 0, 0, 4, 0x20000, 0x30000, 3⟩ (waited 0) (fun _ h => by (cases h)) ⟨0x30000, here_for 0x30000 (by decide +kernel),
        by decide +kernel, fun _ => ⟨by decide +kernel, ⟨0x20000, here_for 0x20000 (by decide +kernel)⟩, by decide +kernel⟩,
        (by intro h; cases h)⟩
  · simp only [List.mem_cons, List.not_mem_nil, or_false] at h
    rcases h with rfl | rfl | rfl | rfl
    · exact fire_met ⟨3, [], 0, 0, 0, 0, 0x30000, 0⟩ (waited 0) (fun _ h => by (cases h)) ⟨0x30000, here_for 0x30000 (by decide +kernel), by decide +kernel, by decide +kernel⟩
    · exact fire_met ⟨3, [], 0, 0, 0, 0, 0x30000, 0⟩ (waited 1) (fun _ h => by (cases h)) ⟨0x30000, here_for 0x30000 (by decide +kernel), by decide +kernel, by decide +kernel⟩
    · exact fire_met ⟨3, [], 0, 0, 0, 0, 0x30000, 0⟩ (waited 2) (fun _ h => by (cases h)) ⟨0x30000, here_for 0x30000 (by decide +kernel), by decide +kernel, by decide +kernel⟩
    · exact fire_met ⟨3, [], 0, 0, 0, 0, 0x30000, 0⟩ (waited 3) (fun _ h => by (cases h)) ⟨0x30000, here_for 0x30000 (by decide +kernel), by decide +kernel, by decide +kernel⟩
  · simp only [List.mem_cons, List.not_mem_nil, or_false] at h
    rcases h with rfl | rfl | rfl
    · exact fire_met ⟨5, [], 0, 0, 8, 0x20000, 0, 0⟩ (peered true 5 0) (fun _ h => by (cases h)) ⟨0x20000, here_for 0x20000 (by decide +kernel), by decide +kernel, by decide +kernel⟩
    · exact fire_met ⟨5, [], 0, 0, 8, 0x20000, 0, 0⟩ (peered true 5 2) (fun _ h => by (cases h)) ⟨0x20000, here_for 0x20000 (by decide +kernel), by decide +kernel, by decide +kernel⟩
    · exact fire_met ⟨5, [], 0, 0, 8, 0x20000, 0, 0⟩ (peered true 1 0) (fun _ h => by (cases h)) ⟨0x20000, here_for 0x20000 (by decide +kernel), by decide +kernel, by decide +kernel⟩
  · cases valid
    · exact fire_met ⟨6, [], 0, 0, 0, 0, 0, 0x6_0007_0000⟩ (peered false 5 0) (fun _ h => by (cases h)) (by decide +kernel)
    · exact fire_met ⟨6, [], 0, 0, 0, 0, 0, 0x6_0007_0000⟩ (peered true 5 0) (fun _ h => by (cases h)) (by decide +kernel)

/-- A plan with operations and what it has fired and finished. -/
def going (ops : List PlanOp) (fired finished : List Nat) : PlanCtx :=
  { plan6 with ops := ops, fired := fired, finished := finished, statusAddr := 0x20000 }
/-- A state that runs it, at a time. -/
def goingIn (x : PlanCtx) (time : Dword) : State := { commanded planCmd with plans := [x], time := time }

/-- A plan under way, whose status word can be written. -/
def PlanMet (P : State → PlanCtx → Cmd → Prop) : Prop :=
  ∃ s ctx x k pa m, planOf s ctx = some x ∧ x.cid = some k.cid ∧ cmdOf s k.cid = some k ∧ k.remote = 0 ∧ x.status = 0 ∧ x.statusAddr.toNat < 2 ^ 56 ∧
    x.statusAddr.toNat % 8 = 0 ∧ access s (copyTlb k.core) k.part k.gid x.statusAddr.toNat true false = .ok pa m ∧ Unretired s pa 8 ∧ P s x k

theorem plan_met {P : State → PlanCtx → Cmd → Prop} (ops : List PlanOp) (fired finished : List Nat) (time : Dword)
    (h : access (goingIn (going ops fired finished) time) (copyTlb 0) 0 0 0x20000 true false = .ok 0x20000 0x20000)
    (hp : P (goingIn (going ops fired finished) time) (going ops fired finished) planCmd) : PlanMet P :=
  ⟨goingIn (going ops fired finished) time, 0, going ops fired finished, planCmd, 0x20000, 0x20000, rfl, rfl, rfl, rfl, rfl, by exact (by decide : 0x20000 < 2 ^ 56),
    by exact (by decide : 0x20000 % 8 = 0), h, unretired rfl, hp⟩

theorem witness_PlansEnd :
    (∀ last : Bool, ∀ kind ∈ [0, 1, 2, 3, 4], PlanMet fun s x k => ∃ op o, x.ops[op]? = some o ∧ op ∈ x.fired ∧ op ∉ x.waiting ∧
      op ∉ x.finished ∧ planSettled s x k o op = true ∧ o.kind = kind ∧ (x.finished.length + 1 = x.ops.length ↔ last = true)) ∧
    (∀ kind ∈ [5, 6], PlanMet fun s x k => ∃ op o, x.ops[op]? = some o ∧ op ∈ x.fired ∧ op ∉ x.waiting ∧ op ∉ x.finished ∧
      planSettled s x k o op = true ∧ o.kind = kind ∧ ∀ i ∈ x.fired, i ∈ x.finished ∨ i = op) ∧
    (∀ under : Bool, PlanMet fun s x _ => (∃ i o, x.ops[i]? = some o ∧ i ∉ x.fired ∧ ∃ n ∈ o.inputs, n.getLsbD 15 = true ∧ x.has n = false) ∧
      x.started + 1000 * x.timeout = s.time.toNat ∧ ((∃ i ∈ x.fired, i ∉ x.finished) ↔ under = true)) ∧
    PlanMet (fun s x _ => s.time.toNat + 1 = x.started + 1000 * x.timeout) := by
  refine ⟨fun last kind h => ?_, fun kind h => ?_, fun under => ?_, plan_met [nopOp] [] [] 99999 (by decide +kernel) (by decide +kernel)⟩
  · simp only [List.mem_cons, List.not_mem_nil, or_false] at h
    cases last
    · rcases h with rfl | rfl | rfl | rfl | rfl
      · exact plan_met [{ nopOp with kind := 0 }, nopOp] [0] [] 0 (by decide +kernel) ⟨0, _, rfl, by decide +kernel⟩
      · exact plan_met [{ nopOp with kind := 1 }, nopOp] [0] [] 0 (by decide +kernel) ⟨0, _, rfl, by decide +kernel⟩
      · exact plan_met [{ nopOp with kind := 2 }, nopOp] [0] [] 0 (by decide +kernel) ⟨0, _, rfl, by decide +kernel⟩
      · exact plan_met [{ nopOp with kind := 3 }, nopOp] [0] [] 0 (by decide +kernel) ⟨0, _, rfl, by decide +kernel⟩
      · exact plan_met [{ nopOp with kind := 4 }, nopOp] [0] [] 0 (by decide +kernel) ⟨0, _, rfl, by decide +kernel⟩
    · rcases h with rfl | rfl | rfl | rfl | rfl
      · exact plan_met [{ nopOp with kind := 0 }] [0] [] 0 (by decide +kernel) ⟨0, _, rfl, by decide +kernel⟩
      · exact plan_met [{ nopOp with kind := 1 }] [0] [] 0 (by decide +kernel) ⟨0, _, rfl, by decide +kernel⟩
      · exact plan_met [{ nopOp with kind := 2 }] [0] [] 0 (by decide +kernel) ⟨0, _, rfl, by decide +kernel⟩
      · exact plan_met [{ nopOp with kind := 3 }] [0] [] 0 (by decide +kernel) ⟨0, _, rfl, by decide +kernel⟩
      · exact plan_met [{ nopOp with kind := 4 }] [0] [] 0 (by decide +kernel) ⟨0, _, rfl, by decide +kernel⟩
  · simp only [List.mem_cons, List.not_mem_nil, or_false] at h
    rcases h with rfl | rfl
    · exact plan_met [nopOp, { nopOp with kind := 5 }] [0, 1] [0] 0 (by decide +kernel) ⟨1, _, rfl, by decide +kernel⟩
    · exact plan_met [nopOp, { nopOp with kind := 6 }] [0, 1] [0] 0 (by decide +kernel) ⟨1, _, rfl, by decide +kernel⟩
  · cases under
    · exact plan_met [nopOp, { nopOp with inputs := [0x8007] }] [0] [0] 100000 (by decide +kernel)
        ⟨⟨1, _, rfl, by decide, _, List.mem_singleton.mpr rfl, by decide +kernel⟩, by decide +kernel⟩
    · exact plan_met [nopOp, { nopOp with inputs := [0x8007] }] [0] [] 100000 (by decide +kernel)
        ⟨⟨1, _, rfl, by decide, _, List.mem_singleton.mpr rfl, by decide +kernel⟩, by decide +kernel⟩

/-- A partition whose peer table at 0 names an address and a job. -/
def named0 : State :=
  let s := modPregs { State.reset with mem := [] } 0 fun r => { r with pctl := 1 }
  write64 (write64 (write64 s 0 0x11) 8 0x22) 16 0x800C_0000_0033

theorem witness_UltraEthernetArrives :
    (∃ (s : State) (ip : BitVec 128) (job : BitVec 32) (word : BitVec 64) (part : Nat), bits word 12 4 = 0 ∧ bits word 40 24 = 0 ∧
      uePart s ip job = some part) ∧
    (∃ (s : State) (ip : BitVec 128) (job : BitVec 32) (word : BitVec 64), bits word 12 4 = 0 ∧ bits word 40 24 = 0 ∧
      uePart s ip job = none) ∧
    (∃ s part, partEnabled s part = false) ∧
    (∃ (s : State) (part : Nat) (va : BitVec 64) (bytes : List (BitVec 8)) (pa w : Nat), bytes ≠ [] ∧ va.toNat % 256 + bytes.length = 256 ∧
      va.toNat < 2 ^ 56 ∧ partEnabled s part = true ∧ access s walkerTlb part 0 va.toNat true false = .ok pa w ∧ Unretired s pa bytes.length) :=
  ⟨⟨named0, 0x22_0000_0000_0000_0011, 0x33, 0x2_0006_0007, 0, by decide +kernel⟩, ⟨State.reset, 0x11, 0x33, 0x2_0006_0007, by decide +kernel⟩,
    ⟨State.reset, 0, by decide +kernel⟩, ⟨fabric, 0, 0x200FC, [1, 2, 3, 4], 0x200FC, 0x200FC, by decide, by decide, by decide, by decide +kernel,
      by decide +kernel, unretired rfl⟩⟩

end Sys2Proof.Tests

namespace Sys2Proof.Tests
open Sys2Proof Sys2Proof.Machine
set_option Elab.async false

/-! ## Lantern -/

/-- An event of a source. -/
def eventOf (source : BitVec 11) : TapEv := { event0 with source := source }
/-- A tap that holds n events. -/
def tapped (source : BitVec 11) (n : Nat) : State :=
  withLn (fun l => { l with taps := List.replicate n (eventOf source) }) State.reset

/-- What an event finds queued, and whether there is room. -/
def Queued (s : State) (e : TapEv) (n : Nat) (room : Bool) : Prop :=
  (s.lantern.taps.filter fun x => decide (x.source = e.source ∧ (e.source = 2047#11 → x.part = e.part))).length = n ∧
    ((n < (if e.source = 2047#11 then 64 else 4) ∧ fenced s 3492 = false) ↔ room = true)

/-- Attachments 3, 5 and 6 of owner 0: two of filter 1, and one of filter 0, which comes first; 6 wants another kind. -/
def attached : List LnAttach :=
  [⟨5, 0, 1, 7, 7, 1, 0, 0, some 1⟩, ⟨3, 0, 0, 5, 9, 2, 3, 3, some 1⟩, ⟨6, 0, 1, 7, 7, 1, 1, 3, none⟩, ⟨4, 1, 1, 7, 7, 1, 0, 0, none⟩,
    ⟨2, 0, 1, 6, 9, 2, 0, 0, none⟩]
/-- An event of source 7 waits; filter 0 has nine instructions, filter 1 two; owner 0's bucket holds n. -/
def attaching (n : Nat) (frozen : Bool) : State :=
  modOwner (owns (withLn (fun l => { l with
    taps := [eventOf 9, event0, event0], attaches := attached, filters := [filterOf 1 2, filterOf 0 9], traces := [⟨1, frozen, 2047, []⟩] })
    State.reset)) 0 fun o => { o with bucket := n }

/-- The attachments that match the event, in ascending number. -/
def matches7 : List LnAttach := [⟨3, 0, 0, 5, 9, 2, 3, 3, some 1⟩, ⟨5, 0, 1, 7, 7, 1, 0, 0, some 1⟩]

theorem matching (n : Nat) (frozen : Bool) : Matching (attaching n frozen) event0 matches7 := by
  have hl : (attaching n frozen).lantern.attaches = attached := rfl
  refine ⟨fun a => ?_, by decide, by rw [hl]; decide, by rw [hl]; decide⟩
  have he : (attached.filter fun a => decide (a.lo ≤ 7 ∧ 7 ≤ a.hi ∧ (7 - a.lo) % a.step = 0 ∧
    event0.kind &&& a.mask = a.value &&& a.mask ∧ (a.owner = 12 ∨ a.owner = 0))) = matches7.reverse := by decide +kernel
  have hm : a ∈ matches7 ↔ a ∈ matches7.reverse := List.mem_reverse.symm
  rw [hm, ← he, List.mem_filter, decide_eq_true_eq]
  exact Iff.rfl

theorem waiting_event (n : Nat) (frozen : Bool) :
    FirstIn (attaching n frozen).lantern.taps (fun x => x.source.toNat = 7) event0 [eventOf 9, event0] :=
  ⟨[eventOf 9], [event0], rfl, rfl, rfl, fun x hx => by rw [List.mem_singleton.mp hx]; decide⟩

theorem traces_below (n : Nat) (frozen : Bool) (b : Nat) : (lnTrace (attaching n frozen) b).next < 2048 := by
  have h : lnTrace (attaching n frozen) b = if 1 = b then ⟨1, frozen, 2047, []⟩ else ⟨b, false, 0, []⟩ := by
    by_cases hb : 1 = b
    · simp [lnTrace, attaching, modOwner, modLn, owns, modPregs, withLn, hb]
    · simp [lnTrace, attaching, modOwner, modLn, owns, modPregs, withLn, hb]
  rw [h]
  split
  · exact (by decide : 2047 < 2048)
  · exact (by decide : 0 < 2048)

theorem witness_TapsAndInvocations :
    (∀ k : Fin 4, ∃ (s : State) (e : TapEv), (e.source.toNat < 2016 ∨ e.source = 2047#11) ∧
      Queued s e ([3, 4, 63, 64].getD k 0) (k.val % 2 == 0)) ∧
    (∀ k : Fin 2, ∃ e : TapEv, (k = 0 → e.source.toNat < 1536 ∧ e.source.toNat % 8 = 7) ∧
      (k = 1 → 1824 ≤ e.source.toNat ∧ e.source.toNat < 2016)) ∧
    (∀ frozen : Bool, ∃ (s : State) (n : Nat) (e : TapEv) (rest : List TapEv) (xs : List LnAttach) (before : List Nat) (i : Nat)
      (after : List Nat) (G : LnFilter),
      FirstIn s.lantern.taps (fun x => x.source.toNat = n) e rest ∧ lnIdle s = true ∧ Matching s e xs ∧
      (∀ b, (lnTrace s b).next < 2048) ∧ (lnTrace s 1).frozen = frozen ∧ (xs.filter fun a => decide (a.trace = some 1)).length = 2 ∧
      (xs.map LnAttach.filter).eraseDups = before ++ i :: after ∧ before ≠ [] ∧ (∀ j ∈ before, Skipped s j) ∧
      lnFilter s i = some G ∧ G.code.length = (lnOwner s G.owner).bucket) ∧
    (∃ (s : State) (n : Nat) (e : TapEv) (rest : List TapEv) (xs : List LnAttach),
      FirstIn s.lantern.taps (fun x => x.source.toNat = n) e rest ∧ lnIdle s = true ∧ Matching s e xs ∧
      (∀ b, (lnTrace s b).next < 2048) ∧ xs ≠ [] ∧ ∀ a ∈ xs, Skipped s a.filter) := by
  refine ⟨fun k => ?_, fun k => ?_, fun frozen => ⟨attaching 2 frozen, 7, event0, [eventOf 9, event0], matches7, [0], 1, [], filterOf 1 2,
      waiting_event _ _, by cases frozen <;> decide +kernel, matching _ _, traces_below _ _, by cases frozen <;> rfl, by decide +kernel,
      by decide +kernel, by decide, fun j hj => ⟨filterOf 0 9, by rw [List.mem_singleton.mp hj]; rfl, by cases frozen <;> decide +kernel⟩, rfl, by cases frozen <;> decide +kernel⟩,
    ⟨attaching 1 false, 7, event0, [eventOf 9, event0], matches7, waiting_event _ _, by decide +kernel, matching _ _, traces_below _ _, by decide,
      fun a ha => ?_⟩⟩
  · match k with
    | 0 => exact ⟨tapped 7 3, eventOf 7, by decide, by unfold Queued; decide +kernel⟩
    | 1 => exact ⟨tapped 7 4, eventOf 7, by decide, by unfold Queued; decide +kernel⟩
    | 2 => exact ⟨tapped 2047 63, eventOf 2047, by decide, by unfold Queued; decide +kernel⟩
    | 3 => exact ⟨tapped 2047 64, eventOf 2047, by decide, by unfold Queued; decide +kernel⟩
  · match k with
    | 0 => exact ⟨eventOf 1535, fun _ => by decide, fun h => by (cases h)⟩
    | 1 => exact ⟨eventOf 1824, fun h => by (cases h), fun _ => by decide⟩
  · simp only [matches7, List.mem_cons, List.not_mem_nil, or_false] at ha
    rcases ha with rfl | rfl
    · exact ⟨filterOf 0 9, rfl, by decide +kernel⟩
    · exact ⟨filterOf 1 2, rfl, by decide +kernel⟩

/-- One microsecond after the last refill, with a budget of owner 0. -/
theorem witness_BucketsRefillAndTriggersRearm :
    (∃ s : State, s.time.toNat / 1000 - s.lantern.refilled = 2 ∧ 0 < lnBudget s 0) ∧
    (∃ (s : State) (i : Nat) (x : LnTrigger), s.lantern.trigs = [x] ∧ x.idx = i ∧ x.hold ≠ 0 ∧ x.firedAt + 1000 * x.hold = s.time.toNat) ∧
    (∃ (s : State) (i : Nat) (x : LnTrigger), s.lantern.trigs = [x] ∧ x.idx = i ∧ s.time.toNat + 1 = x.firedAt + 1000 * x.hold) :=
  ⟨⟨modPregs { withLn (fun l => { l with refilled := 3 }) State.reset with time := 5999 } 0 fun r => { r with lnresb := 0x400000 }, by decide +kernel⟩,
    ⟨{ withLn (fun l => { l with trigs := [trigger 7 false] }) State.reset with time := 5000 }, 1, trigger 7 false, rfl, rfl, by decide, by decide⟩,
    ⟨{ withLn (fun l => { l with trigs := [trigger 7 false] }) State.reset with time := 4999 }, 1, trigger 7 false, rfl, rfl, by decide⟩⟩

/-- Owner 0 gives a command whose block, at 0x10000, has a code, an index, an address and operands. -/
def lnAsks (code idx : Nat) (addr : Dword) (ops : List Dword) (s : State) : State :=
  let s := modPregs (owns s) 0 fun r => { r with lncmd := 0x10001 }
  let s := write64 (write64 s 0x10000 (BitVec.ofNat 64 (code + 65536 * idx))) 0x10008 addr
  ops.zipIdx.foldl (fun s x => write64 s (0x10010 + 8 * x.2) x.1) s
/-- The block. -/
def lnBlockOf (s : State) : LnBlock := ⟨readNat s 0x10002 2, readNat s 0x10008 8, bytesAt s.mem 0x10010 48⟩

/-- A command that is to run. -/
def GivenMet (code : Nat) (P : State → Nat → LnBlock → Prop) : Prop := ∃ s owner b, LnGiven s owner code b ∧ P s owner b

theorem given_met {code : Nat} {P : State → Nat → LnBlock → Prop} (s : State) (h : (lnCmd s 0).getLsbD 0 = true ∧ lnIdle s = true ∧
    lnCmd s 0 = 0x10001 ∧ lnMem s 0x10000 64 = true ∧ readNat s 0x10000 2 = code ∧ readNat s 0x10004 4 = 0) (hp : P s 0 (lnBlockOf s)) :
    GivenMet code P := by
  have ha : bits (lnCmd s 0) 6 46 * 64 = 0x10000 := by rw [h.2.2.1]; decide
  refine ⟨s, 0, lnBlockOf s, ⟨by decide, h.1, h.2.1, ?_⟩, hp⟩
  simp only [ha]
  exact ⟨h.2.2.2.1, h.2.2.2.2.1, h.2.2.2.2.2, rfl⟩

/-- A filter image at 0x20000 of L instructions; the words are at 0x200C0. -/
def image (L : Nat) : State := write64 (write64 State.reset 0x20000 (BitVec.ofNat 64 L)) 0x200C0 0x0004_0110_0000_00D4

/-- Owner 1 claims filter 0 as well. -/
def claimed (s : State) : State := modPregs s 1 fun r => { r with lnresa := 0x40 }

theorem witness_LanternCommands :
    (∀ k : Fin 9, GivenMet (k + 1) fun s owner _ => (∃ e, LnCommandOf owner (k + 1) e) ∧ lnRangesBad s owner = true) ∧
    (∀ x ∈ [(1, LnRes.filter), (2, .attach), (3, .attach), (5, .sketch), (6, .trig), (7, .trig), (8, .trace)],
      GivenMet x.1 fun s owner b => (∃ e, LnIndexes owner x.1 e x.2) ∧ lnRangesBad s owner = false ∧ lnIndex s owner x.2 b.idx = none) ∧
    (∀ k : Fin 3, GivenMet 1 fun s owner b => lnRangesBad s owner = false ∧ ∃ i, lnIndex s owner .filter b.idx = some i ∧
      b.zeroFrom 0 = true ∧ (k = 0 → lnMem s b.addr 0xC0 = false) ∧ (k ≠ 0 → lnMem s b.addr 0xC0 = true ∧
        lnMem s b.addr (0xC0 + 4 * readNat s b.addr 1) = true ∧ ((readImage s owner i b.addr).isSome = true ↔ k = 1))) ∧
    (∀ step ∈ [0, 1, 2047, 2048], GivenMet 2 fun s owner b => lnRangesBad s owner = false ∧ ∃ i f tr, lnIndex s owner .attach b.idx = some i ∧
      lnIndex s owner .filter (b.num 0 2) = some f ∧ traceOf s owner (b.num 12 1) = some tr ∧ b.addr = 0 ∧ b.zeroFrom 13 = true ∧
      b.num 6 2 = step ∧ b.num 2 2 ≤ 2047 ∧ b.num 4 2 ≤ 2047 ∧ b.num 8 2 ≤ 1023 ∧ b.num 10 2 ≤ 1023) ∧
    GivenMet 3 (fun s owner b => lnRangesBad s owner = false ∧ (lnIndex s owner .attach b.idx).isSome = true ∧ b.addr = 0 ∧ b.zeroFrom 0 = true) ∧
    (∀ x ∈ [(0, LnRes.filter), (1, .hist), (2, .sketch), (3, .trace)], GivenMet 4 fun s owner b => lnRangesBad s owner = false ∧
      b.addr = 0 ∧ b.zeroFrom 1 = true ∧ b.num 0 1 = x.1 ∧ (lnIndex s owner x.2 b.idx).isSome = true) ∧
    GivenMet 4 (fun s owner b => lnRangesBad s owner = false ∧ b.addr = 0 ∧ b.zeroFrom 1 = true ∧ 3 < b.num 0 1) ∧
    GivenMet 5 (fun s owner b => lnRangesBad s owner = false ∧ (lnIndex s owner .sketch b.idx).isSome = true ∧ b.addr = 0 ∧ b.zeroFrom 32 = true) ∧
    GivenMet 6 (fun s owner b => lnRangesBad s owner = false ∧ (lnIndex s owner .trig b.idx).isSome = true ∧
      (traceOf s owner (b.num 1 1)).isSome = true ∧ b.addr = 0 ∧ b.num 0 1 ≤ 7 ∧ b.num 2 2 = 0 ∧ b.zeroFrom 8 = true) ∧
    GivenMet 7 (fun s owner b => lnRangesBad s owner = false ∧ (lnIndex s owner .trig b.idx).isSome = true ∧ b.addr = 0 ∧ b.zeroFrom 0 = true) ∧
    GivenMet 8 (fun s owner b => lnRangesBad s owner = false ∧ (lnIndex s owner .trace b.idx).isSome = true ∧ b.addr = 0 ∧ b.zeroFrom 0 = true) ∧
    (∀ ok : Bool, GivenMet 9 fun s owner b => lnRangesBad s owner = false ∧ b.idx = 0 ∧ b.zeroFrom 4 = true ∧ b.addr % 4096 = 0 ∧
      1 ≤ b.num 0 4 ∧ b.num 0 4 = 1000000 ∧ areaOk s owner b.addr = ok) := by
  refine ⟨fun k => given_met (claimed (lnAsks (k + 1) 0 0 [] State.reset)) (by revert k; decide +kernel) ⟨?_, by revert k; decide +kernel⟩,
    fun x h => ?_, fun k => ?_, fun step h => ?_,
    given_met (lnAsks 3 1 0 [] State.reset) (by decide +kernel) (by decide +kernel), fun x h => ?_,
    given_met (lnAsks 4 0 0 [4] State.reset) (by decide +kernel) (by decide +kernel),
    given_met (lnAsks 5 1 0 [1, 2, 3, 4] State.reset) (by decide +kernel) (by decide +kernel),
    given_met (lnAsks 6 1 0 [0x5_0000_FF07] State.reset) (by decide +kernel) (by decide +kernel),
    given_met (lnAsks 7 1 0 [] State.reset) (by decide +kernel) (by decide +kernel),
    given_met (lnAsks 8 1 0 [] State.reset) (by decide +kernel) (by decide +kernel), fun ok => ?_⟩
  · match k with
    | 0 => exact ⟨.lnLoad 0, by simp [LnCommandOf]⟩
    | 1 => exact ⟨.lnAttach 0, by simp [LnCommandOf]⟩
    | 2 => exact ⟨.lnDetach 0, by simp [LnCommandOf]⟩
    | 3 => exact ⟨.lnClear 0, by simp [LnCommandOf] <;> rfl⟩
    | 4 => exact ⟨.lnSeeds 0, by simp [LnCommandOf] <;> rfl⟩
    | 5 => exact ⟨.lnTrigger 0, by simp [LnCommandOf] <;> rfl⟩
    | 6 => exact ⟨.lnArm 0, by simp [LnCommandOf] <;> rfl⟩
    | 7 => exact ⟨.lnUnfreeze 0, by simp [LnCommandOf] <;> rfl⟩
    | 8 => exact ⟨.lnPublish 0, by simp [LnCommandOf] <;> rfl⟩
  · simp only [List.mem_cons, List.not_mem_nil, or_false] at h
    rcases h with rfl | rfl | rfl | rfl | rfl | rfl | rfl
    · exact given_met (lnAsks 1 2 0 [] State.reset) (by decide +kernel) ⟨⟨.lnLoad 0, by simp [LnIndexes]⟩, by decide +kernel⟩
    · exact given_met (lnAsks 2 2 0 [] State.reset) (by decide +kernel) ⟨⟨.lnAttach 0, by simp [LnIndexes]⟩, by decide +kernel⟩
    · exact given_met (lnAsks 3 2 0 [] State.reset) (by decide +kernel) ⟨⟨.lnDetach 0, by simp [LnIndexes]⟩, by decide +kernel⟩
    · exact given_met (lnAsks 5 2 0 [] State.reset) (by decide +kernel) ⟨⟨.lnSeeds 0, by simp [LnIndexes]⟩, by decide +kernel⟩
    · exact given_met (lnAsks 6 2 0 [] State.reset) (by decide +kernel) ⟨⟨.lnTrigger 0, by simp [LnIndexes]⟩, by decide +kernel⟩
    · exact given_met (lnAsks 7 2 0 [] State.reset) (by decide +kernel) ⟨⟨.lnArm 0, by simp [LnIndexes]⟩, by decide +kernel⟩
    · exact given_met (lnAsks 8 2 0 [] State.reset) (by decide +kernel) ⟨⟨.lnUnfreeze 0, by simp [LnIndexes]⟩, by decide +kernel⟩
  · match k with
    | 0 => exact given_met (lnAsks 1 1 0x60_0000_0000 [] (image 2)) (by decide +kernel) ⟨by decide +kernel, 1, by decide +kernel⟩
    | 1 => exact given_met (lnAsks 1 1 0x2_0000 [] (image 2)) (by decide +kernel) ⟨by decide +kernel, 1, by decide +kernel⟩
    | 2 => exact given_met (lnAsks 1 1 0x2_0000 [] (image 0)) (by decide +kernel) ⟨by decide +kernel, 1, by decide +kernel⟩
  · simp only [List.mem_cons, List.not_mem_nil, or_false] at h
    rcases h with rfl | rfl | rfl | rfl
    · exact given_met (lnAsks 2 1 0 [0x0000_0009_0005_0001, 0xFF_0003_0001] State.reset) (by decide +kernel) ⟨by decide +kernel, 1, 1, none, by decide +kernel⟩
    · exact given_met (lnAsks 2 1 0 [0x0001_0009_0005_0001, 0xFF_0003_0001] State.reset) (by decide +kernel) ⟨by decide +kernel, 1, 1, none, by decide +kernel⟩
    · exact given_met (lnAsks 2 1 0 [0x07FF_07FF_07FF_0001, 0x01_03FF_03FF] State.reset) (by decide +kernel) ⟨by decide +kernel, 1, 1, some 1, by decide +kernel⟩
    · exact given_met (lnAsks 2 1 0 [0x0800_07FF_07FF_0001, 0x01_03FF_03FF] State.reset) (by decide +kernel) ⟨by decide +kernel, 1, 1, some 1, by decide +kernel⟩
  · simp only [List.mem_cons, List.not_mem_nil, or_false] at h
    rcases h with rfl | rfl | rfl | rfl
    · exact given_met (lnAsks 4 1 0 [0] State.reset) (by decide +kernel) (by decide +kernel)
    · exact given_met (lnAsks 4 1 0 [1] State.reset) (by decide +kernel) (by decide +kernel)
    · exact given_met (lnAsks 4 1 0 [2] State.reset) (by decide +kernel) (by decide +kernel)
    · exact given_met (lnAsks 4 1 0 [3] State.reset) (by decide +kernel) (by decide +kernel)
  · cases ok
    · exact given_met (lnAsks 9 0 0x5F_FFFF_F000 [1000000] State.reset) (by decide +kernel) (by decide +kernel)
    · exact given_met (modPregs (lnAsks 9 0 0x40000 [1000000] State.reset) 0 fun r => { r with ccm := 0xFFFF_FFFF }) (by decide +kernel) (by decide +kernel)

/-- Owner 0 publishes; its objects 1 hold something. -/
def publishing : State :=
  modOwner (owns (withLn (fun l => { l with filters := [filterOf 1 2], traces := [⟨1, true, 5, []⟩], hist := [(1, 3, 7)], sketch := [(1, 9, 8)] })
    State.reset)) 0 fun o => { o with interval := 5, area := 0x40000, ring := [(0, ⟨1, 2, 3, 4⟩)], ringNext := 1 }

theorem witness_Publication :
    (∃ s owner, owner < 13 ∧ lnIdle s = true ∧ (lnOwner s owner).interval = 0) ∧
    (∃ s owner j k i b F, owner < 13 ∧ lnIdle s = true ∧ (lnOwner s owner).interval ≠ 0 ∧ Unretired s (lnOwner s owner).area (areaSize s owner) ∧
      j < 64 ∧ lnIndex s owner .filter j = some i ∧ lnFilter s i = some F ∧ k < 16 ∧ lnIndex s owner .trace k = some b ∧
      (lnTrace s b).frozen = true ∧ 0 < (lnRange s owner .hist).2 ∧ 0 < (lnRange s owner .sketch).2 ∧ (lnOwner s owner).ring ≠ []) :=
  ⟨⟨State.reset, 12, by decide +kernel⟩, ⟨publishing, 0, 1, 1, 1, 1, filterOf 1 2, by decide, by decide +kernel, by decide +kernel, unretired rfl,
    by decide, by decide +kernel, rfl, by decide, by decide +kernel, by decide +kernel, by decide +kernel, by decide +kernel, by decide +kernel⟩⟩

end Sys2Proof.Tests

namespace Sys2Proof.Tests
open Sys2Proof Sys2Proof.Machine
set_option Elab.async false

/-! ## Reliability, resets and registers -/

/-- Block n in a state. -/
def blockIn (n : Nat) (state : BitVec 2) (retested : Bool) (s : State) : State := { s with blocks := [⟨n, state, 0, 0xFFFF_FFFF, 0, retested⟩] }

/-- The bench with a bank of the team's. -/
def benched : State := banked bank0 one

/-- A power block's clock. -/
def clocked (b : Fin 32) (mhz : Nat) (s : State) : State := { s with power := s.power.set b ⟨mhz, 5, 6, 7⟩ }

theorem witness_ErrorsTestsAndPower :
    (∀ k : Fin 4, ∃ (s : State) (n : Nat), blockKnown n = true ∧ (blockOf s n).state = BitVec.ofNat 2 (k.val % 3) ∧
      ((blockOf s n).retested = decide (k = 3)) ∧ (blockOf s n).ce = 0xFFFF_FFFF) ∧
    (∃ (s : State) (n p : Nat) (g : Group) (gr : Grid), blockKnown n = true ∧ (blockOf s n).state = 0 ∧ n < 192 ∧ groupAt s n p = some g ∧
      gridOf s g.gid = some gr ∧ gr.phase ≠ .ended) ∧
    (∃ (s : State) (n p : Nat) (tm : Team), blockKnown n = true ∧ (blockOf s n).state = 0 ∧ 256 ≤ n ∧ n < 3328 ∧ bankTeam s n = some tm ∧
      teamOf s tm.gid tm.team = some tm ∧ ∃ x ∈ tm.banks, x.phys = (n - 256) % 16 ∧ p / 8 * 8 ∉ x.bad) ∧
    (∀ n ∈ [3328, 3423, 65536], ∃ s : State, blockKnown n = true ∧ (blockOf s n).state = 0) ∧
    (∀ n ∈ [0, 256, 3328, 3456, 3492, 65536], ∃ s : State, (blockOf s n).state = 1 ∧
      (n = 0 → ∃ tm ∈ s.teams, tm.core = n ∧ ∃ g, gridOf s tm.gid = some g ∧ g.phase ≠ .ended) ∧
      (n = 256 → ∃ tm g, bankTeam s n = some tm ∧ gridOf s tm.gid = some g ∧ g.phase ≠ .ended)) ∧
    (∃ (s : State) (n : Nat), (blockOf s n).state ≠ 1) ∧
    (∀ slow was : Bool, ∃ (s : State) (b mhz : Nat) (p : Power), s.power[b]? = some p ∧ (b < 24 ∧ mhz < 500 ↔ slow = true) ∧
      (b < 24 ∧ p.mhz < 500 ↔ was = true)) := by
  refine ⟨fun k => ⟨blockIn 3493 (BitVec.ofNat 2 (k.val % 3)) (decide (k = 3)) State.reset, 3493, by revert k; decide +kernel⟩,
    ⟨one, 0, 0, _, _, rfl, rfl, by decide, rfl, rfl, by decide⟩, ⟨benched, 256, 13, _, rfl, rfl, by decide, by decide, rfl, rfl, bank0, by decide +kernel⟩,
    fun n h => ⟨State.reset, ?_⟩, fun n h => ⟨blockIn n 1 false benched, ?_⟩, ⟨State.reset, 0, by decide⟩, fun slow was => ?_⟩
  · simp only [List.mem_cons, List.not_mem_nil, or_false] at h
    rcases h with rfl | rfl | rfl <;> decide +kernel
  · refine ⟨by simp [blockIn, blockOf], fun hn => ?_, fun hn => ?_⟩
    · subst hn
      exact ⟨_, List.mem_cons_self, rfl, _, rfl, by decide⟩
    · subst hn
      exact ⟨_, _, rfl, rfl, by decide⟩
  · have at' : ∀ n, (clocked 23 n State.reset).power[23]? = some ⟨n, 5, 6, 7⟩ := fun n => by simp [clocked] <;> rfl
    refine ⟨clocked 23 (if was then 499 else 500) State.reset, 23, if slow then 499 else 500, _, at' _, ?_, ?_⟩
    · cases slow <;> decide
    · cases was <;> decide

/-- The team of the bench is stopped. -/
def stopped : State := modPregs one 0 fun r => { r with dbgsta := 1 }

theorem witness_ResetsAndDebugStops :
    (∃ s : State, ∀ n < 20, bootBreach s.trust.bootTable n = false ∧ persOf (vget s.trust.bootTable n 0) ≠ 4 ∧
      ¬(persOf (vget s.trust.bootTable n 0) = 3 ∧ modeOf (vget s.trust.bootTable n 0) = 1)) ∧
    (∃ s part tm gr, StoppedAlone s part tm ∧ teamOf s tm.gid tm.team = some tm ∧ gridOf s tm.gid = some gr ∧ gr.phase ≠ .ended) :=
  ⟨⟨State.reset, by decide +kernel⟩, ⟨stopped, 0, _, _, ⟨by decide, rfl, rfl, rfl⟩, rfl, rfl, by decide⟩⟩

/-- A report asked for. -/
def attesting (attctl : Dword) : State := { State.reset with dev := { State.reset.dev with attctl := attctl } }

theorem witness_AttestationAndManagement :
    (∃ s : State, s.dev.attctl.getLsbD 0 = false) ∧
    (∃ s : State, s.dev.attctl.getLsbD 0 = true ∧ bits s.dev.attctl 16 36 * 65536 + 65536 = 0x60_0000_0000 ∧
      isBonded (bits s.dev.attctl 16 36 * 65536 + 65535) = true ∧ Unretired s (bits s.dev.attctl 16 36 * 65536) 50304) ∧
    (∃ s : State, s.dev.attctl.getLsbD 0 = true ∧ bits s.dev.attctl 16 36 * 65536 = 0x60_0000_0000 ∧
      isBonded (bits s.dev.attctl 16 36 * 65536 + 65535) = false) ∧
    (∃ (k : Nat) (image : FwImage), k < 4 ∧ image = FwImage.shipped) ∧
    (∃ (s : State) (p : Power), s.power[31]? = some p) :=
  ⟨⟨State.reset, rfl⟩, ⟨attesting 0x5F_FFFF_0001, by decide +kernel, by decide +kernel, by decide +kernel, unretired rfl⟩,
    ⟨attesting 0x60_0000_0001, by decide +kernel⟩, ⟨3, _, by decide, rfl⟩, ⟨clocked 31 500 State.reset, ⟨500, 5, 6, 7⟩, by simp [clocked] <;> rfl⟩⟩

/-- Function 5 is partition 2's. -/
def owned : State :=
  let s := modPregs State.reset 2 fun r => { r with pctl := 0x501 }
  { s with vfs := vset s.vfs 5 { vfRegs s 5 with vfmap := 0x102 } }

theorem witness_RegistersAreWritten :
    (∃ off, off % 8 ≠ 0) ∧ (∀ x ∈ partFields, ∃ (p off : Nat) (mask : BitVec 64), p = 11 ∧ (off, mask) ∈ partFields ∧ x = (off, mask)) ∧
    (∀ recovery : Bool, ∃ s : State, s.trust.recovery = recovery) ∧
    (∀ k : Fin 5, ∃ off mask, deviceField off mask ∧ off = [0x60, 0xA0, 0x17F8, 0x20F8, 0x3FF8].getD k 0) ∧
    (∃ s v, vfOwner s v = none) ∧ (∃ s v part, vfOwner s v = some part) ∧
    (∃ s p, p < 12 ∧ (lnCmd s p).getLsbD 0 = true) ∧
    (∀ code ∈ [1, 9], ∃ (s : State) (p : Nat) (value : BitVec 64), p < 12 ∧ (lnCmd s p).getLsbD 0 = false ∧ value.getLsbD 0 = true ∧
      lnMem s (bits value 6 46 * 64) 64 = true ∧ readNat s (bits value 6 46 * 64) 2 = code) ∧
    (∃ (s : State) (p : Nat) (value : BitVec 64), p < 12 ∧
      (((List.range 13).filter fun o => o != p).map (lnBudget s)).sum + bits value 22 14 = 8000) ∧
    (∃ (s : State) (p : Nat) (value : BitVec 64), p < 12 ∧
      (((List.range 13).filter fun o => o != p).map (lnBudget s)).sum + bits value 22 14 = 8001 ∧ lnBudget s p < bits value 22 14) := by
  refine ⟨⟨1, by decide⟩, fun x h => ⟨11, x.1, x.2, rfl, h, rfl⟩, fun recovery => ⟨{ State.reset with trust := { State.reset.trust with recovery := recovery } }, rfl⟩,
    fun k => ?_, ⟨State.reset, 0, by decide +kernel⟩, ⟨owned, 5, 2, by decide +kernel⟩, ⟨lnAsks 1 0 0 [] State.reset, 0, by decide +kernel⟩,
    fun code h => ?_, ⟨modPregs State.reset 3 fun r => { r with lnresb := 3000 * 2 ^ 22 }, 0, 5000 * 2 ^ 22, by decide +kernel⟩,
    ⟨modPregs State.reset 3 fun r => { r with lnresb := 3000 * 2 ^ 22 }, 0, 5001 * 2 ^ 22, by decide +kernel⟩⟩
  · match k with
    | 0 => exact ⟨0x60, 0xFFFFFFFFFFFE0#64, .inl (by decide), rfl⟩
    | 1 => exact ⟨0xA0, _, .inr (.inl ⟨3, by decide, rfl, rfl⟩), rfl⟩
    | 2 => exact ⟨0x17F8, _, .inr (.inr (.inl ⟨255, by decide, rfl, rfl⟩)), rfl⟩
    | 3 => exact ⟨0x20F8, _, .inr (.inr (.inr (.inl ⟨31, by decide, rfl, rfl⟩))), rfl⟩
    | 4 => exact ⟨0x3FF8, _, .inr (.inr (.inr (.inr ⟨511, by decide, rfl, rfl⟩))), rfl⟩
  · simp only [List.mem_cons, List.not_mem_nil, or_false] at h
    rcases h with rfl | rfl
    · exact ⟨write64 State.reset 0x10000 1, 11, 0x10001, by decide +kernel⟩
    · exact ⟨write64 State.reset 0x10000 9, 11, 0x10001, by decide +kernel⟩

end Sys2Proof.Tests

namespace Sys2Proof.Tests
open Sys2Proof Sys2Proof.Machine
set_option Elab.async false

/-! ## Encodings -/

/-- The halfwords decode to the instruction, with what follows left. -/
def reads (hs : List (BitVec 16)) (i : Instr) : Bool :=
  match decode (hs ++ [0xF472]) with
  | .ok (j, rest) => j == i && rest == [0xF472]
  | .error _ => false
/-- A 32-bit word decodes to the instruction. -/
def word (w : Word) (i : Instr) : Bool := reads (wordHalves w) i
/-- A filter word decodes to the instruction. -/
def filterReads (w : Word) (i : Instr) : Bool :=
  match decodeFilter w with
  | .ok j => j == i
  | .error _ => false

/-- The spec's worked encoding: fmul.c v8, v9, v10; (q3) ffma.ru.c v4, b0, v6, v7; fadd v3, v3, b1. -/
theorem test_decode_worked_chain : word 0x8A122045 (.fmul ⟨.none, true, 0, 8, 9, 10⟩) = true ∧
    reads (wordHalves 0x030713FF ++ wordHalves 0x86F01047)
      (.ffma ⟨.op ⟨3, false, 7, false, false, false, true, false, 3⟩, true, 0, 4, 120, 6⟩) = true ∧
    reads [0xF472] (.faddC16 ⟨61, 3⟩) = true := by decide +kernel

/-- R121, R137, R140: add v1, v2, v3 under guard field 2, cvti of v2 to U32, sfn.tanh v5, v6 and redl.max v2, v6. -/
theorem test_decode_lanes : word 0x03040603 (.add ⟨.none, false, 2, 1, 2, 3⟩) = true ∧
    word 0x00040463 (.cvti ⟨.none, false, 0, 1, 2, 0⟩) = true ∧ word 0x040C1481 (.sfnTanh ⟨.none, false, 0, 5, 6⟩) = true ∧
    word 0x010C0891 (.redlMax ⟨.none, false, 0, 2, 6⟩) = true := by decide +kernel

/-- R137, R220, R224: sor s4, s5, s6, and brd by -2 halfwords behind an immediate pfx of 4. -/
theorem test_decode_scalars_and_control : word 0x060A10AB (.sor ⟨.none, false, 4, 5, 6⟩) = true ∧
    reads (wordHalves 0x400004FF ++ wordHalves 0x7FFFF9C3) (.brd (.imm 4) 1 0x1FFFFE) = true := by decide +kernel

/-- R137, R141 to R143: ld.d v2, [v10], stu.d s20, [s7], mst v2, s6, s5, fence.f s20. -/
theorem test_decode_memory : word 0x031408D1 (.ld ⟨.none, 0, 2, 10, 0, 3⟩) = true ∧
    word 0x030E50DB (.stu ⟨.none, 20, 7, 0, 3⟩) = true ∧ word 0x050C08E7 (.mst .none 2 6 5) = true ∧
    word 0x042800E9 (.fence .none 4 20) = true := by decide +kernel

/-- R137, R144: mmt a2, s8, acc.bind a1, cpy.load t5, s12, wtg.any s4, eng.gset s3. -/
theorem test_decode_engine : word 0x001008F1 (.mmt .none 2 8) = true ∧ word 0x010004F5 (.accBind 1) = true ∧
    word 0x001814F7 (.cpyLoad .none 5 12) = true ∧ word 0x000800F9 (.wtgAny 4) = true ∧
    word 0x000600FB (.engGset 3) = true := by decide +kernel

/-- R137, R145: sys.trap 10, sys.rte, sys.movsr s2, 92, sys.clk s8. -/
theorem test_decode_system : word 0x001400FD (.sysTrap 10) = true ∧ word 0x010000FD .sysRte = true ∧
    word 0x02B808FD (.sysMovsr 2 92) = true ∧ word 0x0B0020FD (.sysClk 8) = true := by decide +kernel

/-- R471, R472: lbkt e3, e0; movi e4, 1; hadd h0, e3, e4; ldk e5, k0; bltu e0, e5, 1; trig 0, e0. -/
theorem test_decode_filters : filterReads 0x000000D4 (.filterLbkt 0 3) = true ∧ filterReads 0x00040110 (.filterMovi 1 4) = true ∧
    filterReads 0x00010C15 (.filterHadd 0 4 3) = true ∧ filterReads 0x00000151 (.filterLdk 0 5) = true ∧
    filterReads 0x0005401A (.filterBltu 1 5 0) = true ∧ filterReads 0x0000001B (.filterTrig 0 0) = true := by decide +kernel

/-- An operand prefix with one field changed. -/
def pre (f : OperandPfx → OperandPfx) : Pfx := .op (f .null)

/-- Instructions that break one check of R123 to R132 and R137 to R146 each. -/
def illFormed : List Instr :=
  [.add ⟨.none, false, 0, 120, 2, 3⟩, -- a latch as a destination
    .add ⟨pre fun o => { o with bs := true }, false, 0, 1, 2, 96⟩, -- scalar code 96 in a Vs field
    .sor ⟨.none, false, 4, 96, 6⟩, -- scalar code 96
    .sor ⟨.none, false, 80, 5, 6⟩, -- a read-only scalar as a destination
    .mmt .none 2 10, .mmt .none 2 64, -- no quad base
    .mmt .none 16 8, -- no accumulator
    .upk ⟨.none, false, 0, 1, 2, 8⟩, .bcast ⟨.none, false, 0, 1, 2, 32⟩, .rmax ⟨.none, false, 0, 1, 2, 17⟩, -- literals
    .cvt ⟨.none, false, 0, 1, 2, 0⟩, -- a target tag of another class
    .retag ⟨.none, false, 0, 1, 2, 12⟩, -- a reserved tag
    .cmp ⟨.none, false, 0, 0x31, 2, 3⟩, -- condition un of cmp
    .ld ⟨.none, 0, 2, 10, 6, 3⟩, .ld ⟨.none, 0, 2, 10, 0, 5⟩, .ldu ⟨.none, 2, 10, 0, 4⟩, -- ord and wid
    .fence .none 5 20, .fencex .none 3 3 4 20, -- a scope, and equal paths
    .add ⟨pre fun o => { o with gen := true }, false, 1, 1, 2, 3⟩, -- a guard field beside gen
    .sor ⟨pre fun o => { o with gen := true }, false, 4, 5, 6⟩, -- gen where there is no guard
    .add ⟨pre fun o => { o with gneg := true }, false, 0, 1, 2, 3⟩, .add ⟨pre fun o => { o with gq := 1 }, false, 0, 1, 2, 3⟩,
    .iunMov ⟨pre fun o => { o with bs := true }, false, 0, 1, 2⟩, -- bs where b is no Vs
    .sor ⟨pre fun o => { o with xd := true }, false, 4, 5, 6⟩, -- indexing a scalar
    .add ⟨pre fun o => { o with c := 7 }, false, 0, 1, 2, 3⟩, -- c where there is no third source
    .add ⟨pre fun o => { o with x := 1 }, false, 0, 1, 2, 3⟩, .fadd ⟨pre fun o => { o with x := 4 }, false, 0, 1, 2, 3⟩,
    .sel ⟨pre fun o => { o with x := 8 }, false, 0, 1, 2, 3⟩, .pk ⟨pre fun o => { o with x := 2 }, false, 0, 1, 2, 3⟩,
    .ctrb (pre fun o => { o with x := 35 }) 0 2 3 4, .mmt (pre fun o => { o with x := 16 }) 2 8, -- values of x
    .pk ⟨.none, false, 0, 1, 2, 3⟩, .brd .none 1 4, -- a prefix that is required
    .brd (.imm 0x200000) 1 4, .ld ⟨.imm 0x200000, 0, 2, 10, 0, 3⟩, .movi ⟨.imm 0x40000, false, 0, 1, 2, 3⟩, -- immediate bits
    .add ⟨.imm 5, false, 0, 1, 2, 3⟩, -- an immediate that no field reads
    .movC16 ⟨0, 0⟩] -- the halfword 0

theorem test_ill_formed_terms_are_refused : ∀ i ∈ illFormed, ¬WellFormed i := by
  have h : (illFormed.all fun i => !(view i).legal) = true := by decide +kernel
  intro i hi hw
  have := List.all_eq_true.mp h i hi
  rw [WellFormed] at hw
  simp [hw] at this

/-- The decoder refuses their halfwords. -/
theorem test_ill_formed_words_do_not_decode :
    (illFormed.all fun i => match decode (encode i) with
      | .error _ => true
      | .ok _ => false) = true := by decide +kernel

/-- R131: two pfx words of one kind, and a third one. -/
theorem test_pfx_words : (match decode (List.flatten [wordHalves 0x400004FF, wordHalves 0x400004FF, wordHalves 0x03040603]) with
      | .error e => e == .badPfx
      | .ok _ => false) = true ∧
    (match decode (wordHalves 0x400004FF ++ [0xF472]) with
      | .error e => e == .pfxBeforeHalf
      | .ok _ => false) = true := by decide +kernel

theorem witness_WordsAndInstructionsAgree :
    (∃ i, IsProgram i ∧ WellFormed i) ∧ (∃ hs rest i, decode hs = .ok (i, rest)) ∧ (∃ i w, view i = .filter w) ∧
    ∃ i w, decodeFilter w = .ok i :=
  ⟨⟨.add ⟨.none, false, 2, 1, 2, 3⟩, .inl ⟨_, _, _, rfl⟩, rfl⟩, ⟨[0xF472], [], _, rfl⟩, ⟨.filterLbkt 0 3, _, rfl⟩, ⟨_, 0xD4, rfl⟩⟩

/-! ## Steps -/

/-- The halfwords stand where a fetch of core 0 may read them. -/
def standing (s : State) (part gid : Nat) (pc : Dword) (hs : List (BitVec 16)) : Bool :=
  hs.zipIdx.all fun x => decide (pc.toNat + 2 * x.2 < 2 ^ 56) && match access s (coreTlb 0) part gid (pc.toNat + 2 * x.2) false true with
    | .ok pa _ => !poisoned s pa 2 && readNat s pa 2 == x.1.toNat
    | .peer _ _ _ => false
    | .nonresident => false
    | .denied _ => false

theorem stands_at {s : State} {part gid : Nat} {pc : Dword} {hs : List (BitVec 16)} (h : standing s part gid pc hs = true) :
    StandsAt s 0 part gid pc hs := by
  intro k x hk
  have hm := List.all_eq_true.mp h (x, k) (List.mk_mem_zipIdx_iff_getElem?.mpr hk)
  simp only [Bool.and_eq_true, decide_eq_true_eq] at hm
  refine ⟨hm.1, ?_⟩
  revert hm
  cases access s (coreTlb 0) part gid (pc.toNat + 2 * k) false true with
  | ok pa m => exact fun hm => ⟨pa, m, rfl, by simpa using hm.2⟩
  | peer _ _ _ => exact fun hm => by (cases hm.2)
  | nonresident => exact fun hm => by (cases hm.2)
  | denied _ => exact fun hm => by (cases hm.2)

/-- A split is next, with 32 bits at its pc. -/
def nextIn (s : State) (w : Word) : State := { write64 s 0x20000 (w.setWidth 64) with turn := [⟨0, 0, 0⟩, ⟨0, 0, 1⟩], cur := none }
/-- The bench's is. -/
def nextAt (w : Word) : State := nextIn one w

/-- The group of the bench. -/
def group0 (s : State) : Group := (groupAt s 0 0).getD (freshGroup s benchGrid 0 0 0 0)

/-- What of ReadyNext is decidable. -/
def readyIn (s : State) : Bool :=
  s.agenda.isEmpty && s.turn == [⟨0, 0, 0⟩, ⟨0, 0, 1⟩] && s.cursor % 4 == 0 && (groupAt s 0 0).isSome &&
    (splitAt (group0 s) 0).arch.state == .ready && (splitAt (group0 s) 0).idle.isNone

theorem ready_next {s : State} (h : readyIn s = true) : ReadyNext s ⟨0, 0, 0⟩ [⟨0, 0, 1⟩] (group0 s) := by
  simp only [readyIn, Bool.and_eq_true, List.isEmpty_iff, beq_iff_eq, Option.isNone_iff_eq_none] at h
  obtain ⟨⟨⟨⟨⟨h1, h2⟩, h3⟩, h4⟩, h5⟩, h6⟩ := h
  obtain ⟨g, hg⟩ := Option.isSome_iff_exists.mp h4
  exact ⟨h1, h2, h3, hg.trans (congrArg some (by rw [group0, hg]; rfl)), h5, h6⟩

/-- An outcome is a next state that meets P. -/
def meets (r : Host.Outcome State Fault Refusal) (P : State → Bool) : Bool :=
  match r with
  | .next t => P t
  | .fault _ => false
  | .refused _ => false

theorem meets_next {r : Host.Outcome State Fault Refusal} {P : State → Bool} (h : meets r P = true) : ∃ t, r = .next t ∧ P t = true := by
  revert h
  cases r with
  | next t => exact fun h => ⟨t, rfl, h⟩
  | fault _ => exact fun h => by (cases h)
  | refused _ => exact fun h => by (cases h)

/-- The state in which the split next to issue carries out its instruction. -/
def fetching (s : State) (w : Issuer) (rest : List Issuer) (g : Group) (i : Instr) : State :=
  let pc := (splitAt g w.entry).arch.pc
  { keepTlb { s with turn := rest } (coreTlb w.core) (partOf s g) g.gid ((List.range (length i)).map fun k => pc.toNat + 2 * k) with
    cur := some ⟨w, pc, pc + BitVec.ofNat 64 (2 * length i)⟩ }

/-- Whether the bench's split has an instruction still to issue. -/
def idle0 (t : State) : Bool :=
  match groupAt t 0 0 with
  | some g => (splitAt g 0).idle.isSome
  | none => false

theorem stalls_iff {t : State} {b : Bool} (h : idle0 t = b) : StallsAt t ⟨0, 0, 0⟩ ↔ b = true := by
  subst h
  unfold idle0 StallsAt
  cases hg : groupAt t 0 0 with
  | none => simp
  | some g => simp [Option.isSome_iff_ne_none]

/-- The bench with a region that is closing. -/
def closing1 : State := onGroup (fun g => { g with region := some ⟨0x20000, [], true⟩ }) one

/-- An instruction at the bench's split answers a next state, in which it has stalled or not. -/
theorem step_met (s : State) (i : Instr) (stall : Bool) (hp : IsProgram i) (hr : readyIn s = true ∧ (view i).legal = true ∧
    standing s (partOf s (group0 s)) (group0 s).gid (splitAt (group0 s) 0).arch.pc (encode i) = true)
    (h : meets (exec i (fetching s ⟨0, 0, 0⟩ [⟨0, 0, 1⟩] (group0 s) i)) (fun t => idle0 t == stall) = true) :
    ∃ s w rest g i t, ReadyNext s w rest g ∧ IsProgram i ∧ WellFormed i ∧
      StandsAt s w.core (partOf s g) g.gid (splitAt g w.entry).arch.pc (encode i) ∧ exec i (fetching s w rest g i) = .next t ∧
      (StallsAt t w ↔ stall = true) := by
  obtain ⟨t, ht, hb⟩ := meets_next h
  exact ⟨s, ⟨0, 0, 0⟩, _, group0 s, i, t, ready_next hr.1, hp, hr.2.1, stands_at hr.2.2, ht, stalls_iff (beq_iff_eq.mp hb)⟩

/-- What decoding answers where it refuses. -/
def refusal (hs : List (BitVec 16)) : Option Reject :=
  match decode hs with
  | .error e => some e
  | .ok _ => none

theorem rejected_of {hs : List (BitVec 16)} {e : Reject} (h : refusal hs = some e) : decode hs = .error e := by
  unfold refusal at h
  split at h
  · next h' => rw [h', Option.some.inj h]
  · cases h

theorem witness_StepRunsTheDecodedInstruction :
    (∀ stall : Bool, ∃ s w rest g i t, ReadyNext s w rest g ∧ IsProgram i ∧ WellFormed i ∧
      StandsAt s w.core (partOf s g) g.gid (splitAt g w.entry).arch.pc (encode i) ∧ exec i (fetching s w rest g i) = .next t ∧
      (StallsAt t w ↔ stall = true)) ∧
    (∀ e ∈ [Reject.zeroHalfword, .pfxBeforeHalf, .badPfx, .badWord 0x4F], ∃ s w rest g hs, ReadyNext s w rest g ∧ hs.length ≤ 6 ∧
      StandsAt s w.core (partOf s g) g.gid (splitAt g w.entry).arch.pc hs ∧ commitReady s g = true ∧ decode hs = .error e) ∧
    (∃ (s : State) (w : Issuer) (rest : List Issuer) (g : Group), s.agenda = [] ∧ s.turn = w :: rest ∧ s.cursor % 4 = 0 ∧
      groupAt s w.core w.gslot = some g ∧ (splitAt g w.entry).arch.state ≠ .ready) ∧
    (∃ (s : State) (i : Instr) (rest : List Instr), s.agenda = i :: rest) ∧
    (∃ (s : State) (r : LnRun) (F : LnFilter) (i : Instr), s.agenda = [] ∧ s.turn = [] ∧ s.lantern.run = some r ∧ underTest s 3492 = false ∧
      lnFilter s r.filter = some F ∧ F.code[r.pc]? = some i) ∧
    (∀ k ∈ [0, 767, 768], ∃ s : State, s.agenda = [] ∧ s.turn = [] ∧ s.lantern.run = none ∧ s.lantern.taps = [] ∧ nextPacket s = none ∧
      s.cursor = k ∧ (k < 768 → ∃ t, slotTurn (k / 4) (k % 4) { s with cursor := k + 1 } = .next t)) ∧
    (∀ k ∈ [1, 767], ∃ s : State, s.agenda = [] ∧ s.turn ≠ [] ∧ s.cursor % 4 ≠ 0 ∧ s.cursor = k ∧
      ∃ t, slotTurn (k / 4) (k % 4) { s with cursor := k + 1 } = .next t) := by
  refine ⟨fun stall => ?_, fun e h => ?_, ⟨{ nextAt 0 with turn := [⟨0, 0, 1⟩] }, ⟨0, 0, 1⟩, [], group0 (nextAt 0), rfl, rfl, rfl, rfl, by decide +kernel⟩,
    ⟨{ State.reset with agenda := [.bucketRefill] }, _, _, rfl⟩,
    ⟨benchFilter State.reset (.filterLbkt 0 3), _, _, _, rfl, rfl, rfl, by decide +kernel, rfl, rfl⟩, fun k h => ?_, fun k h => ?_⟩
  · cases stall
    · exact step_met (nextAt 0x03040603) (.add ⟨.none, false, 2, 1, 2, 3⟩) false (.inl ⟨_, _, _, rfl⟩) (by decide +kernel) (by decide +kernel)
    · exact step_met (nextIn closing1 0x03040603) (.add ⟨.none, false, 2, 1, 2, 3⟩) true (.inl ⟨_, _, _, rfl⟩)
        (by decide +kernel) (by decide +kernel)
  · have met : ∀ (w : Word) (hs : List (BitVec 16)) (r : Reject), readyIn (nextAt w) = true ∧ hs.length ≤ 6 ∧
        standing (nextAt w) (partOf (nextAt w) (group0 (nextAt w))) (group0 (nextAt w)).gid (splitAt (group0 (nextAt w)) 0).arch.pc hs = true ∧
        commitReady (nextAt w) (group0 (nextAt w)) = true ∧ refusal hs = some r → ∃ s w rest g hs, ReadyNext s w rest g ∧ hs.length ≤ 6 ∧
        StandsAt s w.core (partOf s g) g.gid (splitAt g w.entry).arch.pc hs ∧ commitReady s g = true ∧ decode hs = .error r :=
      fun w hs r h => ⟨nextAt w, ⟨0, 0, 0⟩, [⟨0, 0, 1⟩], group0 (nextAt w), hs, ready_next h.1, h.2.1, stands_at h.2.2.1, h.2.2.2.1, rejected_of h.2.2.2.2⟩
    simp only [List.mem_cons, List.not_mem_nil, or_false] at h
    rcases h with rfl | rfl | rfl | rfl
    · exact met 0 [0] _ (by decide +kernel)
    · exact met 0x400004FF [0x04FF, 0x4000, 0] _ (by decide +kernel)
    · exact met 0x800000FF [0x00FF, 0x8000] _ (by decide +kernel)
    · exact met 0x9F [0x9F, 0] _ (by decide +kernel)
  · have met : ∀ n : Nat, nextPacket { State.reset with agenda := [], cursor := n } = none ∧ (n < 768 →
        meets (slotTurn (n / 4) (n % 4) { State.reset with agenda := [], cursor := n + 1 }) (fun _ => true) = true) →
        ∃ s : State, s.agenda = [] ∧ s.turn = [] ∧ s.lantern.run = none ∧ s.lantern.taps = [] ∧ nextPacket s = none ∧
          s.cursor = n ∧ (n < 768 → ∃ t, slotTurn (n / 4) (n % 4) { s with cursor := n + 1 } = .next t) :=
      fun n h => ⟨{ State.reset with agenda := [], cursor := n }, rfl, rfl, rfl, rfl, h.1, rfl,
        fun hn => (meets_next (h.2 hn)).imp fun _ ht => ht.1⟩
    simp only [List.mem_cons, List.not_mem_nil, or_false] at h
    rcases h with rfl | rfl | rfl
    · exact met 0 (by decide +kernel)
    · exact met 767 (by decide +kernel)
    · exact met 768 (by decide +kernel)
  · have met : ∀ n : Nat, n % 4 ≠ 0 ∧ meets (slotTurn (n / 4) (n % 4) { nextAt 0 with cursor := n + 1 }) (fun _ => true) = true →
        ∃ s : State, s.agenda = [] ∧ s.turn ≠ [] ∧ s.cursor % 4 ≠ 0 ∧ s.cursor = n ∧
          ∃ t, slotTurn (n / 4) (n % 4) { s with cursor := n + 1 } = .next t :=
      fun n h => ⟨{ nextAt 0 with cursor := n }, rfl, List.cons_ne_nil _ _, h.1, rfl, (meets_next h.2).imp fun _ ht => ht.1⟩
    simp only [List.mem_cons, List.not_mem_nil, or_false] at h
    rcases h with rfl | rfl
    · exact met 1 (by decide +kernel)
    · exact met 767 (by decide +kernel)

/-- Major opcode 0 traps, and so do the ends of the reserved ranges. -/
theorem witness_ReservedPatternsTrap :
    (∃ w : Word, w.getLsbD 0 = true ∧ w.extractLsb' 1 7 = 0) ∧
    (∀ m ∈ [0x1A, 0x1F, 0x39, 0x3F, 0x4E, 0x4F], ∃ w : Word, w.getLsbD 0 = true ∧ (w.extractLsb' 1 7).toNat = m) ∧
    (∃ s c, Issuing s c ∧ commitReady s c.g = true) ∧
    (∃ s w rest g hs, ReadyNext s w rest g ∧ hs.length ≤ 6 ∧ StandsAt s w.core (partOf s g) g.gid (splitAt g w.entry).arch.pc hs ∧
      commitReady s g = true ∧ decode hs = .error .zeroHalfword) :=
  ⟨⟨1, by decide⟩, fun m h => ⟨BitVec.ofNat 32 (2 * m + 1), by revert m; decide⟩, ⟨one, _, issuing_of_ready (by decide +kernel), by decide +kernel⟩,
    ⟨nextAt 0, ⟨0, 0, 0⟩, [⟨0, 0, 1⟩], group0 (nextAt 0), [0], ready_next (by decide +kernel), by decide, stands_at (by decide +kernel), by decide +kernel,
      rejected_of (by decide)⟩⟩

/-! ## The whole machine -/

theorem witness_MemoryStaysCanonical : (∃ s : State, Memory.wf s.mem = true ∧ s.mem ≠ []) := ⟨one, by decide +kernel⟩

theorem witness_EveryStepGoesOn : ∃ s : State, InPlace s ∧ s.agenda ≠ [] :=
  ⟨{ State.reset with agenda := [.bucketRefill] }, ⟨fun i h => by rw [List.mem_singleton.mp h]; rfl, fun f h => by cases h⟩, List.cons_ne_nil _ _⟩

/-- The numbers beside the assigned ones. -/
theorem witness_UnassignedBlocksReadZero : ∀ n ∈ [192, 255, 3494, 65535],
    ¬(n < 192 ∨ (256 ≤ n ∧ n < 3328) ∨ (3328 ≤ n ∧ n < 3424) ∨ (3424 ≤ n ∧ n < 3472) ∨ (3472 ≤ n ∧ n ≤ 3493)) := by decide

theorem witness_InvocationsStart : ∃ (s : State) (n : Nat) (r : LnRun) (t : State), s.lantern.run = none ∧
    exec (.filterInvocation n) s = .next t ∧ t.lantern.run = some r := by
  obtain ⟨t, ht, hr⟩ := meets_next (r := exec (.filterInvocation 7) (attaching 2 false)) (P := fun t => t.lantern.run.isSome) (by decide +kernel)
  exact ⟨_, 7, _, t, rfl, ht, (Option.some_get hr).symm⟩

/-- Four tables from 0x5_0000 down to the page entry e at 0x1_0000, for address 0, in partition 0 of colours ccm; the bivouac
region of partition 5 is of configuration bvcfg, from 0x6_0000. -/
def tables (e ccm bvcfg : Dword) : State :=
  let s := modPregs { State.reset with mem := [] } 0 fun r => { r with ptroot := 0x50000, s2cfg := 0, ccm := ccm }
  let s := modPregs s 5 fun r => { r with bvbase := 0x60000, bvcfg := bvcfg }
  write64 (write64 (write64 (write64 (write64 s 0x50000 0x40001) 0x40000 0x30001) 0x30000 0x20001) 0x20000 0x10001) 0x10000 e

/-- What of FourTables is decidable, at address 5, and that nothing is held. -/
def fourTables (s : State) (e : Dword) : Bool :=
  !(pregs s 0).s2cfg.getLsbD 0 && bits (pregs s 0).ptroot 12 40 * 4096 == 0x50000 && e == read64 s 0x10000 && s.tlb.isEmpty &&
    (List.range 6).all fun k => k == 0 || (isMem s (0x10000 * k) &&
      (pageSpans k).all (fun n => !pageDiffers s k (0x10000 * k + 8 * (5 / 2 ^ (3 + 9 * k) % 512 / n * n)) n) && (k == 1 ||
      let x := read64 s (0x10000 * k + 8 * (5 / 2 ^ (3 + 9 * k) % 512))
      x.getLsbD 0 && bits x 1 2 == 0 && bits x 3 9 == 0 && bits x 52 12 == 0 && bits x 12 40 * 4096 == 0x10000 * (k - 1)))

theorem four_tables {s : State} {e : Dword} (h : fourTables s e = true) :
    NotHeld s 0 0 5 ∧ FourTables s 0 5 (fun k => 0x10000 * k) e := by
  simp only [fourTables, Bool.and_eq_true, Bool.not_eq_true', beq_iff_eq, List.all_eq_true, List.mem_range, Bool.or_eq_true,
    List.isEmpty_iff] at h
  obtain ⟨⟨⟨⟨h1, h2⟩, h3⟩, h5⟩, h4⟩ := h
  refine ⟨fun x hx => (by rw [h5] at hx; cases hx), h1, h2.symm, fun k hk hk' => ?_, fun k hk hk' => ?_, h3, fun k hk hk' n hn => ?_⟩
  · rcases h4 k (by omega) with h | h
    · omega
    · exact h.1.1
  · rcases h4 k (by omega) with h | h
    · omega
    · rcases h.2 with h | h
      · omega
      · exact ⟨h.1.1.1.1, h.1.1.1.2, h.1.1.2, h.1.2, h.2⟩
  · rcases h4 k (by omega) with h | h
    · omega
    · exact h.1.2 n hn

/-- What decides an access of a page at 0x6_0000: whether its entry lets it be written and executed, whether it is marked
non-resident, whether it is in a bivouac region, and whether of a colour of the partition. -/
def pageCases : List (Bool × Bool × Bool × Bool) :=
  [(false, false, false, true), (true, true, false, true), (true, false, true, true), (true, false, false, false), (true, false, false, true)]
def pageEntry (c : Bool × Bool × Bool × Bool) : Dword := 0x60003 + (if c.1 then 0x18 else 0) + (if c.2.1 then 0x20 else 0)
def pageTables (c : Bool × Bool × Bool × Bool) : State :=
  tables (pageEntry c) (if c.2.2.2 then 0x40 else 0xFFFF_FFBF) (if c.2.2.1 then 4 else 0)

theorem witness_TranslationReachesPages :
    (∃ (s : State) (unit part gid va pa gpa : Nat) (w x : Bool), NotHeld s unit part va ∧ access s unit part gid va w x = .ok pa gpa) ∧
    (∀ k : Fin 3, ∃ s unit part va T e, NotHeld s unit part va ∧ FourTables s part va T e ∧ (k = 0 → e.getLsbD 0 = false) ∧
      (k = 1 → e.getLsbD 0 = true ∧ bits e 1 2 = 3 ∧ bits e 8 4 = 0) ∧
      (k = 2 → e.getLsbD 0 = true ∧ bits e 1 2 = 1 ∧ bits e 8 4 = 0 ∧ bits e 6 2 = 0 ∧ bits e 52 12 = 0 ∧
        isMem s (bits e 12 40 * 4096 + va % 4096) = true)) ∧
    (∀ c ∈ pageCases, ∃ s unit part va T e, NotHeld s unit part va ∧ FourTables s part va T e ∧ e.getLsbD 0 = true ∧
      bits e 1 2 = 1 ∧ bits e 8 4 = 0 ∧ bits e 6 2 = 0 ∧ bits e 52 12 = 0 ∧ isMem s (bits e 12 40 * 4096 + va % 4096) = true ∧
      e.getLsbD 3 = c.1 ∧ e.getLsbD 4 = c.1 ∧ e.getLsbD 5 = c.2.1 ∧ inBivouac s (bits e 12 40 * 4096 + va % 4096) = c.2.2.1 ∧
      (pregs s part).ccm.getLsbD ((bits e 12 40 * 4096 + va % 4096) / 2 ^ 16 % 32) = c.2.2.2) ∧
    (∃ (s : State) (unit part va : Nat) (e : TlbEntry) (before after : List TlbEntry), s.tlb = before ++ e :: after ∧ before ≠ [] ∧
      (∀ y ∈ before, y.covers unit part va = false) ∧ e.covers unit part va = true ∧ e.marked = true) := by
  refine ⟨⟨mapped, 0, 0, 0, 0x20000, _, _, true, false, fun _ h => by (cases h), rfl⟩, fun k => ?_, fun c hc => ?_,
    ⟨{ State.reset with tlb := [⟨0, 1, 0x1000, 4096, .page 0x1000 0x1000 true true true 4096⟩, ⟨0, 0, 0x1000, 4096, .page 0x1000 0x1000 true true true 4096⟩] },
      0, 0, 0x1FFF, _, [_], [], rfl, List.cons_ne_nil _ _, by decide, by decide, by decide⟩⟩
  · match k with
    | 0 => 
      obtain ⟨h1, h2⟩ := four_tables (s := tables 0x60002 0 0) (e := 0x60002) (by decide +kernel)
      exact ⟨_, 0, 0, 5, _, _, h1, h2, by decide +kernel⟩
    | 1 => 
      obtain ⟨h1, h2⟩ := four_tables (s := tables 0x60007 0 0) (e := 0x60007) (by decide +kernel)
      exact ⟨_, 0, 0, 5, _, _, h1, h2, by decide +kernel⟩
    | 2 => 
      obtain ⟨h1, h2⟩ := four_tables (s := tables 0x60003 0 0) (e := 0x60003) (by decide +kernel)
      exact ⟨_, 0, 0, 5, _, _, h1, h2, by decide +kernel⟩
  · have all : ∀ c ∈ pageCases, let s := pageTables c
        let e := pageEntry c
        fourTables s e = true ∧ e.getLsbD 0 = true ∧ bits e 1 2 = 1 ∧ bits e 8 4 = 0 ∧ bits e 6 2 = 0 ∧ bits e 52 12 = 0 ∧
        isMem s (bits e 12 40 * 4096 + 5 % 4096) = true ∧ e.getLsbD 3 = c.1 ∧ e.getLsbD 4 = c.1 ∧ e.getLsbD 5 = c.2.1 ∧
        inBivouac s (bits e 12 40 * 4096 + 5 % 4096) = c.2.2.1 ∧
        (pregs s 0).ccm.getLsbD ((bits e 12 40 * 4096 + 5 % 4096) / 2 ^ 16 % 32) = c.2.2.2 := by decide +kernel
    obtain ⟨h, rest⟩ := all c hc
    exact ⟨_, 0, 0, 5, _, _, (four_tables h).1, (four_tables h).2, rest⟩

/-- Partition 3's error queue, of 64 entries, has n; bit 0 of function 9's vfint is as given. -/
def erring (n : Dword) (on noted : Bool) : State :=
  let s := modPregs { State.reset with mem := [] } 3 fun r => { r with pctl := 0x901, eqbase := 0x8000, eqcfg := (if on then 6 else 0) + n * 2 ^ 32 }
  { s with vfs := vset s.vfs 9 { vfRegs s 9 with vfint := if noted then 1 else 0 } }

theorem witness_QueuesTakeEntries :
    (∀ noted : Bool, ∃ s p, p < 12 ∧ ringOn (pregs s p).eqcfg = true ∧ ringHeld (pregs s p).eqcfg + 1 = 2 ^ bits (pregs s p).eqcfg 0 5 ∧
      Unretired s ((pregs s p).eqbase.toNat / 32 * 32 % 2 ^ 52 + 32 * 63) 32 ∧
      (vfRegs s (bits (pregs s p).pctl 8 8)).vfint.getLsbD 0 = noted) ∧
    (∃ s p, p < 12 ∧ ringOn (pregs s p).eqcfg = true ∧ 2 ^ bits (pregs s p).eqcfg 0 5 ≤ ringHeld (pregs s p).eqcfg) ∧
    (∃ s p, p < 12 ∧ ringOn (pregs s p).eqcfg = false) :=
  ⟨fun noted => ⟨erring 63 true noted, 3, by decide, by revert noted; decide +kernel, by revert noted; decide +kernel, unretired rfl, by revert noted; decide +kernel⟩,
    ⟨erring 64 true false, 3, by decide +kernel⟩, ⟨erring 0 false false, 3, by decide +kernel⟩⟩

end Sys2Proof.Tests

namespace Sys2Proof.Tests
open Sys2Proof Sys2Proof.Machine
set_option Elab.async false

/-! ## A word of every row of the opcode table, from the table's fixed bits and fields -/

/-- R121, R137: C set, b 17, a 9, d 5 and guard 1 under each major opcode of lanes with a free field b. -/
def laneRows : List (Word × (LaneW → Instr)) :=
  [(0x91121503, .add), (0x91121505, .sub), (0x91121507, .mul), (0x91121509, .mulh), (0x9112150B, .mad), (0x9112150D, .min),
    (0x9112150F, .max), (0x91121511, .and), (0x91121513, .or), (0x91121515, .xor), (0x91121517, .andn), (0x91121519, .shl),
    (0x9112151B, .shr), (0x9112151D, .sra), (0x9112151F, .rot), (0x91121523, .bfx), (0x91121525, .bfi), (0x91121527, .sel),
    (0x9112152B, .addsat), (0x9112152D, .subsat), (0x9112152F, .sad), (0x91121531, .movi), (0x91121533, .lsa),
    (0x91121541, .fadd), (0x91121543, .fsub), (0x91121545, .fmul), (0x91121547, .ffma), (0x91121549, .fmin),
    (0x9112154B, .fmax), (0x9112154D, .fminp), (0x9112154F, .fmaxp), (0x91121555, .fdiv), (0x9112155F, .fscale),
    (0x91121571, .fcpsgn), (0x91121587, .shfl)]

/-- The same with field b fixed by the row (R138, R140). -/
def laneOneRows : List (Word × (LaneU → Instr)) :=
  [(0x80121521, .iunAbs), (0x81121521, .iunNeg), (0x82121521, .iunNot), (0x83121521, .iunClz), (0x84121521, .iunPopc),
    (0x85121521, .iunBrev), (0x86121521, .iunMov), (0x80121553, .fclass), (0x80121557, .fsqrt), (0x80121559, .frcp),
    (0x8012155B, .frsq), (0x8012155D, .frint), (0x8012156D, .fabs), (0x8012156F, .fneg), (0x80121581, .sfnExp2),
    (0x81121581, .sfnLog2), (0x82121581, .sfnSinp), (0x83121581, .sfnCosp), (0x84121581, .sfnTanh), (0x85121581, .sfnSigm),
    (0x80121583, .rred), (0x80121589, .rfal), (0x8012158F, .matchLanes), (0x80121591, .redlSum), (0x81121591, .redlMax),
    (0x82121591, .redlMin)]

/-- Lane and predicate instructions whose fields are literals or conditions (R138 to R140). -/
def literalRows : List (Word × Instr) :=
  [(0x9112AD29, .cmp ⟨.none, true, 1, 0x2B, 9, 17⟩), (0x9112AD51, .fcmp ⟨.none, true, 1, 0x2B, 9, 17⟩),
    (0x84121561, .cvt ⟨.none, true, 1, 5, 9, 4⟩), (0x86121563, .cvti ⟨.none, true, 1, 5, 9, 6⟩),
    (0x82121565, .cvtf ⟨.none, true, 1, 5, 9, 2⟩), (0x87121569, .upk ⟨.none, true, 1, 5, 9, 7⟩),
    (0x8812156B, .retag ⟨.none, true, 1, 5, 9, 8⟩), (0x84121585, .swpp ⟨.none, true, 1, 5, 9, 4⟩),
    (0x9F12158B, .bcast ⟨.none, true, 1, 5, 9, 31⟩), (0x90121593, .rmax ⟨.none, true, 1, 5, 9, 16⟩),
    (0x90121595, .rsexp ⟨.none, true, 1, 5, 9, 16⟩), (0x90121597, .rstat ⟨.none, true, 1, 5, 9, 16⟩),
    (0x90121599, .smx ⟨.none, true, 1, 5, 9, 16⟩), (0x9012159B, .rnorm ⟨.none, true, 1, 5, 9, 16⟩),
    (0x800C0D8D, .voteAny ⟨.none, true, 1, 3, 6⟩), (0x810C0D8D, .voteAll ⟨.none, true, 1, 3, 6⟩),
    (0x820C158D, .voteBallot ⟨.none, true, 1, 5, 6⟩), (0x91132CB9, .scmp ⟨.none, true, 0x4B, 9, 17⟩)]

/-- R220: C set, b 17, a 9, d 5. -/
def scalarRows : List (Word × (ScalarW → Instr)) :=
  [(0x911214A1, .sadd), (0x911214A3, .ssub), (0x911214A5, .smul), (0x911214A7, .smad), (0x911214A9, .sand),
    (0x911214AB, .sor), (0x911214AD, .sxor), (0x911214AF, .sshl), (0x911214B1, .sshr), (0x911214B3, .ssra),
    (0x911214B5, .smin), (0x911214B7, .smax), (0x911214BD, .slsa), (0x911214BF, .sli)]

/-- R141: ord 3, wid 3, a 10, d 6, guard 1. -/
def memRows : List (Word × (MemW → Instr)) :=
  [(0x1B1419D1, .ld), (0x1B1419D3, .st), (0x1B1419D5, .lds), (0x1B1419D7, .sts)]

/-- R142: order 5, 64-bit, a 10, d 6, guard 1. -/
def atmRows : List (Word × (AtmW → Instr)) :=
  [(0x581419E1, .atmAdd), (0x591419E1, .atmMin), (0x5A1419E1, .atmMax), (0x5B1419E1, .atmAnd), (0x5C1419E1, .atmOr),
    (0x5D1419E1, .atmXor), (0x5E1419E1, .atmXchg), (0x5F1419E1, .atmCas)]

/-- The other rows of R137, R142 to R145. -/
def otherRows : List (Word × Instr) :=
  [(0x801214BB, .smov ⟨.none, true, 5, 9⟩), (0x7FFFF9C1, .bru .none 1 0x1FFFFE), (0x001000C5, .jmp 8),
    (0x7FFFF9C9, .call .none 1 0x1FFFFE), (0x000000CB, .ret), (0x000001CD, .exit .none 1), (0x000000CF, .yld),
    (0x000001EF, .kill .none 1), (0x2B1418D9, .ldu ⟨.none, 6, 10, 5, 3⟩), (0x2B1418DB, .stu ⟨.none, 6, 10, 5, 3⟩),
    (0x001001DD, .pgreq .none 1 8), (0x000000DF, .rgnBegin .none), (0x010000DF, .rgnCommit .none),
    (0x111015E3, .ctrb .none 1 5 8 17), (0x001000E5, .redInit .none 8), (0x011015E5, .redNull .none 1 5 8),
    (0x021014E5, .redQuery .none 5 8), (0x111014E7, .mst .none 5 8 17), (0x041000E9, .fence .none 4 8),
    (0x080000E9, .fenceS .none), (0x221010EB, .fencex .none 4 2 4 8), (0x0B1000ED, .bar .none true 3 8),
    (0x001014F1, .mmt .none 5 8), (0x001014F3, .tcon .none 5 8), (0x000014F5, .accZero .none 5), (0x010014F5, .accBind 5),
    (0x021014F5, .accLoad .none 5 8), (0x031014F5, .accStore .none 5 8), (0x040014F5, .accFold .none 5),
    (0x051014F5, .accCtrb .none 5 8), (0x001014F7, .cpyLoad .none 5 8), (0x011014F7, .cpyStore .none 5 8),
    (0x021014F7, .cpyGather .none 5 8), (0x031014F7, .cpyScatter .none 5 8), (0x041014F7, .cpyFill .none 5 8),
    (0x051014F7, .cpyL2pf .none 5 8), (0x061014F7, .cpyXfer .none 5 8), (0x001000F9, .wtgAny 8), (0x011000F9, .wtgAll 8),
    (0x021014F9, .wtgFirst 5 8), (0x031014F9, .wtgTest 5 8), (0x001000FB, .engGset 8), (0x011000FB, .engPlan .none 8),
    (0x021014FB, .engLaunch .none 5 8), (0x031014FB, .engWaitl 5 8), (0x041000FB, .engLnt .none 8),
    (0x001000FD, .sysTrap 8), (0x010000FD, .sysRte), (0x02B814FD, .sysMovsr 5 92), (0x031000FD, .sysMovcr 8),
    (0x041000FD, .sysRegacq 8), (0x051000FD, .sysRegrel 8), (0x061000FD, .sysXiset 8), (0x070014FD, .sysStat 5),
    (0x080000FD, .sysNop), (0x091000FD, .sysBrk 8), (0x0A0414FD, .sysMode 5 2), (0x0B0014FD, .sysClk 5),
    (0x91121501, .ill 0x911215)]

/-- R127: a 61, d 3. -/
def halfRows : List (Word × (HalfW → Instr)) :=
  [(0x0000F460, .movC16), (0x0000F462, .addC16), (0x0000F464, .subC16), (0x0000F466, .mulC16), (0x0000F468, .andC16),
    (0x0000F46A, .orC16), (0x0000F46C, .xorC16), (0x0000F46E, .shlC16), (0x0000F470, .shrC16), (0x0000F472, .faddC16),
    (0x0000F474, .fsubC16), (0x0000F476, .fmulC16), (0x0000F478, .fminC16), (0x0000F47A, .fmaxC16), (0x0000F47C, .fnegC16),
    (0x0000F47E, .sraC16)]

/-- R472: each filter operation. -/
def filterRows : List (Word × Instr) :=
  [(0x00000000, .filterEnd), (0x00025701, .filterAdd 9 5 12), (0x00025702, .filterSub 9 5 12),
    (0x00025703, .filterMul 9 5 12), (0x00025704, .filterAnd 9 5 12), (0x00025705, .filterOr 9 5 12),
    (0x00025706, .filterXor 9 5 12), (0x00025707, .filterShl 9 5 12), (0x00025708, .filterShr 9 5 12),
    (0x00025709, .filterMin 9 5 12), (0x0002570A, .filterMax 9 5 12), (0x0000170B, .filterClz 5 12),
    (0xAAF0170C, .filterAddi 0x2abc 5 12), (0xAAF0170D, .filterAndi 0x2abc 5 12), (0x0094170E, .filterShli 37 5 12),
    (0x0094170F, .filterShri 37 5 12), (0xAAF00310, .filterMovi 0x2abc 12), (0x000C0311, .filterLdk 3 12),
    (0x000C0312, .filterLdst 3 12), (0x000C1413, .filterStst 3 5), (0x00001714, .filterLbkt 5 12),
    (0x002A5415, .filterHadd 10 9 5), (0x000E5416, .filterKadd 3 9 5), (0x000C1717, .filterKest 3 5 12),
    (0x00965418, .filterBeq 37 9 5), (0x00965419, .filterBne 37 9 5), (0x0096541A, .filterBltu 37 9 5),
    (0x0008141B, .filterTrig 2 5)]

/-- R129, R130, R137: pk to U8x4 behind an operand pfx of x = 8, and brd and jmpx behind an immediate one of 4. -/
theorem test_decode_rows_with_a_pfx :
    reads (wordHalves 0x087F00FF ++ wordHalves 0x91121567) (.pk ⟨pre fun o => { o with x := 8 }, true, 1, 5, 9, 17⟩) = true ∧
    reads (wordHalves 0x400004FF ++ wordHalves 0x7FFFF9C3) (.brd (.imm 4) 1 0x1FFFFE) = true ∧
    reads (wordHalves 0x400004FF ++ wordHalves 0x001001C7) (.jmpx (.imm 4) 1 8) = true := by decide +kernel

theorem test_decode_lane_rows : (laneRows.all fun r => word r.1 (r.2 ⟨.none, true, 1, 5, 9, 17⟩)) = true := by decide +kernel
theorem test_decode_lane_one_rows : (laneOneRows.all fun r => word r.1 (r.2 ⟨.none, true, 1, 5, 9⟩)) = true := by decide +kernel
theorem test_decode_literal_rows : (literalRows.all fun r => word r.1 r.2) = true := by decide +kernel
theorem test_decode_scalar_rows : (scalarRows.all fun r => word r.1 (r.2 ⟨.none, true, 5, 9, 17⟩)) = true := by decide +kernel
theorem test_decode_mem_rows : (memRows.all fun r => word r.1 (r.2 ⟨.none, 1, 6, 10, 3, 3⟩)) = true := by decide +kernel
theorem test_decode_atm_rows : (atmRows.all fun r => word r.1 (r.2 ⟨.none, 1, 6, 10, 5, true⟩)) = true := by decide +kernel
theorem test_decode_other_rows : (otherRows.all fun r => word r.1 r.2) = true := by decide +kernel
theorem test_decode_half_rows : (halfRows.all fun r => reads [r.1.setWidth 16] (r.2 ⟨61, 3⟩)) = true := by decide +kernel
theorem test_decode_filter_rows : (filterRows.all fun r => filterReads r.1 r.2) = true := by decide +kernel

end Sys2Proof.Tests
end

section
/-! What the reserved patterns of R120 and R136 do: how they decode, that opcode 0x00 traps, and that a split which meets
one takes the illegal-instruction trap. -/
namespace Sys2Proof.Proofs

open Sys2Proof.Machine

/-! ## The decoder on one 32-bit word (R119, R121, R136) -/

theorem wordHalves_join (w : Word) : w.extractLsb' 16 16 ++ w.extractLsb' 0 16 = w := by
  rw [BitVec.extractLsb'_append_extractLsb'_eq_extractLsb' (start₁ := 0) (len₁ := 16) (start₂ := 16) rfl]
  exact BitVec.extractLsb'_eq_self

theorem decode_word {w : Word} {i : Instr} (rest : List (BitVec 16)) (odd : w.getLsbD 0 = true)
    (noPfx : w.extractLsb' 1 7 ≠ 0x7F#7) (hi : decodeWord .none w = some i) :
    decode (wordHalves w ++ rest) = .ok (i, rest) := by
  simp [decode, wordHalves, decodeFrom, odd, noPfx, hi, wordHalves_join]

theorem decode_word_of_none {w : Word} (rest : List (BitVec 16)) (odd : w.getLsbD 0 = true)
    (noPfx : w.extractLsb' 1 7 ≠ 0x7F#7) (hi : decodeWord .none w = none) :
    decode (wordHalves w ++ rest) = .error (.badWord (w.extractLsb' 1 7)) := by
  simp [decode, wordHalves, decodeFrom, odd, noPfx, hi, wordHalves_join]

/-- The 24 bits above major opcode 0x00. -/
def illRaw (f : WordF) : BitVec (1 + 7 + 7 + 7 + 2) := BitVec.ofBool f.chain ++ f.b ++ f.a ++ f.d ++ f.guard

theorem illRaw_chain (f : WordF) : (illRaw f).getLsbD 23 = f.chain := by
  rw [illRaw]
  iterate 4 rw [BitVec.getLsbD_append, if_neg (by decide)]
  exact BitVec.getLsbD_ofBool f.chain 0

theorem illRaw_b (f : WordF) : (illRaw f).extractLsb' 16 7 = f.b := by
  rw [illRaw]
  iterate 3 rw [BitVec.extractLsb'_append_eq_of_le (by decide)]
  exact BitVec.extractLsb'_append_eq_right

theorem illRaw_a (f : WordF) : (illRaw f).extractLsb' 9 7 = f.a := by
  rw [illRaw]
  iterate 2 rw [BitVec.extractLsb'_append_eq_of_le (by decide)]
  exact BitVec.extractLsb'_append_eq_right

theorem illRaw_d (f : WordF) : (illRaw f).extractLsb' 2 7 = f.d := by
  rw [illRaw, BitVec.extractLsb'_append_eq_of_le (by decide)]
  exact BitVec.extractLsb'_append_eq_right

theorem illRaw_guard (f : WordF) : (illRaw f).extractLsb' 0 2 = f.guard := BitVec.extractLsb'_append_eq_right

theorem view_ill_illRaw {f : WordF} (h : f.major = 0) :
    view (.ill (illRaw f)) = .core .none f ⟨.lanes, .fixed true, .fixed true, .fixed true, .none, .none, .none⟩ := by
  have hf : (⟨(illRaw f).getLsbD 23, (illRaw f).extractLsb' 16 7, (illRaw f).extractLsb' 9 7, (illRaw f).extractLsb' 2 7,
      (illRaw f).extractLsb' 0 2, 0⟩ : WordF) = f := by
    rw [illRaw_chain, illRaw_b, illRaw_a, illRaw_d, illRaw_guard, ← h]
  exact congrArg (View.core .none · _) hf

theorem build_of_major_zero (p : Pfx) {f : WordF} (h : f.major = 0) : build p f = some (.ill (illRaw f)) := by
  obtain ⟨chain, b, a, d, guard, major⟩ := f
  subst h
  rfl

theorem decodeWord_of_major_zero {w : Word} (h : w.extractLsb' 1 7 = 0) :
    decodeWord .none w = some (.ill (illRaw (unpackWord w))) := by
  have hm : (unpackWord w).major = 0 := h
  simp only [decodeWord, build_of_major_zero .none hm, view_ill_illRaw hm]
  exact if_pos ⟨trivial, trivial, rfl⟩

/-- The major opcodes that R136 reserves. -/
def ReservedMajor (m : Nat) : Prop := (0x1A ≤ m ∧ m ≤ 0x1F) ∨ (0x39 ≤ m ∧ m ≤ 0x3F) ∨ m = 0x4E ∨ m = 0x4F

theorem build_of_reserved_major (p : Pfx) {f : WordF} (h : ReservedMajor f.major.toNat) : build p f = none := by
  obtain ⟨chain, b, a, d, guard, major⟩ := f
  rw [build]
  obtain ⟨lo, hi⟩ | ⟨lo, hi⟩ | h | h := h <;> dsimp only at *
  · interval_cases major.toNat <;> rfl
  · interval_cases major.toNat <;> rfl
  · rw [h]; rfl
  · rw [h]; rfl

theorem decodeWord_of_reserved_major {w : Word} (h : ReservedMajor (w.extractLsb' 1 7).toNat) :
    decodeWord .none w = none := by
  have hm : ReservedMajor (unpackWord w).major.toNat := h
  simp only [decodeWord, build_of_reserved_major .none hm]

/-! ## The reserved patterns (R120, R136) -/

theorem decode_zeroHalfword (rest : List (BitVec 16)) : decode (0#16 :: rest) = .error .zeroHalfword := by
  rw [decode, decodeFrom.eq_def]
  rfl

theorem decode_major_zero {w : Word} (rest : List (BitVec 16)) (odd : w.getLsbD 0 = true) (h : w.extractLsb' 1 7 = 0) :
    decode (wordHalves w ++ rest) = .ok (.ill (illRaw (unpackWord w)), rest) :=
  decode_word rest odd (by rw [h]; decide) (decodeWord_of_major_zero h)

theorem decode_reserved_major {w : Word} (rest : List (BitVec 16)) (odd : w.getLsbD 0 = true)
    (h : ReservedMajor (w.extractLsb' 1 7).toNat) :
    decode (wordHalves w ++ rest) = .error (.badWord (w.extractLsb' 1 7)) := by
  refine decode_word_of_none rest odd (fun isPfx => ?_) (decodeWord_of_reserved_major h)
  rw [isPfx] at h
  exact absurd h (by unfold ReservedMajor; decide)

theorem exec_ill_traps {s : State} {c : Ctx} (raw : BitVec 24) (h : Issuing s c) (commits : commitReady s c.g = true) :
    Traps (.ill raw) s c (plainTrap 0 c.mask) := by
  refine ⟨_, s.freeCtr + 1024, ?_, rfl⟩
  change execIll raw s = _
  rw [execIll, Laws.runInstr_of_issuing h]
  exact if_pos commits

/-! ## What is fetched of a pattern that is no instruction (R119, R146) -/

/-- What a pattern is refused for, but for its end, what follows it does not mend. -/
theorem decodeFrom_append_of_error {p : Pfx} {hs : List (BitVec 16)} {e : Reject} (rest : List (BitVec 16))
    (whole : e ≠ .truncated) (pfxWhole : e ≠ .pfxTruncated) (h : decodeFrom p hs = .error e) :
    decodeFrom p (hs ++ rest) = .error e := by
  fun_induction decodeFrom p hs with
  | case1 =>
    split at h
    · exact absurd (Except.error.inj h).symm whole
    · exact absurd (Except.error.inj h).symm pfxWhole
  | case5 =>
    split at h
    · exact absurd (Except.error.inj h).symm pfxWhole
    · exact absurd (Except.error.inj h).symm whole
  | case4 => cases h
  | case9 => cases h
  | case7 _ _ odd _ _ isPfx _ next ih =>
    rw [List.cons_append, List.cons_append, decodeFrom]
    simp only [odd, isPfx, next, if_true]
    exact ih h
  | case2 _ _ _ even prefixed =>
    rw [List.cons_append, decodeFrom.eq_def]
    simp only [even, if_true]
    exact (if_pos prefixed).trans h
  | case3 _ _ prefixed even =>
    rw [List.cons_append, decodeFrom.eq_def]
    simp only [even, prefixed, if_true, if_false]
    exact h
  | case6 _ _ odd _ _ isPfx none =>
    rw [List.cons_append, List.cons_append, decodeFrom]
    simp only [odd, isPfx, none, if_true]
    exact h
  | case8 _ _ odd _ _ noPfx none =>
    rw [List.cons_append, List.cons_append, decodeFrom]
    simp only [odd, noPfx, none, if_false]
    exact h

theorem fetchHalf_of_standsAt {s : State} {core part gid : Nat} {pc : Dword} {hs : List (BitVec 16)} (mask : Mask)
    (h : StandsAt s core part gid pc hs) {k : Nat} {x : BitVec 16} (hk : hs[k]? = some x) :
    fetchHalf s core part gid mask (pc.toNat + 2 * k) = .ok x := by
  obtain ⟨hlt, pa, m, ha, hp, hr⟩ := h k x hk
  simp only [fetchHalf, Nat.not_le.mpr hlt, ha, hp, hr, if_false, Bool.false_eq_true, BitVec.ofNat_toNat, BitVec.setWidth_eq]

theorem fetchHalves_prefix {s : State} {core part gid : Nat} {mask : Mask} {hs : List (BitVec 16)} {n va : Nat}
    (h : ∀ k x, hs[k]? = some x → fetchHalf s core part gid mask (va + 2 * k) = .ok x) (len : hs.length ≤ n) :
    ∃ rest, (fetchHalves s core part gid mask n va).1 = hs ++ rest := by
  induction hs generalizing n va with
  | nil => exact ⟨_, rfl⟩
  | cons x t ih =>
    cases n with
    | zero => simp at len
    | succ n =>
      have hx : fetchHalf s core part gid mask va = .ok x := h 0 x rfl
      have ht (k : Nat) (y : BitVec 16) (hk : t[k]? = some y) : fetchHalf s core part gid mask (va + 2 + 2 * k) = .ok y := by
        rw [show va + 2 + 2 * k = va + 2 * (k + 1) by omega]
        exact h (k + 1) y hk
      obtain ⟨rest, hr⟩ := ih ht (Nat.le_of_succ_le_succ len)
      exact ⟨rest, by simp only [fetchHalves, hx, hr, List.cons_append]⟩

theorem fetchInstr_of_rejected {s : State} {core part gid : Nat} {pc : Dword} {hs : List (BitVec 16)} {e : Reject}
    (mask : Mask) (h : StandsAt s core part gid pc hs) (len : hs.length ≤ 6) (bad : decode hs = .error e)
    (whole : e ≠ .truncated) (pfxWhole : e ≠ .pfxTruncated) :
    fetchInstr s core part gid mask pc = .trap (plainTrap 0 mask) := by
  obtain ⟨rest, hr⟩ := fetchHalves_prefix (fun k x hk => fetchHalf_of_standsAt mask h hk) len
  have hd : decode (fetchHalves s core part gid mask 6 pc.toNat).1 = .error e := by
    rw [hr]
    exact decodeFrom_append_of_error rest whole pfxWhole bad
  unfold fetchInstr
  simp only [hd]
  cases e with
  | truncated => exact absurd rfl whole
  | _ => rfl

/-! ## The groups after a trap -/

@[simp] theorem ringWrite_groups (s : State) (cfg : Dword) (base size : Nat) (bs : List Byte) :
    (ringWrite s cfg base size bs).groups = s.groups := by
  unfold ringWrite
  split <;> rfl

@[simp] theorem raiseVector_groups (s : State) (fn cause : Nat) : (raiseVector s fn cause).groups = s.groups := by
  unfold raiseVector
  split
  · split <;> rfl
  · rfl

@[simp] theorem errPart_groups (s : State) (part : Nat) (e : ErrRec) : (errPart s part e).groups = s.groups := by
  simp only [errPart]
  split <;> simp

@[simp] theorem errDev_groups (s : State) (e : ErrRec) : (errDev s e).groups = s.groups := by
  simp only [errDev]
  split <;> simp

@[simp] theorem errParts_groups (s : State) (part : Nat) (es : List ErrRec) : (errParts s part es).groups = s.groups := by
  induction es generalizing s with
  | nil => rfl
  | cons e t ih =>
    have noted : (noteErr s part e).groups = s.groups := by
      unfold noteErr
      split
      · split <;> simp
      · simp
    exact (ih (noteErr s part e)).trans noted

@[simp] theorem tap_groups (s : State) (source kind part payload : Nat) :
    (tap s source kind part payload).groups = s.groups := by
  simp only [tap, apply_ite State.groups, ite_self]

@[simp] theorem writeCompletion_groups (s : State) (g : Grid) : (writeCompletion s g).groups = s.groups := by
  simp only [writeCompletion]
  split
  · rfl
  · split <;> simp

@[simp] theorem closeGrid_groups (s : State) (gid : Nat) : (closeGrid s gid).groups = s.groups := by
  unfold closeGrid
  split
  · rfl
  · split
    · simp
    · rfl

/-- A grid that fails loses its groups, unless it has gone or its end has begun. -/
theorem failGrid_groups (s : State) (gid cause : Nat) :
    (failGrid s gid cause).groups = s.groups ∨
      (failGrid s gid cause).groups = s.groups.filter fun g => g.gid != gid := by
  unfold failGrid endGrid
  split
  · exact .inl rfl
  · split
    · exact .inl rfl
    · exact .inr (by simp [clearGrid])

/-! ## Regions -/

@[simp] theorem setRedFlag_groups (s : State) (r : RedOpen) (bit : Nat) : (setRedFlag s r bit).groups = s.groups := by
  have noted : (setDescFlag s r.descPa bit).groups = s.groups := by
    simp only [setDescFlag, apply_ite State.groups, Laws.write64_groups, ite_self]
  exact noted

@[simp] theorem reportFrag_groups (s : State) (f : Frag) : (reportFrag s f false true).groups = s.groups := by
  unfold reportFrag
  cases f.remote with
  | some x => simp only [carryFlags, apply_ite State.groups, ite_self]
  | none =>
    cases openRed s f with
    | some r => exact setRedFlag_groups ..
    | none => rfl

@[simp] theorem sendFrag_groups (s : State) (core : Nat) (owner : Option (Nat × Mask)) (f : Frag) :
    (sendFrag s core owner f).groups = s.groups := by
  unfold sendFrag
  split
  · exact reportFrag_groups ..
  · rfl

@[simp] theorem rwcPut_groups (s : State) (core gid team part : Nat) (dev : BitVec 14) (win : BitVec 12) (off : Nat)
    (bs : List Byte) (store : Mask × Nat × Nat × BitVec 3) :
    (rwcPut s core gid team part dev win off bs store).groups = s.groups := by
  simp only [rwcPut, apply_ite State.groups, ite_self]

theorem performEntry_groups (g : Group) (part : Nat) (s : State) (e : RegionEntry) :
    (performEntry g part s e).groups = s.groups := by
  cases e with
  | bytes => rfl
  | remote => exact rwcPut_groups ..
  | stage => rfl
  | node line fs =>
    change (fs.foldl _ s).groups = _
    induction fs generalizing s with
    | nil => rfl
    | cons f t ih => exact (ih _).trans (sendFrag_groups ..)

theorem performReady_groups (g : Group) (part : Nat) (buf : List RegionEntry) (s : State) :
    (performReady g part buf s).2.groups = s.groups := by
  induction buf generalizing s with
  | nil => rfl
  | cons e t ih =>
    unfold performReady
    split
    · exact (ih _).trans (performEntry_groups g part s e)
    · rfl

theorem hastenFor_groups (s : State) (g : Group) (buf : List RegionEntry) : (hastenFor s g buf).groups = s.groups := by
  cases buf with
  | nil => rfl
  | cons e t => simp only [hastenFor, hastenTeam, apply_ite State.groups, ite_self]

/-- A commit leaves every group as it was, but for its region. -/
theorem commitRegion_groups (s : State) (g : Group) :
    ∃ f : Group → Group, (∀ x, f x = { x with region := (f x).region }) ∧ (commitRegion s g).groups = s.groups.map f := by
  unfold commitRegion commitStep
  split
  · exact ⟨id, fun _ => rfl, by simp⟩
  · dsimp only
    split
    · refine ⟨_, fun x => ?_, (Laws.modify_eq_map ..).trans (by rw [performReady_groups])⟩
      split <;> rfl
    · refine ⟨_, fun x => ?_, (Laws.modify_eq_map ..).trans (by rw [hastenFor_groups, performReady_groups])⟩
      split <;> rfl

/-! ## The issuing split after a trap -/

/-- Every group of a slot is of one grid. -/
def OneGridAt (s : State) (w : Issuer) (gid : Nat) : Prop := ∀ g ∈ s.groups, Group.isAt w.core w.gslot g = true → g.gid = gid

theorem stallsAt_congr {s t : State} {w : Issuer} (h : t.groups = s.groups) : StallsAt t w ↔ StallsAt s w := by
  simp only [StallsAt, groupAt, h]

theorem oneGridAt_congr {s t : State} {w : Issuer} {gid : Nat} (h : t.groups = s.groups) :
    OneGridAt t w gid ↔ OneGridAt s w gid := by
  simp only [OneGridAt, h]

theorem groupAt_commitRegion (s : State) (g : Group) (core gslot : Nat) :
    ∃ f : Group → Group, (∀ x, f x = { x with region := (f x).region }) ∧
      groupAt (commitRegion s g) core gslot = (groupAt s core gslot).map f := by
  obtain ⟨f, hf, hg⟩ := commitRegion_groups s g
  refine ⟨f, hf, ?_⟩
  have kept : Group.isAt core gslot ∘ f = Group.isAt core gslot := by
    funext x
    rw [Function.comp, hf x]
    rfl
  rw [groupAt, hg, List.find?_map, kept]
  rfl

theorem not_stallsAt_commitRegion {s : State} {g : Group} {w : Issuer} (h : ¬StallsAt s w) :
    ¬StallsAt (commitRegion s g) w := by
  obtain ⟨f, hf, hg⟩ := groupAt_commitRegion s g w.core w.gslot
  rintro ⟨y, hy, idle⟩
  rw [hg] at hy
  obtain ⟨x, hx, rfl⟩ := Option.map_eq_some_iff.mp hy
  rw [hf x] at idle
  exact h ⟨x, hx, idle⟩

theorem oneGridAt_commitRegion {s : State} {g : Group} {w : Issuer} {gid : Nat} (h : OneGridAt s w gid) :
    OneGridAt (commitRegion s g) w gid := by
  obtain ⟨f, hf, hg⟩ := commitRegion_groups s g
  intro y hy isAt
  rw [hg] at hy
  obtain ⟨x, hx, rfl⟩ := List.mem_map.mp hy
  rw [hf x] at isAt ⊢
  exact h x hx isAt

theorem not_stallsAt_failGrid {s : State} {w : Issuer} {gid : Nat} (cause : Nat) (one : OneGridAt s w gid)
    (h : ¬StallsAt s w) : ¬StallsAt (failGrid s gid cause) w := by
  obtain same | cleared := failGrid_groups s gid cause
  · rwa [stallsAt_congr same]
  · rintro ⟨g, hg, -⟩
    rw [groupAt, cleared] at hg
    obtain ⟨hm, hne⟩ := List.mem_filter.mp (List.mem_of_find?_eq_some hg)
    exact absurd (one g hm (List.find?_some hg)) (by simpa using hne)

/-- A trap is entered, or its grid fails. -/
theorem enterTrapAt_cases {s : State} {w : Issuer} {g : Group} (pcf next : Dword) (t : Trp)
    (hg : groupAt s w.core w.gslot = some g) :
    (∃ es cause, enterTrapAt s w pcf next t = failGrid (errParts s (partOf s g) es) g.gid cause) ∨
      ∃ u g' p, enterTrapAt s w pcf next t = putGroup u (putSplit g' w.entry p) ∧ u.groups = s.groups ∧
        g'.core = g.core ∧ g'.gslot = g.gslot ∧ p.idle = none := by
  unfold enterTrapAt
  simp only [hg]
  cases gridOf s g.gid with
  | none => exact .inl ⟨[], _, rfl⟩
  | some gr =>
    dsimp only
    split
    · exact .inl ⟨[], _, rfl⟩
    split
    · exact .inl ⟨[], _, rfl⟩
    split
    · exact .inl ⟨_, _, rfl⟩
    split
    · exact .inl ⟨[], _, rfl⟩
    cases writablePa s (coreTlb g.core) (partOf s g) g.gid
        ((vget g.s 55 0).toNat + 64 * lowestLane (splitAt g w.entry).arch.mask) with
    | none => exact .inl ⟨_, _, rfl⟩
    | some pa =>
      refine .inr ⟨_, _, _, rfl, ?_, ?_, ?_, rfl⟩
      · rw [tap_groups, pushTick, Laws.writeBytes_groups]
      · split <;> rfl
      · split <;> rfl

theorem not_stallsAt_putSplit {s : State} {w : Issuer} {g g' : Group} {p : Split}
    (hg : groupAt s w.core w.gslot = some g) (core : g'.core = g.core) (gslot : g'.gslot = g.gslot)
    (entry : w.entry < 4) (idle : p.idle = none) : ¬StallsAt (putGroup s (putSplit g' w.entry p)) w := by
  obtain ⟨hc, hs⟩ := Laws.groupAt_isAt hg
  rintro ⟨x, hx, stalls⟩
  rw [Laws.groupAt_putGroup (g' := putSplit g' w.entry p) hg (core.trans hc) (gslot.trans hs)] at hx
  obtain rfl := Option.some.inj hx
  rw [Laws.splitAt_putSplit_same p entry] at stalls
  exact stalls idle

theorem not_stallsAt_enterTrapAt {s : State} {w : Issuer} {g : Group} (pcf next : Dword) (t : Trp)
    (hg : groupAt s w.core w.gslot = some g) (entry : w.entry < 4) (one : OneGridAt s w g.gid) (h : ¬StallsAt s w) :
    ¬StallsAt (enterTrapAt s w pcf next t) w := by
  obtain ⟨es, cause, eq⟩ | ⟨u, g', p, eq, groups, core, gslot, idle⟩ := enterTrapAt_cases pcf next t hg
  · rw [eq]
    exact not_stallsAt_failGrid cause ((oneGridAt_congr (errParts_groups ..)).mpr one)
      (by rwa [stallsAt_congr (errParts_groups ..)])
  · rw [eq]
    have hu : groupAt u w.core w.gslot = some g := by rw [groupAt, groups]; exact hg
    exact not_stallsAt_putSplit hu core gslot entry idle

theorem enterTrap_plainTrap {s : State} {w : Issuer} {g : Group} (pcf next : Dword) (cause : Nat) (lanes : Mask)
    (hg : groupAt s w.core w.gslot = some g) :
    ∃ u : State, u.groups = s.groups ∧ enterTrap s ⟨w, pcf, next⟩ (plainTrap cause lanes) =
      enterTrapAt (commitRegion u g) w pcf next (plainTrap cause lanes) := by
  unfold enterTrap
  simp only [hg]
  refine ⟨_, ?_, rfl⟩
  rfl

/-- The split that traps does not stall: it enters its handler, or its grid's groups leave its slot, or nothing changes. -/
theorem not_stallsAt_enterTrap {s : State} {w : Issuer} {g : Group} (pcf next : Dword) (cause : Nat) (lanes : Mask)
    (hg : groupAt s w.core w.gslot = some g) (entry : w.entry < 4) (one : OneGridAt s w g.gid) (h : ¬StallsAt s w) :
    ¬StallsAt (enterTrap s ⟨w, pcf, next⟩ (plainTrap cause lanes)) w := by
  obtain ⟨u, groups, eq⟩ := enterTrap_plainTrap pcf next cause lanes hg
  obtain ⟨f, hf, hu⟩ := groupAt_commitRegion u g w.core w.gslot
  have hug : groupAt u w.core w.gslot = some g := by rw [groupAt, groups]; exact hg
  rw [hug, Option.map_some] at hu
  have gid : (f g).gid = g.gid := by rw [hf g]
  rw [eq]
  exact not_stallsAt_enterTrapAt pcf next _ hu entry
    (gid ▸ oneGridAt_commitRegion ((oneGridAt_congr groups).mpr one))
    (not_stallsAt_commitRegion (by rwa [stallsAt_congr groups]))

/-! ## The order of the turn does not matter to a commit -/

/-- The state with other splits in turn. -/
def withTurn (turn : List Issuer) (s : State) : State := { s with turn := turn }

theorem carryFlags_withTurn (turn : List Issuer) (s : State) (key : SlotKey) (dup orphan : Bool) :
    carryFlags (withTurn turn s) key dup orphan = withTurn turn (carryFlags s key dup orphan) := by
  simp only [carryFlags, apply_ite (withTurn turn)]
  rfl

theorem setDescFlag_withTurn (turn : List Issuer) (s : State) (pa bit : Nat) :
    setDescFlag (withTurn turn s) pa bit = withTurn turn (setDescFlag s pa bit) := by
  simp only [setDescFlag, apply_ite (withTurn turn)]
  rfl

theorem setRedFlag_withTurn (turn : List Issuer) (s : State) (r : RedOpen) (bit : Nat) :
    setRedFlag (withTurn turn s) r bit = withTurn turn (setRedFlag s r bit) := by
  rw [setRedFlag, setDescFlag_withTurn]
  rfl

theorem reportFrag_withTurn (turn : List Issuer) (s : State) (f : Frag) :
    reportFrag (withTurn turn s) f false true = withTurn turn (reportFrag s f false true) := by
  have ho : openRed (withTurn turn s) f = openRed s f := rfl
  unfold reportFrag
  rw [ho]
  cases f.remote with
  | some x => exact carryFlags_withTurn ..
  | none =>
    cases openRed s f with
    | some r => exact setRedFlag_withTurn ..
    | none => rfl

theorem sendFrag_withTurn (turn : List Issuer) (s : State) (core : Nat) (owner : Option (Nat × Mask)) (f : Frag) :
    sendFrag (withTurn turn s) core owner f = withTurn turn (sendFrag s core owner f) := by
  unfold sendFrag
  split
  · exact reportFrag_withTurn ..
  · rfl

theorem rwcPut_withTurn (turn : List Issuer) (s : State) (core gid team part : Nat) (dev : BitVec 14) (win : BitVec 12)
    (off : Nat) (bs : List Byte) (store : Mask × Nat × Nat × BitVec 3) :
    rwcPut (withTurn turn s) core gid team part dev win off bs store =
      withTurn turn (rwcPut s core gid team part dev win off bs store) := by
  simp only [rwcPut, apply_ite (withTurn turn)]
  rfl

theorem performEntry_withTurn (turn : List Issuer) (g : Group) (part : Nat) (s : State) (e : RegionEntry) :
    performEntry g part (withTurn turn s) e = withTurn turn (performEntry g part s e) := by
  cases e with
  | bytes => rfl
  | remote => exact rwcPut_withTurn ..
  | stage => rfl
  | node line fs =>
    change fs.foldl _ _ = withTurn turn (fs.foldl _ _)
    induction fs generalizing s with
    | nil => rfl
    | cons f t ih => rw [List.foldl_cons, List.foldl_cons, sendFrag_withTurn, ih]

theorem entryReady_withTurn (turn : List Issuer) (s : State) (g : Group) (e : RegionEntry) :
    entryReady (withTurn turn s) g e = entryReady s g e := by
  cases e <;> rfl

theorem performReady_withTurn (turn : List Issuer) (g : Group) (part : Nat) (buf : List RegionEntry) (s : State) :
    performReady g part buf (withTurn turn s) =
      ((performReady g part buf s).1, withTurn turn (performReady g part buf s).2) := by
  induction buf generalizing s with
  | nil => rfl
  | cons e t ih =>
    unfold performReady
    rw [entryReady_withTurn, performEntry_withTurn, ih]
    split <;> rfl

theorem commitReady_withTurn (turn : List Issuer) (s : State) (g : Group) :
    commitReady (withTurn turn s) g = commitReady s g := by
  unfold commitReady commitStep
  cases g.region with
  | none => rfl
  | some r =>
    have hp : partOf (withTurn turn s) g = partOf s g := rfl
    have hn (u : State) : nodesOut (withTurn turn u) g.core g.gslot (BitVec.allOnes 32) =
      nodesOut u g.core g.gslot (BitVec.allOnes 32) := rfl
    simp only [hp, performReady_withTurn, hn]
    split <;> rfl

/-! ## The step of a Ready split -/

theorem step_of_readyNext {s : State} {w : Issuer} {rest : List Issuer} {g : Group} (h : ReadyNext s w rest g) :
    step s = afterIssue w (splitAt g w.entry).arch.mask (issueOne { s with turn := rest } w) := by
  have taken : step s = issueTurn { s with turn := rest } w := by
    simp only [step, h.due, h.turn, h.cursor]
  have hg : groupAt { s with turn := rest } w.core w.gslot = some g := h.group
  rw [taken, issueTurn, hg]
  exact if_pos h.ready

theorem afterIssue_of_not_stallsAt {t : State} {w : Issuer} (m : Mask) (h : ¬StallsAt t w) :
    afterIssue w m (.next t) = .next (noteIssue t w.core w.gslot m) := by
  have : ((groupAt t w.core w.gslot).map fun g => (splitAt g w.entry).idle.isSome).getD false = false := by
    cases hg : groupAt t w.core w.gslot with
    | none => rfl
    | some g => simpa using fun hi => h ⟨g, hg, hi⟩
  simp [afterIssue, this]

theorem issueOne_of_trap {s : State} {w : Issuer} {g : Group} {t : Trp} (hg : groupAt s w.core w.gslot = some g)
    (hr : (splitAt g w.entry).arch.state = .ready) (hc : commitReady s g = true)
    (hf : fetchInstr s w.core (partOf s g) g.gid (splitAt g w.entry).arch.mask (splitAt g w.entry).arch.pc = .trap t) :
    let pc := (splitAt g w.entry).arch.pc
    issueOne s w = .next { enterTrap s ⟨w, pc, pc⟩ t with
      freeCtr := s.freeCtr + 1024
      cur := none } := by
  have hcore : g.core = w.core := (Laws.groupAt_isAt hg).1
  rw [← hcore] at hf
  simp [issueOne, hg, hr, hf, finish, hc, endInstr]

/-- R119, R146: a pattern that is no instruction, and is not just cut off, raises the illegal-instruction trap, where the
groups of the issuing split's slot are all of its grid. -/
theorem takesIllegal_of_rejected {s : State} {w : Issuer} {rest : List Issuer} {g : Group} {hs : List (BitVec 16)}
    {e : Reject} (ready : ReadyNext s w rest g) (len : hs.length ≤ 6)
    (stands : StandsAt s w.core (partOf s g) g.gid (splitAt g w.entry).arch.pc hs) (commits : commitReady s g = true)
    (bad : decode hs = .error e) (whole : e ≠ .truncated) (pfxWhole : e ≠ .pfxTruncated) (one : OneGridAt s w g.gid) :
    TakesIllegal s w rest g := by
  have hg : groupAt { s with turn := rest } w.core w.gslot = some g := ready.group
  have stands' : StandsAt { s with turn := rest } w.core (partOf s g) g.gid (splitAt g w.entry).arch.pc hs := stands
  have commits' : commitReady { s with turn := rest } g = true := (commitReady_withTurn rest s g).trans commits
  have entry : w.entry < 4 := Laws.live_lt (g := g) (by rw [Split.live, ready.ready]; rfl)
  have runs : ¬StallsAt { s with turn := rest } w := by
    rintro ⟨x, hx, stalls⟩
    obtain rfl := Option.some.inj (hg.symm.trans hx)
    exact stalls ready.issues
  have trap := issueOne_of_trap hg ready.ready commits' (fetchInstr_of_rejected _ stands' len bad whole pfxWhole)
  refine ⟨s.freeCtr + 1024, ?_⟩
  rw [step_of_readyNext ready, trap, afterIssue_of_not_stallsAt]
  exact (stallsAt_congr rfl).not.mpr (not_stallsAt_enterTrap _ _ 0 _ hg entry one runs)

end Sys2Proof.Proofs
end

section
/-! The statement about every state fails where a slot has groups of two grids. -/
namespace Sys2Proof.Proofs

open Sys2Proof.Machine

/-! ## A slot that two grids share

A trap without a handler ends its grid, and the grid's groups leave. Where a group of another grid stands behind it in the
same slot, that group is what the step then finds there, and its stalled split counts as the issuing one: the issue slot has
its opportunity again, and no issue is noted. -/

/-- The bench's group: its split is next to issue, at zeros in memory, and its grid has no handler. -/
def trapper : Group := freshGroup State.reset benchGrid 0 0 0 0

/-- A group of another grid in the same slot: its splits stall, and wait for all lanes to issue. -/
def sharer : Group :=
  { trapper with
    gid := 1
    splits := Vector.replicate 4 { Split.free with idle := some 0, yielded := some (0, BitVec.allOnes 32) } }

/-- The bench, with other groups behind its own. -/
def benchWith (others : List Group) : State := { bench State.reset with groups := trapper :: others }

theorem readyNext_benchWith (others : List Group) : ReadyNext (benchWith others) ⟨0, 0, 0⟩ [] trapper where
  due := rfl
  turn := rfl
  cursor := by
    change (bench State.reset).cursor % 4 = 0
    decide +kernel
  group := rfl
  ready := by decide +kernel
  issues := by decide +kernel

/-- The page tables of the bench map the pc onto itself, where memory holds zeros. -/
theorem standsAt_bench : StandsAt (bench State.reset) 0 (partOf (bench State.reset) trapper) trapper.gid
    (splitAt trapper 0).arch.pc [0] := by
  intro k h hk
  obtain ⟨rfl, rfl⟩ : k = 0 ∧ h = 0 := by
    cases k with
    | zero => exact ⟨rfl, (Option.some.inj hk).symm⟩
    | succ k => simp at hk
  exact ⟨by decide +kernel, 0x20000, 0x20000, by decide +kernel, by decide +kernel, by decide +kernel⟩

theorem standsAt_withGroups {s : State} {core gid : Nat} {g : Group} {pc : Dword} {hs : List (BitVec 16)}
    (groups : List Group) (h : StandsAt s core (partOf s g) gid pc hs) :
    StandsAt { s with groups := groups } core (partOf { s with groups := groups } g) gid pc hs := h

theorem standsAt_benchWith (others : List Group) : StandsAt (benchWith others) 0 (partOf (benchWith others) trapper)
    trapper.gid (splitAt trapper 0).arch.pc [0] :=
  standsAt_withGroups _ standsAt_bench

/-- The bench's own group takes the trap where it is alone. -/
theorem takesIllegal_benchWith_nil : TakesIllegal (benchWith []) ⟨0, 0, 0⟩ [] trapper :=
  takesIllegal_of_rejected (readyNext_benchWith []) (by decide) (standsAt_benchWith []) rfl (decode_zeroHalfword [])
    (by decide) (by decide) fun g hg _ => by rw [List.mem_singleton.mp hg]

/-- What the first splits of the groups wait for, after a step. -/
def yieldsAfter (r : Host.Outcome State Fault Refusal) : List (Option (Nat × Mask)) :=
  match r with
  | .next t => t.groups.map fun g => (splitAt g 0).yielded
  | .fault _ => []
  | .refused _ => []

/-- The issue slot has its opportunity again, in which no split issues. -/
theorem yieldsAfter_step_shared : yieldsAfter (step (benchWith [sharer])) = [some (0, BitVec.allOnes 32)] := by
  decide +kernel

/-- An issue would be noted in the group that is left, whatever free values were drawn. -/
theorem yieldsAfter_noteIssue_shared (n : Nat) :
    yieldsAfter (.next (noteIssue { enterTrap { benchWith [sharer] with turn := [] }
      ⟨⟨0, 0, 0⟩, (splitAt trapper 0).arch.pc, (splitAt trapper 0).arch.pc⟩ (plainTrap 0 (splitAt trapper 0).arch.mask) with
        cur := none
        freeCtr := n } 0 0 (splitAt trapper 0).arch.mask)) = [some (0, 0)] := by
  have noted : yieldsAfter (.next (noteIssue (enterTrap { benchWith [sharer] with turn := [] }
      ⟨⟨0, 0, 0⟩, (splitAt trapper 0).arch.pc, (splitAt trapper 0).arch.pc⟩ (plainTrap 0 (splitAt trapper 0).arch.mask))
      0 0 (splitAt trapper 0).arch.mask)) = [some (0, 0)] := by decide +kernel
  exact noted

theorem not_takesIllegal_shared : ¬TakesIllegal (benchWith [sharer]) ⟨0, 0, 0⟩ [] trapper := by
  rintro ⟨n, hn⟩
  have h := yieldsAfter_noteIssue_shared n
  rw [← hn, yieldsAfter_step_shared] at h
  exact absurd h (by decide)

/-- Refutes O52: the last clause is about every state, and fails where a group of another grid stands behind the issuing one
in its slot. The clauses about the decoder and the opcode 0x00 hold (decode_zeroHalfword, decode_major_zero,
decode_reserved_major, exec_ill_traps), and so does the last where a slot's groups are of one grid
(takesIllegal_of_rejected). -/
theorem not_reservedPatternsTrap : ¬ Obligations.ReservedPatternsTrap := by
  rintro ⟨-, -, -, -, -, reject⟩
  exact not_takesIllegal_shared
    (reject (benchWith [sharer]) ⟨0, 0, 0⟩ [] trapper [0] (readyNext_benchWith [sharer]) (by decide)
      (standsAt_benchWith [sharer]) rfl (.inl (decode_zeroHalfword [])))

end Sys2Proof.Proofs
end

section
/-! What an invocation of a Lantern filter starts with (R475). -/
namespace Sys2Proof.Proofs

open Sys2Proof.Machine Sys2Proof.Laws

/-! ## The e registers of a starting invocation -/

theorem toNat_eventWord (e : TapEv) :
    (eventWord e).toNat = e.source.toNat + e.kind.toNat * 2 ^ 11 + e.part.toNat * 2 ^ 21 := by
  have fits : e.source.toNat + e.kind.toNat * 2 ^ 11 + e.part.toNat * 2 ^ 21 < 2 ^ 64 := by omega
  rw [eventWord, BitVec.toNat_ofNat, Nat.mod_eq_of_lt fits]

theorem vget_start_zero (f : LnFilter) (e : TapEv) : vget (LnRun.start f e).e 0 0 = e.payload.setWidth 64 := by
  simp [vget, LnRun.start]

theorem vget_start_one (f : LnFilter) (e : TapEv) : vget (LnRun.start f e).e 1 0 = e.time := by
  simp [vget, LnRun.start]

theorem vget_start_two (f : LnFilter) (e : TapEv) : vget (LnRun.start f e).e 2 0 = eventWord e := by
  simp [vget, LnRun.start]

theorem vget_start_of_ge_three (f : LnFilter) (e : TapEv) {i : Nat} (ge : 3 ≤ i) (lt : i < 16) :
    vget (LnRun.start f e).e i 0 = 0 := by
  rw [vget_of_lt _ _ lt]
  simp only [LnRun.start]
  rw [Vector.getElem_set_ne _ _ (by omega), Vector.getElem_set_ne _ _ (by omega), Vector.getElem_set_ne _ _ (by omega),
    Vector.getElem_replicate]

/-! ## Which invocation runs after an event is admitted (R474, R477) -/

/-- Of the invocations to run, each one skipped leaves the rest; one that runs has only just started. -/
theorem start_of_startTodo {todo : List (Nat × TapEv)} {s : State} {r : LnRun}
    (runs : (startTodo todo s).lantern.run = some r) : ∃ f e, r = LnRun.start f e := by
  induction todo generalizing s with
  | nil => simp [startTodo, modLn] at runs
  | cons p rest ih =>
    rw [startTodo] at runs
    split at runs
    next => exact ih runs
    next f _ =>
      split at runs
      next => exact ⟨f, p.2, (Option.some.inj runs).symm⟩
      next => exact ih runs

theorem start_of_filterInvocation {s t : State} {n : Nat} {r : LnRun} (idle : s.lantern.run = none)
    (next : exec (.filterInvocation n) s = .next t) (runs : t.lantern.run = some r) : ∃ f e, r = LnRun.start f e := by
  have unchanged : s.lantern.run ≠ some r := by simp [idle]
  obtain rfl := Host.Outcome.next.inj next
  split at runs
  case h_1 => exact absurd runs unchanged
  case h_2 =>
    split at runs
    case isTrue => exact start_of_startTodo runs
    case isFalse => exact absurd runs unchanged

/-- Settles O57: an invocation that runs where none ran before has just started (start_of_filterInvocation), and its
registers are then those of R475. -/
theorem invocationsStart : Obligations.InvocationsStart := by
  intro s n r t idle next runs
  obtain ⟨f, e, rfl⟩ := start_of_filterInvocation idle next runs
  refine ⟨vget_start_zero f e, vget_start_one f e, ?_, fun i => vget_start_of_ge_three f e, rfl⟩
  rw [vget_start_two]
  exact toNat_eventWord e

end Sys2Proof.Proofs
end

section
/-! What blkst reads as for a number that no block has (R494, R495). -/
namespace Sys2Proof.Proofs

open Sys2Proof.Machine

/-- R494: the ranges of the assigned numbers. -/
theorem blockAssigned_iff (n : Nat) : blockAssigned n = true ↔
    n < 192 ∨ (256 ≤ n ∧ n < 3328) ∨ (3328 ≤ n ∧ n < 3424) ∨ (3424 ≤ n ∧ n < 3472) ∨ (3472 ≤ n ∧ n ≤ 3493) := by
  simp [blockAssigned, or_assoc]

theorem blkstRead_of_unassigned {s : State} {n : Nat} (unassigned : ¬blockAssigned n = true) : blkstRead s n = 0 :=
  if_neg unassigned

/-- R485: blkst is the last of the device registers, and the tables before it end below it. -/
theorem devRead_of_ge (s : State) {off : Nat} (ge : 0x10000 ≤ off) :
    devRead s off = blkstRead s ((off - 0x10000) / 8) := by
  rw [devRead, if_neg (by omega), if_neg (by omega), if_neg (by simp; omega), if_neg (by simp; omega),
    if_neg (by simp; omega), if_neg (by simp; omega), if_pos ge]

theorem registerRead_blkst (s : State) (n : Nat) : registerRead s .device (0x10000 + 8 * n) = blkstRead s n := by
  have index : (0x10000 + 8 * n - 0x10000) / 8 = n := by omega
  rw [registerRead, if_neg (by omega)]
  exact (devRead_of_ge s (Nat.le_add_right _ _)).trans (congrArg (blkstRead s) index)

/-- Settles O56: a device register at 0x1_0000 + 8n is blkst[n] (registerRead_blkst), which reads zero where n is not
assigned (blkstRead_of_unassigned). -/
theorem unassignedBlocksReadZero : Obligations.UnassignedBlocksReadZero := by
  intro s n outside
  rw [registerRead_blkst]
  exact blkstRead_of_unassigned (mt (blockAssigned_iff n).mp outside)

end Sys2Proof.Proofs
end
